-- ==== Sys2Proof/Word.lean ====
section
/-! DEFINITION. The word types of the ZMV-9400 (R5, R9). -/

namespace Sys2Proof

/-- One byte of memory or of an instruction (R5). -/
abbrev Byte := BitVec 8
/-- A 16-bit value: a directional component (R63), a packed element (R58). -/
abbrev Half := BitVec 16
/-- A 32-bit value: one v register (R9, R48), one parcel (R16). -/
abbrev Word := BitVec 32
/-- A 64-bit value: a register pair (R48), an address (R297). -/
abbrev DWord := BitVec 64

end Sys2Proof
end

