-- ==== Sys2Proof/Config.lean ====
section
/-! DEFINITION. What an implementation fixes, and the free values: constants with no body, of which nothing can be
proved but that they are some value (log 6). -/

namespace Sys2Proof.Config

/-- A free 64-bit value, taken by the counter State.free (log 6). -/
opaque freeWord : Nat → BitVec 64

/-- The correctly rounded result of a function of R99 on which the fuel of the enclosures ran out (log 7). -/
opaque freeResult : Nat → BitVec 64

/-- The bytes a SPDM response carries (R382 names the requests, not the contents), by request and time (log 10). -/
opaque spdmResponse : Nat → Nat → List Byte

/-- The exponent of the first root of the flits' Reed-Solomon code: R383 names the code's field, not its roots (log 26). -/
opaque fecFirst : Nat

/-- KIND and payload of a link-control flit (R384 names them, not their encoding): 0 PAUSE, 1 RESUME, 2 WIDTH, 3 REPLAY, with the
lane, wavelength set or SEQ it carries (log 26). -/
opaque controlFlit : Nat → Nat → BitVec 5 × List Byte

/-- KIND of the package's own requests, responses, collectives and shards (log 26). -/
opaque flitKind : Nat → List Byte → BitVec 5

/-- Whether an image's RSA-3072 signature verifies against the fused key (R393), by the image's bytes (log 10). -/
opaque signatureOk : List Byte → Bool

/-- The security version that an image carries: R393 does not say where in its bytes (log 10). -/
opaque securityVersion : List Byte → Nat

/-- The fused minimum of the security version (R393). -/
opaque fusedMinimum : Nat

/-- The digest of a training record, of its settings and temperature: R392 does not lay the record out (log 156). -/
opaque recordDigest : Nat → Nat → Nat

/-- Whether a unit passes the 1 ms eye check with its stored settings, by unit, settings and boot (R392, log 156). -/
opaque eyePasses : Nat → Nat → Nat → Bool

/-- Whether a core passes MCHK and the register-file march of stage 4 of a boot (R391), by physical number and boot. -/
opaque corePasses : Nat → Nat → Bool

/-- The watts below which a die's grant falls short of its matrix arrays' demand (R234 gives no number, log 151). -/
opaque arrayDemand : Nat

/-- Which of the six stretches of R234 a core's engine chooses, by core and arbitration interval (log 151). -/
opaque planeChoice : Nat → Nat → Nat

/-- The first 4,096-byte page of the areas that the ridge pair names for the images of its own saves (R281, log 19). -/
opaque imagePage : Nat

/-- The physical package identifier (R217). -/
opaque packageId : BitVec 32

/-- Deferred entries that the commit queues and their overflow region hold (R209 gives the region's bytes, not an entry's). -/
opaque deferCapacity : Nat

/-- Cores enabled per rafter die (R2). -/
def coresPerDie : Nat := 80
/-- Cores built per rafter die (R2). -/
def coresBuilt : Nat := 84
/-- Rafter dies (R2). -/
def dies : Nat := 8
/-- Enabled cores of a full package (R2). -/
def ncoreFull : Nat := 640
/-- Bytes of a core's vault (R2). -/
def vaultBytes : Nat := 0x400000
/-- Start of the vault windows (R298). -/
def vwin : Nat := 0x00FF000000000000
/-- End of the window range (R298). -/
def vwinEnd : Nat := 0x00FF000000000000 + 2 ^ 40

/-- Time units of 1/336 ns in one ac, one uc, one ns and one microsecond (R6). -/
def ac : Nat := 160
/-- See `ac`. -/
def uc : Nat := 210
/-- See `ac`. -/
def ns : Nat := 336
/-- See `ac`. -/
def us : Nat := 336000

/-- The address TRAPQ.BASE reads (R378 leaves it open, log 14): a window of the ridge pair, outside every other range. -/
def trapqBase : Nat := 0x00FE000000000000

end Sys2Proof.Config
end

