-- ==== Sys2Proof/Syntax.lean ====
section
/-! DEFINITION. The syntax of the ZMV-9400: the fields every instruction carries, the operand layouts, and `Instr`, one
constructor per row of spec/opcode_table.json. Rows 0 to 169 are encoded instructions (R36); rows 170 to 280 are the
device's events, which have no encoding (95_what_each_step_holds.md). -/

namespace Sys2Proof

/-- An 8-bit operand field (R32). The opcode gives its class (R9). -/
abbrev Reg := BitVec 8

/-- LEN (R16). -/
inductive Len where
  | l64 | l96 | l128
  deriving DecidableEq, Repr

/-- A guard predicate field with its inversion bit (R21, R30). -/
structure Guard where
  idx : BitVec 7
  neg : Bool
  deriving DecidableEq, Repr

/-- GCOMB (R30). -/
inductive GComb where
  | single | conj | disj | excl
  deriving DecidableEq, Repr

/-- The fields every instruction carries (R21, R23): scheduling, guards, cache hint. -/
structure Ctl where
  len : Len
  stall : BitVec 4
  wait : BitVec 12
  setf : BitVec 4
  g0 : Guard
  gcomb : GComb
  g1 : Guard
  chint : BitVec 3
  deriving DecidableEq, Repr

/-- Bytes of an instruction of this length (R16). -/
def Len.bytes : Len → Nat
  | .l64 => 8
  | .l96 => 12
  | .l128 => 16

/-- A second source: register or IMM20 (R75). -/
inductive Src where
  | reg (r : Reg)
  | imm (v : BitVec 20)
  deriving DecidableEq, Repr

/-- The scalar operand of classes 0x3 and 0x4: SRCC (absent in some forms) or IMM20 (R112). -/
inductive Scal where
  | reg (r : Option Reg)
  | imm (v : BitVec 20)
  deriving DecidableEq, Repr

/-- Rounding modes (R64). -/
inductive Rm where
  | rne | rtz | rup | rdn | rd
  deriving DecidableEq, Repr

/-- Integer comparisons (R92). -/
inductive ICond where
  | eq | ne | lt | le | gt | ge | ltu | leu | gtu | geu
  deriving DecidableEq, Repr

/-- Floating-point comparisons (R96). -/
inductive FCond where
  | eq | ne | lt | le | gt | ge | num | nan
  deriving DecidableEq, Repr

/-- Reductions (R107). -/
inductive VOp where
  | add | min | max | and | or | xor
  deriving DecidableEq, Repr

/-- VSHFL modes (R109). -/
inductive ShMode where
  | idx | up | down | xor
  deriving DecidableEq, Repr

/-- FCVT formats (R101). -/
inductive CvtFmt where
  | f32 | f16 | bf16 | e4m3 | e5m2 | s32 | u32 | s64 | u64 | s16 | u16 | s8 | u8
  deriving DecidableEq, Repr

/-- Formats of DNORM, DUNPK and BFPUNPK (R104, R113). -/
inductive F3 where
  | f32 | f16 | bf16
  deriving DecidableEq, Repr

/-- Scopes (R157, R322). -/
inductive Scope where
  | thread | quadrant | workgroup | cluster | die | device | system
  deriving DecidableEq, Repr

/-- LD and ST access sizes (R159). -/
inductive Sz where
  | w32 | b8 | h16 | d64 | q128 | b8s | h16s
  deriving DecidableEq, Repr

/-- Atomic operations (R191). -/
inductive AOp where
  | add | min | max | and | or | xor | xchg | inc | dec | fadd
  deriving DecidableEq, Repr

/-- ORD (R191). -/
inductive Ord4 where
  | relaxed | acq | rel | acqrel
  deriving DecidableEq, Repr

/-- FENCE kinds (R166). -/
inductive FKind where
  | full | acq | rel
  deriving DecidableEq, Repr

/-- CRED operations (R157). -/
inductive COp where
  | add | min | max
  deriving DecidableEq, Repr

/-- CNT of MGET and MPUT: N = 1, 4, 16, 64 (R141). -/
inductive Cnt where
  | n1 | n4 | n16 | n64
  deriving DecidableEq, Repr

/-- TRET modes (R216). -/
inductive TMode where
  | next | retry | goto | kill
  deriving DecidableEq, Repr

/-- ERRINJ modes (R154). -/
inductive InjMode where
  | one | two | twoTwice
  deriving DecidableEq, Repr

/-- PAND, POR, PXOR, PNOT, PMOV (R87). -/
structure PredArgs where
  d : Reg
  a : Reg
  b : Reg
  na : Bool
  nb : Bool
  deriving DecidableEq, Repr

/-- Two-source integer and bitwise operations (R88, R90). -/
structure IntBin where
  d : Reg
  a : Reg
  b : Src
  w64 : Bool
  u : Bool
  sat : Bool
  deriving DecidableEq, Repr

/-- IMAD (R88). -/
structure IntTern where
  d : Reg
  a : Reg
  b : Src
  c : Option Reg
  w64 : Bool
  deriving DecidableEq, Repr

/-- One-source integer operations (R88, R90). -/
structure IntUn where
  d : Reg
  a : Reg
  w64 : Bool
  sat : Bool
  deriving DecidableEq, Repr

/-- BFE and BFI (R91). -/
structure BitField where
  d : Reg
  a : Reg
  b : Reg
  w64 : Bool
  s : Bool
  len : BitVec 7
  pos : BitVec 6
  deriving DecidableEq, Repr

/-- ISETP (R92). -/
structure ISetp where
  p : Reg
  a : Reg
  b : Src
  cond : ICond
  w64 : Bool
  deriving DecidableEq, Repr

/-- SEL (R93). -/
structure SelArgs where
  d : Reg
  a : Reg
  b : Src
  ps : Option Reg
  w64 : Bool
  deriving DecidableEq, Repr

/-- MOV widths in registers (R93). -/
inductive MovW where
  | w1 | w2 | w4
  deriving DecidableEq, Repr

/-- MOVI forms (R93). -/
inductive MSel where
  | w32 | s64 | u64
  deriving DecidableEq, Repr

/-- LEA (R93). -/
structure LeaArgs where
  d : Reg
  a : Reg
  b : Reg
  s : Bool
  sh : BitVec 6
  deriving DecidableEq, Repr

/-- FADD, FSUB, FMUL and FSCALE; c is the coordinate register (R78, R94, R98). -/
structure FBin where
  d : Reg
  a : Reg
  b : Src
  c : Option Reg
  rm : Rm
  deriving DecidableEq, Repr

/-- FFMA, FDOT2, FDOT4; x is the coordinate register (R78, R94, R100). -/
structure FTern where
  d : Reg
  a : Reg
  b : Reg
  c : Option Reg
  x : Option Reg
  rm : Rm
  deriving DecidableEq, Repr

/-- FMIN and FMAX (R95). -/
structure FSel where
  d : Reg
  a : Reg
  b : Src
  deriving DecidableEq, Repr

/-- One-source operations that do not round (R95, R97, R105, R110). -/
structure Un where
  d : Reg
  a : Reg
  deriving DecidableEq, Repr

/-- One-source operations that round; c is the coordinate register (R98, R99). -/
structure FUn where
  d : Reg
  a : Reg
  c : Option Reg
  rm : Rm
  deriving DecidableEq, Repr

/-- FSETP (R96). -/
structure FSetp where
  p : Reg
  a : Reg
  b : Src
  cond : FCond
  e1 : Bool
  deriving DecidableEq, Repr

/-- FCVT (R101). -/
structure FCvt where
  d : Reg
  a : Reg
  b : Reg
  df : CvtFmt
  e : BitVec 2
  cb : Bool
  rm : Rm
  sf : Option CvtFmt
  c : Option Reg
  deriving DecidableEq, Repr

/-- BFPPACK; m is the mantissa width less 2 (R103). -/
structure BfpPack where
  d : Reg
  a : Reg
  b : Reg
  m : Fin 7
  rm : Rm
  c : Option Reg
  deriving DecidableEq, Repr

/-- BFPUNPK (R104). -/
structure BfpUnpk where
  d : Reg
  a : Reg
  df : F3
  rm : Rm
  c : Option Reg
  deriving DecidableEq, Repr

/-- VRED and VSCAN (R107, R108). -/
structure VRed where
  d : Reg
  a : Reg
  op : VOp
  u : Bool
  w64 : Bool
  exact : Bool
  excl : Bool
  deriving DecidableEq, Repr

/-- VSHFL and VBCAST (R109). -/
structure VSh where
  d : Reg
  a : Reg
  b : Src
  mode : ShMode
  w64 : Bool
  deriving DecidableEq, Repr

/-- TAGSET, TAGCHK, SCLSET (R110). -/
structure TagArgs where
  d : Reg
  a : Reg
  b : Src
  trap : Bool
  deriving DecidableEq, Repr

/-- DNORM (R113). -/
structure DNorm where
  d : Reg
  a : Reg
  sf : F3
  deriving DecidableEq, Repr

/-- DUNPK (R113). -/
structure DUnpk where
  d : Reg
  a : Reg
  df : F3
  n : Bool
  rm : Rm
  c : Option Reg
  deriving DecidableEq, Repr

/-- Three-register directional operations (R113). -/
structure DBin where
  d : Reg
  a : Reg
  b : Reg
  deriving DecidableEq, Repr

/-- DDOTR (R113). -/
structure DDotR where
  d : Reg
  a : Reg
  b : Reg
  rm : Rm
  c : Option Reg
  deriving DecidableEq, Repr

/-- DSCL (R113, R125). -/
structure DScl where
  d : Reg
  a : Reg
  s : Scal
  deriving DecidableEq, Repr

/-- DLERP (R113, R127). -/
structure DLerp where
  d : Reg
  a : Reg
  b : Reg
  s : Scal
  deriving DecidableEq, Repr

/-- NMOV (R113, R129). -/
structure NMov where
  d : Reg
  a : Reg
  w : Bool
  deriving DecidableEq, Repr

/-- DLD and DST: r is the d register, a the address pair (R113, R130). -/
structure DMem where
  r : Reg
  a : Reg
  off : BitVec 20
  deriving DecidableEq, Repr

/-- MMA (R140, R141). -/
structure Mma where
  d : Reg
  a : Reg
  b : Reg
  k : BitVec 4
  mbf : Fin 7
  c : Option Reg
  deriving DecidableEq, Repr

/-- MMAS (R140, R149). -/
structure Mmas where
  d : Reg
  a : Reg
  b : Reg
  k : BitVec 4
  mbf : Fin 7
  abm : BitVec 16
  c : Option Reg
  e : Option Reg
  deriving DecidableEq, Repr

/-- MDRAIN (R153). -/
structure MDrain where
  d : Reg
  a : Reg
  m : Reg
  keep : Bool
  rm : Rm
  c : Option Reg
  deriving DecidableEq, Repr

/-- MGET (R152). -/
structure MGet where
  d : Reg
  m : Reg
  s : Scal
  cnt : Cnt
  sync : Bool
  tr : Bool
  deriving DecidableEq, Repr

/-- MPUT (R151). -/
structure MPut where
  m : Reg
  a : Reg
  s : Scal
  cnt : Cnt
  tr : Bool
  deriving DecidableEq, Repr

/-- ERRINJ (R154). -/
structure ErrInj where
  m : Reg
  mode : InjMode
  row : BitVec 6
  col : BitVec 6
  bit : BitVec 5
  deriving DecidableEq, Repr

/-- LD (R159). -/
structure Ld where
  d : Reg
  a : Reg
  sz : Sz
  fresh : Bool
  acq : Bool
  nt : Bool
  scope : Scope
  ftag : BitVec 6
  off : BitVec 16
  deriving DecidableEq, Repr

/-- ST (R159). -/
structure St where
  a : Reg
  b : Reg
  sz : Sz
  rel : Bool
  nt : Bool
  wc : Bool
  scope : Scope
  off : BitVec 16
  deriving DecidableEq, Repr

/-- LDV and STV: r is the data run (R164). -/
structure Ldv where
  r : Reg
  a : Reg
  b : Reg
  c : Option Reg
  nm1 : BitVec 5
  x1 : Bool
  fresh : Bool
  deriving DecidableEq, Repr

/-- PREF: target L1 or RC (R165). -/
structure Pref where
  a : Reg
  rc : Bool
  off : BitVec 16
  deriving DecidableEq, Repr

/-- COPY (R173). -/
structure CopyArgs where
  bar : Reg
  d : Reg
  s : Reg
  n : Option Reg
  deriving DecidableEq, Repr

/-- GATHER and SCATTER: a and b are the two memory operands in field order (R174). -/
structure Gather where
  bar : Reg
  a : Reg
  b : Reg
  idx : Option Reg
  nrows : BitVec 11
  idx64 : Bool
  rowb4 : BitVec 12
  deriving DecidableEq, Repr

/-- TCOPY (R175). -/
structure TCopy where
  bar : Reg
  d : Reg
  s : Reg
  rm : Rm
  deriving DecidableEq, Repr

/-- BINIT: p is SRCB, b is SRCC (R156, R179, R182). -/
structure BInit where
  a : Reg
  p : Reg
  b : Option Reg
  ring : Bool
  deriving DecidableEq, Repr

/-- BARR (R179). -/
structure BArr where
  a : Reg
  c : Option Reg
  w : Bool
  deriving DecidableEq, Repr

/-- BWAIT, and BTEST with p its predicate (R180). -/
structure BWait where
  p : Reg
  a : Reg
  b : Reg
  checked : Bool
  deriving DecidableEq, Repr

/-- RINGNEXT (R183). -/
structure RingNext where
  d : Reg
  a : Reg
  consumer : Bool
  deriving DecidableEq, Repr

/-- RGET and RPUT: a and b in field order (R186). -/
structure RXfer where
  bar : Reg
  a : Reg
  b : Reg
  n : Option Reg
  k : Option Reg
  deriving DecidableEq, Repr

/-- CRED, CGATH, CBCST (R187 to R189). -/
structure Coll where
  bar : Reg
  d : Reg
  s : Reg
  g : Option Reg
  op : COp
  root : BitVec 16
  deriving DecidableEq, Repr

/-- ATOM and RED (R191). -/
structure Atom where
  d : Reg
  a : Reg
  b : Reg
  op : AOp
  w64 : Bool
  u : Bool
  ord : Ord4
  scope : Scope
  off : BitVec 16
  deriving DecidableEq, Repr

/-- ATOMC (R191). -/
structure AtomC where
  d : Reg
  a : Reg
  b : Reg
  c : Option Reg
  w64 : Bool
  ord : Ord4
  scope : Scope
  deriving DecidableEq, Repr

/-- QLOCK, QTRY, QUNLK; p is QTRY's predicate (R198). Scope thread stands for device. -/
structure LockArgs where
  p : Reg
  a : Reg
  scope : Scope
  off : BitVec 16
  deriving DecidableEq, Repr

/-- SYSRD and SYSWR: r is the v register (R213). -/
structure SysArgs where
  r : Reg
  num : BitVec 16
  w64 : Bool
  deriving DecidableEq, Repr

/-- TRET (R216). -/
structure TRet where
  d : Reg
  a : Reg
  b : Reg
  mode : TMode
  deriving DecidableEq, Repr

/-- HEAPSET (R219, R299). -/
structure HeapSet where
  x : Reg
  a : Reg
  b : Reg
  c : Option Reg
  deriving DecidableEq, Repr

/-- TLBINV (R219). -/
structure TlbInv where
  a : Reg
  b : Reg
  mode : BitVec 2
  deriving DecidableEq, Repr

/-- A peer's part in a joined collective (R187): rank, kind number, OP, ROOT, element count, destination count,
destination FMT, and the source's element bytes (for BFP, the mantissa plane, with its scales in `scales`); its place among the
group's commands at that member, and whether the notice is that this member's command has been cancelled. -/
structure PeerPart where
  rank : Nat
  kind : Nat
  op : COp
  root : Nat
  count : Nat
  dcount : Nat
  dfmt : BitVec 8
  sfmt : BitVec 8
  data : List Byte
  scales : List Byte
  place : Nat := 0
  cancelled : Bool := false
  deriving DecidableEq, Repr

/-- A parity shard of a snapshot: region, round, stripe, h of R348, bytes. -/
structure ParityShard where
  region : Nat
  round : Nat
  stripe : Nat
  h : Nat
  bytes : List Byte
  deriving DecidableEq, Repr

/-- What a member of the stripe group holds of a step (R348): its regions' rounds, and its parity shards. -/
structure PeerSnap where
  rank : Nat
  data : List (List Byte)
  parity : List ParityShard
  deriving DecidableEq, Repr

/-- A peer's RPUT (with its bytes) or RGET access to this package (R186, R401). -/
structure RemoteReq where
  put : Bool
  va : BitVec 64
  n : Nat
  data : List Byte
  priv : Bool
  deriving DecidableEq, Repr

/-- A link row of the JOBCFG peer table (R382): the peer's logical package, if any. -/
abbrev LinkPeer := Option Nat

/-- The instructions and events of spec/opcode_table.json, in the table's order. -/
inductive Instr where
  -- class 0x0: control (R80 to R87) and work (R203 to R207)
  | nop (c : Ctl)
  | bra (c : Ctl) (off : Word)
  | brx (c : Ctl) (a : Reg)
  | call (c : Ctl) (d : Reg) (off : Word)
  | ret (c : Ctl) (a : Reg)
  | exit (c : Ctl)
  | yield (c : Ctl)
  | fuse (c : Ctl) (hold : BitVec 8)
  | waitf (c : Ctl) (mem : Bool)
  | sleep (c : Ctl) (n : BitVec 24)
  | trap (c : Ctl) (code : BitVec 8)
  | brk (c : Ctl) (tag : Word)
  | pand (c : Ctl) (x : PredArgs)
  | por (c : Ctl) (x : PredArgs)
  | pxor (c : Ctl) (x : PredArgs)
  | pnot (c : Ctl) (d a : Reg)
  | pmov (c : Ctl) (d a : Reg) (na : Bool)
  | fetchw (c : Ctl) (d p : Reg)
  | emit (c : Ctl) (a : Reg) (q : BitVec 2)
  | gate (c : Ctl) (g : BitVec 4)
  | release (c : Ctl) (g : BitVec 4)
  | migr (c : Ctl) (a : Reg) (home : Bool)
  -- class 0x1: integer (R88 to R93)
  | iadd (c : Ctl) (x : IntBin)
  | isub (c : Ctl) (x : IntBin)
  | imul (c : Ctl) (x : IntBin)
  | imulh (c : Ctl) (x : IntBin)
  | imad (c : Ctl) (x : IntTern)
  | idiv (c : Ctl) (x : IntBin)
  | irem (c : Ctl) (x : IntBin)
  | imin (c : Ctl) (x : IntBin)
  | imax (c : Ctl) (x : IntBin)
  | iabs (c : Ctl) (x : IntUn)
  | ineg (c : Ctl) (x : IntUn)
  | land (c : Ctl) (x : IntBin)
  | lor (c : Ctl) (x : IntBin)
  | lxor (c : Ctl) (x : IntBin)
  | lnot (c : Ctl) (x : IntUn)
  | shl (c : Ctl) (x : IntBin)
  | shr (c : Ctl) (x : IntBin)
  | sar (c : Ctl) (x : IntBin)
  | rot (c : Ctl) (x : IntBin)
  | bfe (c : Ctl) (x : BitField)
  | bfi (c : Ctl) (x : BitField)
  | popc (c : Ctl) (x : IntUn)
  | clz (c : Ctl) (x : IntUn)
  | brev (c : Ctl) (x : IntUn)
  | isetp (c : Ctl) (x : ISetp)
  | sel (c : Ctl) (x : SelArgs)
  | mov (c : Ctl) (d a : Reg) (w : MovW)
  | movi (c : Ctl) (d : Reg) (m : MSel) (imm : Word)
  | lea (c : Ctl) (x : LeaArgs)
  | hmul (c : Ctl) (x : IntBin)
  -- class 0x2: floating point, format, wave-collective, tags (R94 to R110)
  | fadd (c : Ctl) (x : FBin)
  | fsub (c : Ctl) (x : FBin)
  | fmul (c : Ctl) (x : FBin)
  | ffma (c : Ctl) (x : FTern)
  | fmin (c : Ctl) (x : FSel)
  | fmax (c : Ctl) (x : FSel)
  | fabs (c : Ctl) (x : Un)
  | fneg (c : Ctl) (x : Un)
  | fsetp (c : Ctl) (x : FSetp)
  | fclass (c : Ctl) (x : Un)
  | frnd (c : Ctl) (x : FUn)
  | fscale (c : Ctl) (x : FBin)
  | frcp (c : Ctl) (x : FUn)
  | frsq (c : Ctl) (x : FUn)
  | fsqrt (c : Ctl) (x : FUn)
  | fexp2 (c : Ctl) (x : FUn)
  | flog2 (c : Ctl) (x : FUn)
  | fsin (c : Ctl) (x : FUn)
  | fcos (c : Ctl) (x : FUn)
  | ftanh (c : Ctl) (x : FUn)
  | fsigm (c : Ctl) (x : FUn)
  | fdot2 (c : Ctl) (x : FTern)
  | fdot4 (c : Ctl) (x : FTern)
  | fcvt (c : Ctl) (x : FCvt)
  | bfppack (c : Ctl) (x : BfpPack)
  | bfpunpk (c : Ctl) (x : BfpUnpk)
  | compress (c : Ctl) (x : Un)
  | expand (c : Ctl) (x : Un)
  | vred (c : Ctl) (x : VRed)
  | vscan (c : Ctl) (x : VRed)
  | vshfl (c : Ctl) (x : VSh)
  | vbcast (c : Ctl) (x : VSh)
  | tagset (c : Ctl) (x : TagArgs)
  | tagget (c : Ctl) (x : Un)
  | tagchk (c : Ctl) (x : TagArgs)
  | sclget (c : Ctl) (x : Un)
  | sclset (c : Ctl) (x : TagArgs)
  -- class 0x3: directional (R112 to R132)
  | dnorm (c : Ctl) (x : DNorm)
  | dunpk (c : Ctl) (x : DUnpk)
  | ddot (c : Ctl) (x : DBin)
  | ddotr (c : Ctl) (x : DDotR)
  | dscl (c : Ctl) (x : DScl)
  | dadd (c : Ctl) (x : DBin)
  | dsub (c : Ctl) (x : DBin)
  | dlerp (c : Ctl) (x : DLerp)
  | drej (c : Ctl) (x : DBin)
  | dmov (c : Ctl) (x : Un)
  | dzero (c : Ctl) (d : Reg)
  | dtest (c : Ctl) (x : Un)
  | nmov (c : Ctl) (x : NMov)
  | dld (c : Ctl) (x : DMem)
  | dst (c : Ctl) (x : DMem)
  -- class 0x4: matrix (R133 to R155)
  | ksign (c : Ctl) (k : Reg)
  | kclr (c : Ctl) (k : Reg)
  | mma (c : Ctl) (x : Mma)
  | mmas (c : Ctl) (x : Mmas)
  | mzero (c : Ctl) (m : Reg)
  | mdrain (c : Ctl) (x : MDrain)
  | mchk (c : Ctl) (p : Reg)
  | mget (c : Ctl) (x : MGet)
  | mput (c : Ctl) (x : MPut)
  | mstat (c : Ctl) (x : Un)
  | errinj (c : Ctl) (x : ErrInj)
  -- class 0x5: memory, barriers, engines, persistence, thatches, fabric (R156 to R190)
  | ld (c : Ctl) (x : Ld)
  | st (c : Ctl) (x : St)
  | ldv (c : Ctl) (x : Ldv)
  | stv (c : Ctl) (x : Ldv)
  | pref (c : Ctl) (x : Pref)
  | fence (c : Ctl) (kind : FKind) (scope : Scope)
  | pbar (c : Ctl) (system : Bool)
  | pflush (c : Ctl) (a : Reg) (off : BitVec 16)
  | copy (c : Ctl) (x : CopyArgs)
  | gather (c : Ctl) (x : Gather)
  | scatter (c : Ctl) (x : Gather)
  | tcopy (c : Ctl) (x : TCopy)
  | binit (c : Ctl) (x : BInit)
  | bexp (c : Ctl) (a b : Reg)
  | barr (c : Ctl) (x : BArr)
  | bwait (c : Ctl) (x : BWait)
  | btest (c : Ctl) (x : BWait)
  | bdrop (c : Ctl) (a : Reg)
  | ringnext (c : Ctl) (x : RingNext)
  | yacq (c : Ctl) (a b : Reg)
  | yrel (c : Ctl) (a b : Reg)
  | yhint (c : Ctl) (a b : Reg)
  | lnkhint (c : Ctl) (a : Reg)
  | rget (c : Ctl) (x : RXfer)
  | rput (c : Ctl) (x : RXfer)
  | cred (c : Ctl) (x : Coll)
  | cgath (c : Ctl) (x : Coll)
  | cbcst (c : Ctl) (x : Coll)
  -- class 0x6: atomics and synchronisation (R191 to R211)
  | atom (c : Ctl) (x : Atom)
  | atomc (c : Ctl) (x : AtomC)
  | red (c : Ctl) (x : Atom)
  | qlock (c : Ctl) (x : LockArgs)
  | qtry (c : Ctl) (x : LockArgs)
  | qunlk (c : Ctl) (x : LockArgs)
  | tkget (c : Ctl) (d : Reg) (seq : BitVec 2)
  | tkwait (c : Ctl) (seq : BitVec 2)
  | tkadv (c : Ctl) (seq : BitVec 2)
  | own (c : Ctl) (a n : Reg)
  | sstep (c : Ctl)
  | cbar (c : Ctl) (id : BitVec 2)
  -- class 0x7: system (R212 to R222, R398)
  | sysrd (c : Ctl) (x : SysArgs)
  | syswr (c : Ctl) (x : SysArgs)
  | tret (c : Ctl) (x : TRet)
  | idrd (c : Ctl) (d : Reg) (sel : BitVec 8)
  | clkrd (c : Ctl) (d : Reg) (sel : BitVec 2)
  | heapset (c : Ctl) (x : HeapSet)
  | tlbinv (c : Ctl) (x : TlbInv)
  | l1inv (c : Ctl) (mode : BitVec 2)
  | stepadv (c : Ctl) (d : Reg)
  | ckpt (c : Ctl) (bar a : Reg) (mode : Bool)
  | strig (c : Ctl) (d : Reg)
  | dbghalt (c : Ctl)
  | halt (c : Ctl) (mode : Bool)
  | wear (c : Ctl) (d : Reg) (sel : BitVec 16)
  | pwrreq (c : Ctl) (d a : Reg) (restore : Bool)
  -- events: landings and completions
  | resultWriteback (uid : Nat)
  | directionalWrite (wid : Nat)
  | loadReturn (id : Nat)
  | storeComplete (id : Nat)
  | atomicApply (id : Nat)
  | wcLineFlush (core line : Nat)
  | waveCollectiveIssue (wid : Nat)
  | convergenceComplete (core k : Nat)
  | matrixCommandStart (core : Nat)
  | matrixRecompute (core : Nat)
  | matrixAccumulate (core : Nat)
  | engineChunkWrite (id chunk : Nat) (remote : List Byte)
  | barrierPortOperation (id : Nat)
  | collectiveJoin (group : Nat) (peers : List PeerPart)
  | heldThreadWake (uid : Nat)
  | sleepExpire (uid : Nat)
  | fuseHoldExpire (uid : Nat)
  -- events: work, launches, workgroups
  | workIdDispense (lnum : Nat)
  | producerEnd (lnum : Nat)
  | stepAdvance (lnum : Nat)
  | ckptSelfAdvance
  | ckptTimerExpire
  | superstepCommit (lnum : Nat)
  | clusterBarrierComplete (lnum cluster id : Nat)
  | migrationLand (uid : Nat)
  | workgroupPlace (lnum wg : Nat)
  | workgroupEnd (lnum wg : Nat)
  | workgroupKill (lnum wg : Nat)
  | preempt (lnum wg bound area : Nat)
  | workgroupRestore (lnum wg : Nat)
  -- events: traps, events, faults
  | trapRecordPost (uid : Nat)
  | trapDispose
  | eventPost
  | faultRecordPost
  -- events: thatches
  | yealmStreamStart
  | yealmArrive (failedShard : Option Nat)
  | shardRebuild (unrecoverable : Bool)
  -- events: snapshots, persistence, boot, reliability
  | sweepLine
  | forcedSave (id : Nat)
  | snapshotComplete (peers : List PeerSnap)
  | ckptComplete (failed : Bool)
  | persistDrain
  | powerFail
  | coldReset (imageA imageB : List Byte)
  | trainingRetrain (unit : Nat)
  | overtempCutoff
  | packageLost (ranks : List Nat) (agreedStep : Word) (peers : List PeerSnap)
  | ridgeMismatch
  | scrubPass (bank : Nat)
  | channelRetire (channels : List Nat)
  | coreReset (die : Nat)
  | arbitrationInterval
  | wearSave
  -- events: register writes with effects of their own
  | ilvEdit (on : Bool)
  | ilvCommit
  | coreCgo
  | htimerWrite (core : Nat) (period : Nat)
  | htimerEvent (core : Nat)
  | haltreq
  | resume
  | rsizeWrite (i : Nat) (v : DWord)
  | lnkctlReq (link : Nat) (req : BitVec 16)
  -- events: host packets
  | launch (ring : Nat)
  | copyPacket (ring : Nat)
  | fencePacket (ring : Nat)
  | signal (ring : Nat)
  | waitval (ring : Nat)
  | waitvalPoll (ring : Nat)
  | snapcfg (ring : Nat)
  | ckptPacket (ring : Nat)
  | thatchCreate (ring : Nat)
  | thatchLoad (ring : Nat)
  | thatchEvict (ring : Nat)
  | faultreplay (ring : Nat)
  | errqueryEvents (ring : Nat)
  | errqueryTret (ring : Nat)
  | queueRestart (ring : Nat)
  -- events: management messages
  | qpcfg (qp ctx : Nat) (rkey : Word)
  | qcreate (ring : Nat) (base : DWord) (ctx : Nat) (priv : Bool)
  | qdestroy (ring : Nat)
  | apcfg (ap qp : Nat) (base : DWord) (rkey : Word) (size : Nat)
  | evcfg (base : DWord) (size : Nat) (consumed : DWord)
  | jobcfg (rank npkg pctx : Nat) (links : List LinkPeer) (hops : List (Option Nat))
  | pkglost (pkg : Nat)
  | dbgrw (num : Nat) (value : Word) (write : Bool)
  | fwrecov (len : Word)
  | getVersion (req : List Byte)
  | getCapabilities (req : List Byte)
  | negotiateAlgorithms (req : List Byte)
  | getDigests (req : List Byte)
  | getCertificate (req : List Byte)
  | challenge (req : List Byte)
  | getMeasurements (req : List Byte)
  | rdmaWrite (qp : Nat) (rkey : Word) (va : DWord) (data : List Byte)
  | rdmaRead (qp : Nat) (rkey : Word) (va : DWord) (len : Nat)
  -- events: links
  | flitReceive (link : Nat) (flit : List Byte) (req : Option RemoteReq)
  | flitForward (link : Nat)
  | pause (link vl : Nat)
  | resumeFlit (link vl : Nat)
  | widthFlit (link : Nat)
  | replayFlit (link : Nat) (seq : Nat)
  | wavelengthWakeDone (link w : Nat)
  | berCheck (link w : Nat) (rateExp : Nat)
  | wavelengthRetrainDone (link w : Nat)
  -- events: further device steps
  | ridgePairRestart
  | coreResetEnd (die : Nat)
  | temperatureThreshold (unit : Nat) (tenths : Nat)
  | l1LineReplacement (core line : Nat)
  | ridgeCacheEviction (line : Nat)
  | qfrz (on : Bool)
  | ckptEnWrite
  deriving DecidableEq, Repr

end Sys2Proof
end

