-- ==== Sys2Proof/WellFormed.lean ====
section
/-! DEFINITION. Well-formed instructions: what the encodings of R21 to R32 and the operand tables can express. Events
(rows 170 to 280 of the opcode table) have no encoding and no shape. -/

namespace Sys2Proof

/-- Operand classes (R32): unused, anything, a run of v registers with an alignment, p, d, n, m, k. -/
inductive Cls where
  | no
  | any
  | v (n align : Nat)
  | p
  | d
  | nn
  | m
  | k
  deriving DecidableEq, Repr

/-- One v register. -/
def v1 : Cls := .v 1 1
/-- An even:odd pair (R32). -/
def v2 : Cls := .v 2 2
/-- Four registers (R32). -/
def v4 : Cls := .v 4 4
/-- A pair when w64, else one register. -/
def vw (w64 : Bool) : Cls := if w64 then v2 else v1
/-- A run of n registers with no alignment (R103, R104, R141). -/
def vrun (n : Nat) : Cls := .v n 1

/-- The header's register counts (R41). -/
structure Limits where
  nvreg : Nat
  npred : Nat
  deriving DecidableEq, Repr

/-- R32: the legal values of a class. 255 names vz in one register, a pair or four; as the first of a longer run it
passes NVREG - 1 (log 17). -/
def Cls.legal (l : Limits) : Cls → Reg → Bool
  | .no, r => r == 0
  | .any, _ => true
  | .v n al, r => (r == 255 && (n == 1 || n == al)) || (r.toNat % al == 0 && r.toNat + n ≤ l.nvreg)
  | .p, r => r.toNat < l.npred || r == 127
  | .d, r => r.toNat < 16
  | .nn, r => r.toNat < 16
  | .m, r => r.toNat < 8
  | .k, r => r.toNat < 16

/-- What an instruction's form must satisfy. -/
structure Shape where
  /-- The common fields. -/
  ctl : Ctl
  /-- A field of W is not 0, or the opcode has no 64-bit form. -/
  long : Bool := false
  /-- Register fields with their classes. -/
  ops : List (Reg × Cls) := []
  /-- SRCC, where the instruction has one. -/
  srcc : Option (Option Reg × Cls) := none
  /-- SRCD, where the instruction has one (class v). -/
  srcd : Option (Option Reg) := none
  /-- An immediate or another layout takes W[7:0]. -/
  imm : Bool := false
  /-- The opcode makes a memory access (R24, log 13). -/
  mem : Bool := false
  /-- The modifiers lie in their ranges. -/
  ok : Bool := true
  deriving DecidableEq, Repr

/-- Registers of a 32-element BFPm run, m = k + 2 (R61). -/
def bfpRegs (k : Nat) : Nat := let e := 32 / (k + 2); (32 + e - 1) / e

/-- R52: tags that are not reserved. -/
def tagOk (t : Nat) : Bool := t ≤ 3 || (0x10 ≤ t && t ≤ 0x14) || (0x22 ≤ t && t ≤ 0x28)

/-- R159: tags FTAG may name. -/
def ftagOk (t : Nat) : Bool := t ≤ 3 || (0x10 ≤ t && t ≤ 0x14)

/-- R94: IMM20[19:16] equals IMM20[15]. -/
def fimmOk : Src → Bool
  | .reg _ => true
  | .imm v => v.toNat < 0x8000 || 0xF8000 ≤ v.toNat

/-- Whether a second source is an immediate. -/
def Src.isImm : Src → Bool
  | .reg _ => false
  | .imm _ => true

/-- The register field a second source names. -/
def Src.field : Src → Reg
  | .reg r => r
  | .imm _ => 0

/-- The class check of a second source. -/
def Src.op (s : Src) (c : Cls) : Reg × Cls :=
  match s with
  | .reg r => (r, c)
  | .imm _ => (0, .no)

/-- Whether a scalar operand is an immediate. -/
def Scal.isImm : Scal → Bool
  | .reg _ => false
  | .imm _ => true

/-- The SRCC field of a scalar operand. -/
def Scal.srcc : Scal → Option Reg
  | .reg c => c
  | .imm _ => none

/-- A scalar operand as a third source: none when it is an immediate. -/
def Scal.third : Scal → Option (Option Reg × Cls)
  | .reg c => some (c, v1)
  | .imm _ => none

/-- N of CNT (R141). -/
def Cnt.n : Cnt → Nat
  | .n1 => 1
  | .n4 => 4
  | .n16 => 16
  | .n64 => 64

/-- Registers of an LD or ST of this size (R159). -/
def Sz.cls : Sz → Cls
  | .d64 => v2
  | .q128 => v4
  | _ => v1

/-- Access size in bytes (R159). -/
def Sz.bytes : Sz → Nat
  | .w32 => 4
  | .b8 => 1
  | .h16 => 2
  | .d64 => 8
  | .q128 => 16
  | .b8s => 1
  | .h16s => 2

/-- MOV register class (R93). -/
def MovW.cls : MovW → Cls
  | .w1 => v1
  | .w2 => v2
  | .w4 => v4

/-- v4 for F32, v2 otherwise (R113). -/
def F3.cls : F3 → Cls
  | .f32 => v4
  | _ => v2

/-- S64 and U64 take a pair (R101). -/
def CvtFmt.cls : CvtFmt → Cls
  | .s64 => v2
  | .u64 => v2
  | _ => v1

/-- R103 to R105: the shape of an integer operation with two sources. -/
def shIntBin (c : Ctl) (x : IntBin) (bc : Cls) (u sat imm : Bool) : Option Shape :=
  some { ctl := c, long := x.b.isImm || x.w64 || x.u || x.sat, imm := x.b.isImm,
         ops := [(x.d, vw x.w64), (x.a, vw x.w64), x.b.op bc],
         ok := (u || !x.u) && (sat || !x.sat) && (imm || !x.b.isImm) }

/-- The shape of an integer operation with one source. -/
def shIntUn (c : Ctl) (x : IntUn) (dc : Cls) (sat : Bool) : Option Shape :=
  some { ctl := c, long := x.w64 || x.sat, ops := [(x.d, dc), (x.a, vw x.w64)], ok := sat || !x.sat }

/-- The shape of FADD, FSUB, FMUL and FSCALE (R94, R98). -/
def shFBin (c : Ctl) (x : FBin) (fimm : Bool) : Option Shape :=
  some { ctl := c, long := x.b.isImm || x.rm != .rne, imm := x.b.isImm, srcc := some (x.c, v1),
         ops := [(x.d, v1), (x.a, v1), x.b.op v1], ok := !fimm || fimmOk x.b }

/-- The shape of FFMA, FDOT2 and FDOT4. -/
def shFTern (c : Ctl) (x : FTern) : Option Shape :=
  some { ctl := c, long := x.rm != .rne, srcc := some (x.c, v1), srcd := some x.x,
         ops := [(x.d, v1), (x.a, v1), (x.b, v1)] }

/-- The shape of FMIN and FMAX. -/
def shFSel (c : Ctl) (x : FSel) : Option Shape :=
  some { ctl := c, long := x.b.isImm, imm := x.b.isImm, ops := [(x.d, v1), (x.a, v1), x.b.op v1], ok := fimmOk x.b }

/-- The shape of a one-source operation. -/
def shUn (c : Ctl) (x : Un) (dc ac : Cls) : Option Shape := some { ctl := c, ops := [(x.d, dc), (x.a, ac)] }

/-- The shape of a one-source operation that rounds. -/
def shFUn (c : Ctl) (x : FUn) : Option Shape :=
  some { ctl := c, long := x.rm != .rne, srcc := some (x.c, v1), ops := [(x.d, v1), (x.a, v1)] }

/-- The shape of the predicate operations (R87). -/
def shPred (c : Ctl) (x : PredArgs) : Option Shape :=
  some { ctl := c, long := x.na || x.nb, ops := [(x.d, .p), (x.a, .p), (x.b, .p)] }

/-- The shape of VRED and VSCAN (R107, R108). -/
def shVRed (c : Ctl) (x : VRed) (scan : Bool) : Option Shape :=
  some { ctl := c, long := x.op != .add || x.u || x.w64 || x.exact || x.excl,
         ops := [(x.d, vw x.w64), (x.a, vw x.w64)], ok := (!x.exact || x.op == .add) && (scan || !x.excl) }

/-- The shape of VSHFL and VBCAST (R109). -/
def shVSh (c : Ctl) (x : VSh) (mode : Bool) : Option Shape :=
  some { ctl := c, long := x.b.isImm || x.w64 || x.mode != .idx, imm := x.b.isImm,
         ops := [(x.d, vw x.w64), (x.a, vw x.w64), x.b.op v1], ok := mode || x.mode == .idx }

/-- The shape of TAGSET, TAGCHK and SCLSET (R110). -/
def shTag (c : Ctl) (x : TagArgs) (dc : Cls) (trap tag : Bool) : Option Shape :=
  some { ctl := c, long := x.b.isImm || x.trap, imm := x.b.isImm, ops := [(x.d, dc), (x.a, v1), x.b.op v1],
         ok := (trap || !x.trap) &&
           (match x.b with | .reg _ => true | .imm v => v.toNat < 256 && (!tag || tagOk v.toNat)) }

/-- The shape of a directional operation on three d registers. -/
def shDBin (c : Ctl) (x : DBin) (dc : Cls) : Option Shape :=
  some { ctl := c, ops := [(x.d, dc), (x.a, .d), (x.b, .d)] }

/-- The shape of MGET and MPUT's row origin (R151). -/
def rowOk (s : Scal) (n : Nat) : Bool :=
  match s with
  | .reg _ => true
  | .imm v => v.toNat + n ≤ 64

/-- B-fragment registers (R143). -/
def fragRegs (mbf : Fin 7) : Nat := if 3 ≤ mbf.val then 2 else 1

/-- The shape of LDV and STV (R164). -/
def shLdv (c : Ctl) (x : Ldv) (load : Bool) : Option Shape :=
  some { ctl := c, long := x.nm1 != 0 || x.x1 || x.fresh, srcc := some (x.c, v2), mem := true,
         ops := [(x.r, v1), (x.a, v2), (x.b, v2)], ok := load || !x.fresh }

/-- The shape of GATHER and SCATTER (R174). -/
def shGather (c : Ctl) (x : Gather) : Option Shape :=
  some { ctl := c, long := x.nrows != 0 || x.idx64 || x.rowb4 != 0, srcc := some (x.idx, v2), mem := true,
         ops := [(x.bar, v2), (x.a, v2), (x.b, v2)] }

/-- The shape of RGET and RPUT (R186). -/
def shRXfer (c : Ctl) (x : RXfer) : Option Shape :=
  some { ctl := c, srcc := some (x.n, v1), srcd := some x.k, mem := true,
         ops := [(x.bar, v2), (x.a, v2), (x.b, v2)] }

/-- The shape of CRED, CGATH and CBCST (R187 to R189). -/
def shColl (c : Ctl) (x : Coll) (op root : Bool) : Option Shape :=
  some { ctl := c, long := x.op != .add || x.root != 0, srcc := some (x.g, v1), mem := true,
         ops := [(x.bar, v2), (x.d, v2), (x.s, v2)], ok := (op || x.op == .add) && (root || x.root == 0) }

/-- ORD and SCOPE agree (R191). -/
def ordOk (o : Ord4) (s : Scope) : Bool := if o == .relaxed then s == .thread else s != .thread

/-- The shape of ATOM and RED (R191). -/
def shAtom (c : Ctl) (x : Atom) (red : Bool) : Option Shape :=
  some { ctl := c, mem := true, imm := true,
         long := x.op != .add || x.w64 || x.u || x.ord != .relaxed || x.scope != .thread || x.off != 0,
         ops := [(x.d, if red then .no else vw x.w64), (x.a, v2), (x.b, vw x.w64)],
         ok := (x.op != .fadd || !x.w64) && (!x.u || x.op == .min || x.op == .max) && ordOk x.ord x.scope &&
           (!red || (x.op != .xchg && (x.ord == .relaxed || x.ord == .rel))) }

/-- The shape of the queue-lock instructions (R198). -/
def shLock (c : Ctl) (x : LockArgs) (dc : Cls) : Option Shape :=
  some { ctl := c, mem := true, imm := true, long := x.scope != .thread || x.off != 0,
         ops := [(x.p, dc), (x.a, v2)] }

/-- The shape of BWAIT and BTEST (R180). -/
def shBWait (c : Ctl) (x : BWait) (dc : Cls) : Option Shape :=
  some { ctl := c, mem := true, long := x.checked, ops := [(x.p, dc), (x.a, v2), (x.b, v1)] }

/-- IDRD selectors that are not reserved (R217). -/
def idrdOk (n : Nat) : Bool := n ≤ 10 || (16 ≤ n && n ≤ 18)

/-- Scopes 1 to 6 exactly when acquire or release (R159). -/
def arOk (ar : Bool) (s : Scope) : Bool := ar == (s != .thread)

/-- The shape of an encoded instruction; none for an event. -/
def Instr.shape : Instr → Option Shape
  | .nop c => some { ctl := c }
  | .bra c _ => some { ctl := c, long := true, imm := true }
  | .brx c a => some { ctl := c, ops := [(a, v2)] }
  | .call c d _ => some { ctl := c, long := true, imm := true, ops := [(d, v2)] }
  | .ret c a => some { ctl := c, ops := [(a, v2)] }
  | .exit c => some { ctl := c }
  | .yield c => some { ctl := c }
  | .fuse c h => some { ctl := c, long := h != 0 }
  | .waitf c m => some { ctl := c, long := m }
  | .sleep c _ => some { ctl := c, long := true }
  | .trap c _ => some { ctl := c, long := true }
  | .brk c _ => some { ctl := c, long := true }
  | .pand c x => shPred c x
  | .por c x => shPred c x
  | .pxor c x => shPred c x
  | .pnot c d a => some { ctl := c, ops := [(d, .p), (a, .p)] }
  | .pmov c d a na => some { ctl := c, long := na, ops := [(d, .p), (a, .p)] }
  | .fetchw c d p => some { ctl := c, ops := [(d, v2), (p, .p)] }
  | .emit c a q => some { ctl := c, long := q != 0, ops := [(a, .v 8 4)], mem := true }
  | .gate c _ => some { ctl := c, long := true }
  | .release c _ => some { ctl := c, long := true }
  | .migr c a home => some { ctl := c, long := home, ops := [(a, if home then .no else v2)] }
  | .iadd c x => shIntBin c x (vw x.w64) true true true
  | .isub c x => shIntBin c x (vw x.w64) true true true
  | .imul c x => shIntBin c x (vw x.w64) false false true
  | .imulh c x => shIntBin c x (vw x.w64) true false true
  | .imad c x => some { ctl := c, long := x.b.isImm || x.w64, imm := x.b.isImm, srcc := some (x.c, vw x.w64),
                        ops := [(x.d, vw x.w64), (x.a, vw x.w64), x.b.op (vw x.w64)] }
  | .idiv c x => shIntBin c x (vw x.w64) true false true
  | .irem c x => shIntBin c x (vw x.w64) true false true
  | .imin c x => shIntBin c x (vw x.w64) true false true
  | .imax c x => shIntBin c x (vw x.w64) true false true
  | .iabs c x => shIntUn c x (vw x.w64) true
  | .ineg c x => shIntUn c x (vw x.w64) true
  | .land c x => shIntBin c x (vw x.w64) false false true
  | .lor c x => shIntBin c x (vw x.w64) false false true
  | .lxor c x => shIntBin c x (vw x.w64) false false true
  | .lnot c x => shIntUn c x (vw x.w64) false
  | .shl c x => shIntBin c x v1 false false true
  | .shr c x => shIntBin c x v1 false false true
  | .sar c x => shIntBin c x v1 false false true
  | .rot c x => shIntBin c x v1 false false true
  | .bfe c x => some { ctl := c, long := true, ops := [(x.d, vw x.w64), (x.a, vw x.w64), (x.b, .no)],
                       ok := 1 ≤ x.len.toNat && x.pos.toNat + x.len.toNat ≤ (if x.w64 then 64 else 32) }
  | .bfi c x => some { ctl := c, long := true, ops := [(x.d, vw x.w64), (x.a, vw x.w64), (x.b, vw x.w64)],
                       ok := 1 ≤ x.len.toNat && x.pos.toNat + x.len.toNat ≤ (if x.w64 then 64 else 32) && !x.s }
  | .popc c x => shIntUn c x v1 false
  | .clz c x => shIntUn c x v1 false
  | .brev c x => shIntUn c x (vw x.w64) false
  | .isetp c x => some { ctl := c, long := x.b.isImm || x.w64 || x.cond != .eq, imm := x.b.isImm,
                         ops := [(x.p, .p), (x.a, vw x.w64), x.b.op (vw x.w64)] }
  | .sel c x => some { ctl := c, long := x.b.isImm || x.w64, imm := x.b.isImm, srcc := some (x.ps, .p),
                       ops := [(x.d, vw x.w64), (x.a, vw x.w64), x.b.op (vw x.w64)] }
  | .mov c d a w => some { ctl := c, long := w != .w1, ops := [(d, w.cls), (a, w.cls)] }
  | .movi c d m _ => some { ctl := c, long := true, ops := [(d, if m == .w32 then v1 else v2)] }
  | .lea c x => some { ctl := c, long := true, ops := [(x.d, v2), (x.a, v2), (x.b, v1)], ok := x.sh.toNat ≤ 32 }
  | .hmul c x => shIntBin c x (vw x.w64) false false false
  | .fadd c x => shFBin c x true
  | .fsub c x => shFBin c x true
  | .fmul c x => shFBin c x true
  | .ffma c x => shFTern c x
  | .fmin c x => shFSel c x
  | .fmax c x => shFSel c x
  | .fabs c x => shUn c x v1 v1
  | .fneg c x => shUn c x v1 v1
  | .fsetp c x => some { ctl := c, long := x.b.isImm || x.cond != .eq || x.e1, imm := x.b.isImm,
                         ops := [(x.p, .p), (x.a, v1), x.b.op v1], ok := fimmOk x.b }
  | .fclass c x => shUn c x v1 v1
  | .frnd c x => shFUn c x
  | .fscale c x => shFBin c x false
  | .frcp c x => shFUn c x
  | .frsq c x => shFUn c x
  | .fsqrt c x => shFUn c x
  | .fexp2 c x => shFUn c x
  | .flog2 c x => shFUn c x
  | .fsin c x => shFUn c x
  | .fcos c x => shFUn c x
  | .ftanh c x => shFUn c x
  | .fsigm c x => shFUn c x
  | .fdot2 c x => shFTern c x
  | .fdot4 c x => shFTern c x
  | .fcvt c x => some { ctl := c, long := x.df != .f32 || x.e != 0 || x.cb || x.rm != .rne || x.sf != none,
                        srcc := some (x.c, v1),
                        ops := [(x.d, x.df.cls), (x.a, match x.sf with | some f => f.cls | none => v1),
                                (x.b, if x.cb then v1 else .no)],
                        ok := !x.cb || x.df == .e4m3 || x.df == .e5m2 }
  | .bfppack c x => some { ctl := c, long := x.m != 0 || x.rm != .rne, srcc := some (x.c, v1),
                           ops := [(x.d, vrun (bfpRegs x.m.val)), (x.a, v1), (x.b, v1)] }
  | .bfpunpk c x => some { ctl := c, long := x.df != .f32 || x.rm != .rne, srcc := some (x.c, v1),
                           ops := [(x.d, vrun (if x.df == .f32 then 32 else 16)), (x.a, v1)],
                           ok := x.df != .f32 || x.rm == .rne }
  | .compress c x => shUn c x v1 v1
  | .expand c x => shUn c x v1 v1
  | .vred c x => shVRed c x false
  | .vscan c x => shVRed c x true
  | .vshfl c x => shVSh c x true
  | .vbcast c x => shVSh c x false
  | .tagset c x => shTag c x v1 false true
  | .tagget c x => shUn c x v1 v1
  | .tagchk c x => shTag c x .p true true
  | .sclget c x => shUn c x v1 v1
  | .sclset c x => shTag c x v1 false false
  | .dnorm c x => some { ctl := c, long := x.sf != .f32, ops := [(x.d, .d), (x.a, x.sf.cls)] }
  | .dunpk c x => some { ctl := c, long := x.df != .f32 || x.n || x.rm != .rne, srcc := some (x.c, v1),
                         ops := [(x.d, x.df.cls), (x.a, .d)] }
  | .ddot c x => shDBin c x v1
  | .ddotr c x => some { ctl := c, long := x.rm != .rne, srcc := some (x.c, v1),
                         ops := [(x.d, v1), (x.a, .d), (x.b, .d)] }
  | .dscl c x => some { ctl := c, long := x.s.isImm, imm := x.s.isImm, srcc := x.s.third,
                        ops := [(x.d, .d), (x.a, .d)] }
  | .dadd c x => shDBin c x .d
  | .dsub c x => shDBin c x .d
  | .dlerp c x => some { ctl := c, long := x.s.isImm, imm := x.s.isImm, srcc := x.s.third,
                         ops := [(x.d, .d), (x.a, .d), (x.b, .d)],
                         ok := match x.s with | .reg _ => true | .imm v => v.toNat ≤ 65536 }
  | .drej c x => shDBin c x .d
  | .dmov c x => shUn c x .d .d
  | .dzero c d => some { ctl := c, ops := [(d, .d)] }
  | .dtest c x => shUn c x .p .d
  | .nmov c x => some { ctl := c, long := x.w, ops := if x.w then [(x.d, .nn), (x.a, v1)] else [(x.d, v1), (x.a, .nn)] }
  | .dld c x => some { ctl := c, long := x.off != 0, mem := true, ops := [(x.r, .d), (x.a, v2)] }
  | .dst c x => some { ctl := c, long := x.off != 0, mem := true, ops := [(x.r, .d), (x.a, v2)] }
  | .ksign c k => some { ctl := c, ops := [(k, .k)] }
  | .kclr c k => some { ctl := c, ops := [(k, .k)] }
  | .mma c x => some { ctl := c, long := x.k != 0 || x.mbf != 0, srcc := some (x.c, v1), mem := true,
                       ops := [(x.d, .m), (x.a, v2), (x.b, vrun (fragRegs x.mbf))] }
  | .mmas c x => some { ctl := c, long := x.k != 0 || x.mbf != 0 || x.abm != 0, srcc := some (x.c, v1),
                        srcd := some x.e, mem := true,
                        ops := [(x.d, .m), (x.a, v2), (x.b, vrun (fragRegs x.mbf))] }
  | .mzero c m => some { ctl := c, ops := [(m, .m)] }
  | .mdrain c x => some { ctl := c, long := x.keep || x.rm != .rne, srcc := some (x.c, v1), mem := true,
                          ops := [(x.d, v1), (x.a, v2), (x.m, .m)] }
  | .mchk c p => some { ctl := c, ops := [(p, .p)] }
  | .mget c x => some { ctl := c, long := x.s.isImm || x.cnt != .n1 || x.sync || x.tr, imm := x.s.isImm,
                        srcc := x.s.third, ops := [(x.d, vrun x.cnt.n), (x.m, .m)],
                        ok := rowOk x.s x.cnt.n }
  | .mput c x => some { ctl := c, long := x.s.isImm || x.cnt != .n1 || x.tr, imm := x.s.isImm,
                        srcc := x.s.third, ops := [(x.m, .m), (x.a, vrun x.cnt.n)],
                        ok := rowOk x.s x.cnt.n }
  | .mstat c x => shUn c x v1 .m
  | .errinj c x => some { ctl := c, long := x.mode != .one || x.row != 0 || x.col != 0 || x.bit != 0,
                          ops := [(x.m, .m)] }
  | .ld c x => some { ctl := c, mem := true,
                      long := x.sz != .w32 || x.fresh || x.acq || x.nt || x.scope != .thread || x.ftag != 0 || x.off != 0,
                      ops := [(x.d, x.sz.cls), (x.a, v2)], ok := ftagOk x.ftag.toNat && arOk x.acq x.scope }
  | .st c x => some { ctl := c, mem := true,
                      long := x.sz != .w32 || x.rel || x.nt || x.wc || x.scope != .thread || x.off != 0,
                      ops := [(x.a, v2), (x.b, x.sz.cls)],
                      ok := x.sz != .b8s && x.sz != .h16s && arOk x.rel x.scope }
  | .ldv c x => shLdv c x true
  | .stv c x => shLdv c x false
  | .pref c x => some { ctl := c, mem := true, long := x.rc || x.off != 0, ops := [(x.a, v2)] }
  | .fence c _ s => some { ctl := c, long := true, ok := s != .thread }
  | .pbar c _ => some { ctl := c, long := true }
  | .pflush c a off => some { ctl := c, mem := true, long := off != 0, ops := [(a, v2)] }
  | .copy c x => some { ctl := c, mem := true, srcc := some (x.n, v1), ops := [(x.bar, v2), (x.d, v2), (x.s, v2)] }
  | .gather c x => shGather c x
  | .scatter c x => shGather c x
  | .tcopy c x => some { ctl := c, mem := true, long := x.rm != .rne, ops := [(x.bar, v2), (x.d, v2), (x.s, v2)] }
  | .binit c x => some { ctl := c, mem := true, long := x.ring, srcc := some (x.b, v1), ops := [(x.a, v2), (x.p, v1)] }
  | .bexp c a b => some { ctl := c, mem := true, ops := [(a, v2), (b, v1)] }
  | .barr c x => some { ctl := c, mem := true, long := x.w, srcc := some (x.c, v1), ops := [(x.a, v2)] }
  | .bwait c x => shBWait c x .no
  | .btest c x => shBWait c x .p
  | .bdrop c a => some { ctl := c, mem := true, ops := [(a, v2)] }
  | .ringnext c x => some { ctl := c, mem := true, long := x.consumer, ops := [(x.d, v1), (x.a, v2)] }
  | .yacq c a b => some { ctl := c, ops := [(a, v2), (b, v1)] }
  | .yrel c a b => some { ctl := c, ops := [(a, v2), (b, v1)] }
  | .yhint c a b => some { ctl := c, ops := [(a, v2), (b, v1)] }
  | .lnkhint c a => some { ctl := c, ops := [(a, v1)] }
  | .rget c x => shRXfer c x
  | .rput c x => shRXfer c x
  | .cred c x => shColl c x true false
  | .cgath c x => shColl c x false false
  | .cbcst c x => shColl c x false true
  | .atom c x => shAtom c x false
  | .atomc c x => some { ctl := c, mem := true, long := x.w64 || x.ord != .relaxed || x.scope != .thread,
                         srcc := some (x.c, vw x.w64), ops := [(x.d, vw x.w64), (x.a, v2), (x.b, vw x.w64)],
                         ok := ordOk x.ord x.scope }
  | .red c x => shAtom c x true
  | .qlock c x => shLock c x .no
  | .qtry c x => shLock c x .p
  | .qunlk c x => shLock c x .no
  | .tkget c d s => some { ctl := c, long := s != 0, ops := [(d, v1)] }
  | .tkwait c s => some { ctl := c, long := s != 0 }
  | .tkadv c s => some { ctl := c, long := s != 0 }
  | .own c a n => some { ctl := c, ops := [(a, v2), (n, v1)] }
  | .sstep c => some { ctl := c }
  | .cbar c i => some { ctl := c, long := i != 0 }
  | .sysrd c x => some { ctl := c, long := x.w64 || x.num != 0, ops := [(x.r, vw x.w64)] }
  | .syswr c x => some { ctl := c, long := x.w64 || x.num != 0, ops := [(x.r, vw x.w64)] }
  | .tret c x => some { ctl := c, long := x.mode != .next, ops := [(x.d, v1), (x.a, v1), (x.b, v2)] }
  | .idrd c d s => some { ctl := c, long := s != 0, ops := [(d, v1)], ok := idrdOk s.toNat }
  | .clkrd c d s => some { ctl := c, long := s != 0, ops := [(d, v2)] }
  | .heapset c x => some { ctl := c, srcc := some (x.c, v2), ops := [(x.x, v1), (x.a, v2), (x.b, v2)] }
  | .tlbinv c x => some { ctl := c, long := x.mode != 0, ops := [(x.a, v2), (x.b, v1)] }
  | .l1inv c m => some { ctl := c, long := m != 0 }
  | .stepadv c d => some { ctl := c, ops := [(d, v1)] }
  | .ckpt c b a m => some { ctl := c, mem := true, long := m, ops := [(b, v2), (a, v2)] }
  | .strig c d => some { ctl := c, ops := [(d, v1)] }
  | .dbghalt c => some { ctl := c }
  | .halt c m => some { ctl := c, long := m }
  | .wear c d s => some { ctl := c, long := s != 0, ops := [(d, v2)], ok := s.toNat < 4096 }
  | .pwrreq c d a m => some { ctl := c, long := m, ops := [(d, v1), (a, v1)] }
  | .resultWriteback .. => none
  | .directionalWrite .. => none
  | .loadReturn .. => none
  | .storeComplete .. => none
  | .atomicApply .. => none
  | .wcLineFlush .. => none
  | .waveCollectiveIssue .. => none
  | .convergenceComplete .. => none
  | .matrixCommandStart .. => none
  | .matrixRecompute .. => none
  | .matrixAccumulate .. => none
  | .engineChunkWrite .. => none
  | .barrierPortOperation .. => none
  | .collectiveJoin .. => none
  | .heldThreadWake .. => none
  | .sleepExpire .. => none
  | .fuseHoldExpire .. => none
  | .workIdDispense .. => none
  | .producerEnd .. => none
  | .stepAdvance .. => none
  | .ckptSelfAdvance => none
  | .ckptTimerExpire => none
  | .superstepCommit .. => none
  | .clusterBarrierComplete .. => none
  | .migrationLand .. => none
  | .workgroupPlace .. => none
  | .workgroupEnd .. => none
  | .workgroupKill .. => none
  | .preempt .. => none
  | .workgroupRestore .. => none
  | .trapRecordPost .. => none
  | .trapDispose => none
  | .eventPost => none
  | .faultRecordPost => none
  | .yealmStreamStart => none
  | .yealmArrive .. => none
  | .shardRebuild .. => none
  | .sweepLine => none
  | .forcedSave .. => none
  | .snapshotComplete _ => none
  | .ckptComplete .. => none
  | .persistDrain => none
  | .powerFail => none
  | .coldReset .. => none
  | .trainingRetrain .. => none
  | .overtempCutoff => none
  | .packageLost .. => none
  | .ridgeMismatch => none
  | .scrubPass .. => none
  | .channelRetire .. => none
  | .coreReset .. => none
  | .arbitrationInterval => none
  | .wearSave => none
  | .ilvEdit .. => none
  | .ilvCommit => none
  | .coreCgo => none
  | .htimerWrite .. => none
  | .htimerEvent .. => none
  | .haltreq => none
  | .resume => none
  | .rsizeWrite .. => none
  | .lnkctlReq .. => none
  | .launch .. => none
  | .copyPacket .. => none
  | .fencePacket .. => none
  | .signal .. => none
  | .waitval .. => none
  | .waitvalPoll .. => none
  | .snapcfg .. => none
  | .ckptPacket .. => none
  | .thatchCreate .. => none
  | .thatchLoad .. => none
  | .thatchEvict .. => none
  | .faultreplay .. => none
  | .errqueryEvents .. => none
  | .errqueryTret .. => none
  | .queueRestart .. => none
  | .qpcfg .. => none
  | .qcreate .. => none
  | .qdestroy .. => none
  | .apcfg .. => none
  | .evcfg .. => none
  | .jobcfg .. => none
  | .pkglost .. => none
  | .dbgrw .. => none
  | .fwrecov .. => none
  | .getVersion .. => none
  | .getCapabilities .. => none
  | .negotiateAlgorithms .. => none
  | .getDigests .. => none
  | .getCertificate .. => none
  | .challenge .. => none
  | .getMeasurements .. => none
  | .rdmaWrite .. => none
  | .rdmaRead .. => none
  | .flitReceive .. => none
  | .flitForward .. => none
  | .pause .. => none
  | .resumeFlit .. => none
  | .widthFlit .. => none
  | .replayFlit .. => none
  | .wavelengthWakeDone .. => none
  | .berCheck .. => none
  | .wavelengthRetrainDone .. => none
  | .ridgePairRestart => none
  | .coreResetEnd .. => none
  | .temperatureThreshold .. => none
  | .l1LineReplacement .. => none
  | .ridgeCacheEviction .. => none
  | .qfrz .. => none
  | .ckptEnWrite => none

/-- A guard predicate within the header's count, or pt (R30). -/
def Guard.wf (l : Limits) (g : Guard) : Bool := g.idx.toNat < l.npred || g.idx == 127

/-- SETF names a flag or none (R21). -/
def setfOk (s : BitVec 4) : Bool := s.toNat < 12 || s == 15

/-- The common fields are encodable in their length (R21 to R24, R30, R31). -/
def Ctl.wf (l : Limits) (c : Ctl) (mem : Bool) : Bool :=
  setfOk c.setf && c.g0.wf l && (c.gcomb == .single || c.g1.wf l) && c.chint.toNat ≤ 4 && (mem || c.chint == 0) &&
  (c.gcomb != .single || c.g1 == { idx := 0, neg := false }) &&
  (c.len == .l128 || (c.gcomb == .single && c.chint == 0))

/-- A present SRCC lies in its class, and the form has a place for it exactly when it is present (R77). -/
def srccOk (l : Limits) (len : Len) (imm : Bool) : Option (Option Reg × Cls) → Bool
  | none => true
  | some (some r, cl) => cl.legal l r && (len == .l128 || (len == .l96 && !imm))
  | some (none, _) => len == .l64 || (len == .l96 && imm)

/-- SRCD stands only in the 128-bit form (R23). -/
def srcdOk (l : Limits) (len : Len) : Option (Option Reg) → Bool
  | some (some r) => v1.legal l r && len == .l128
  | _ => true

/-- The checks of a shape. -/
def Shape.wf (l : Limits) (s : Shape) : Bool :=
  s.ctl.wf l s.mem && (!s.long || s.ctl.len != .l64) && s.ops.all (fun o => o.2.legal l o.1) &&
  srccOk l s.ctl.len s.imm s.srcc && srcdOk l s.ctl.len s.srcd && s.ok

/-- A well-formed instruction of a kernel with these counts. An event is not an instruction word. -/
def Instr.wf (l : Limits) (i : Instr) : Bool :=
  match i.shape with
  | some s => s.wf l
  | none => false

end Sys2Proof
end

