-- ==== Sys2Proof/Decode.lean ====
section
/-! DEFINITION. The decoder (R16 to R36 and the operand tables of each class), total on any bytes and rejecting by the
name of the decode trap, and after it the encoder, written from the same tables. -/

namespace Sys2Proof

/-- Why the bytes give no instruction: the decode traps of R33 in their order, and `cut` when fewer bytes stand there
than LEN needs. -/
inductive DecodeErr where
  | fetchAlign
  | illegalLength
  | fetchCross
  | illegalOpcode
  | illegalEncoding
  | illegalOperand
  | illegalModifier
  | roleViolation
  | privilege
  | cut
  deriving DecidableEq, Repr

/-- What a decode check may read besides the bits (R33). -/
structure DecodeCtx where
  nvreg : Nat
  npred : Nat
  role : Nat
  control : Bool
  priv : Bool
  deriving DecidableEq, Repr

/-- The header's counts. -/
def DecodeCtx.limits (k : DecodeCtx) : Limits := { nvreg := k.nvreg, npred := k.npred }

/-- The fields of R21 to R23 as they stand, before any opcode is known. -/
structure Raw where
  len : Len
  opc : BitVec 10
  stall : BitVec 4
  wait : BitVec 12
  setf : BitVec 4
  g0 : BitVec 7
  n0 : BitVec 1
  dst : Reg
  a : Reg
  b : Reg
  c : Reg
  x4 : Reg
  g1 : BitVec 7
  n1 : BitVec 1
  gcomb : BitVec 2
  chint : BitVec 3
  ops : BitVec 1
  pad : BitVec 2
  w : Word
  deriving DecidableEq, Repr

/-- A one-bit field as a truth value. -/
def bit (b : BitVec 1) : Bool := b == 1
/-- A truth value as a one-bit field. -/
def bit1 (b : Bool) : BitVec 1 := if b then 1 else 0

/-- LEN (R16). -/
def Len.dec (b : BitVec 2) : Option Len :=
  match b.toNat with
  | 0 => some .l64
  | 1 => some .l96
  | 2 => some .l128
  | _ => none
/-- See `Len.dec`. -/
def Len.enc : Len → BitVec 2
  | .l64 => 0
  | .l96 => 1
  | .l128 => 2

/-- RM (R64). -/
def Rm.dec (b : BitVec 3) : Option Rm :=
  match b.toNat with
  | 0 => some .rne
  | 1 => some .rtz
  | 2 => some .rup
  | 3 => some .rdn
  | 4 => some .rd
  | _ => none
/-- See `Rm.dec`. -/
def Rm.enc : Rm → BitVec 3
  | .rne => 0
  | .rtz => 1
  | .rup => 2
  | .rdn => 3
  | .rd => 4

/-- COND of ISETP (R92). -/
def ICond.dec (b : BitVec 4) : Option ICond :=
  match b.toNat with
  | 0 => some .eq
  | 1 => some .ne
  | 2 => some .lt
  | 3 => some .le
  | 4 => some .gt
  | 5 => some .ge
  | 6 => some .ltu
  | 7 => some .leu
  | 8 => some .gtu
  | 9 => some .geu
  | _ => none
/-- See `ICond.dec`. -/
def ICond.enc : ICond → BitVec 4
  | .eq => 0
  | .ne => 1
  | .lt => 2
  | .le => 3
  | .gt => 4
  | .ge => 5
  | .ltu => 6
  | .leu => 7
  | .gtu => 8
  | .geu => 9

/-- COND of FSETP (R96). -/
def FCond.dec (b : BitVec 3) : Option FCond :=
  match b.toNat with
  | 0 => some .eq
  | 1 => some .ne
  | 2 => some .lt
  | 3 => some .le
  | 4 => some .gt
  | 5 => some .ge
  | 6 => some .num
  | 7 => some .nan
  | _ => none
/-- See `FCond.dec`. -/
def FCond.enc : FCond → BitVec 3
  | .eq => 0
  | .ne => 1
  | .lt => 2
  | .le => 3
  | .gt => 4
  | .ge => 5
  | .num => 6
  | .nan => 7

/-- op of VRED (R107). -/
def VOp.dec (b : BitVec 3) : Option VOp :=
  match b.toNat with
  | 0 => some .add
  | 1 => some .min
  | 2 => some .max
  | 3 => some .and
  | 4 => some .or
  | 5 => some .xor
  | _ => none
/-- See `VOp.dec`. -/
def VOp.enc : VOp → BitVec 3
  | .add => 0
  | .min => 1
  | .max => 2
  | .and => 3
  | .or => 4
  | .xor => 5

/-- mode of VSHFL (R109). -/
def ShMode.dec (b : BitVec 2) : Option ShMode :=
  match b.toNat with
  | 0 => some .idx
  | 1 => some .up
  | 2 => some .down
  | 3 => some .xor
  | _ => none
/-- See `ShMode.dec`. -/
def ShMode.enc : ShMode → BitVec 2
  | .idx => 0
  | .up => 1
  | .down => 2
  | .xor => 3

/-- FCVT format codes (R101). -/
def CvtFmt.dec (b : BitVec 4) : Option CvtFmt :=
  match b.toNat with
  | 0 => some .f32
  | 1 => some .f16
  | 2 => some .bf16
  | 3 => some .e4m3
  | 4 => some .e5m2
  | 5 => some .s32
  | 6 => some .u32
  | 7 => some .s64
  | 8 => some .u64
  | 9 => some .s16
  | 10 => some .u16
  | 11 => some .s8
  | 12 => some .u8
  | _ => none
/-- See `CvtFmt.dec`. -/
def CvtFmt.enc : CvtFmt → BitVec 4
  | .f32 => 0
  | .f16 => 1
  | .bf16 => 2
  | .e4m3 => 3
  | .e5m2 => 4
  | .s32 => 5
  | .u32 => 6
  | .s64 => 7
  | .u64 => 8
  | .s16 => 9
  | .u16 => 10
  | .s8 => 11
  | .u8 => 12

/-- SF and DF (R104, R113). -/
def F3.dec (b : BitVec 2) : Option F3 :=
  match b.toNat with
  | 0 => some .f32
  | 1 => some .f16
  | 2 => some .bf16
  | _ => none
/-- See `F3.dec`. -/
def F3.enc : F3 → BitVec 2
  | .f32 => 0
  | .f16 => 1
  | .bf16 => 2

/-- SCOPE (R157). -/
def Scope.dec (b : BitVec 3) : Option Scope :=
  match b.toNat with
  | 0 => some .thread
  | 1 => some .quadrant
  | 2 => some .workgroup
  | 3 => some .cluster
  | 4 => some .die
  | 5 => some .device
  | 6 => some .system
  | _ => none
/-- See `Scope.dec`. -/
def Scope.enc : Scope → BitVec 3
  | .thread => 0
  | .quadrant => 1
  | .workgroup => 2
  | .cluster => 3
  | .die => 4
  | .device => 5
  | .system => 6

/-- SZ (R159). -/
def Sz.dec (b : BitVec 3) : Option Sz :=
  match b.toNat with
  | 0 => some .w32
  | 1 => some .b8
  | 2 => some .h16
  | 3 => some .d64
  | 4 => some .q128
  | 5 => some .b8s
  | 6 => some .h16s
  | _ => none
/-- See `Sz.dec`. -/
def Sz.enc : Sz → BitVec 3
  | .w32 => 0
  | .b8 => 1
  | .h16 => 2
  | .d64 => 3
  | .q128 => 4
  | .b8s => 5
  | .h16s => 6

/-- OP of the atomics (R191). -/
def AOp.ofBits (b : BitVec 4) : Option AOp :=
  match b.toNat with
  | 0 => some .add
  | 1 => some .min
  | 2 => some .max
  | 3 => some .and
  | 4 => some .or
  | 5 => some .xor
  | 6 => some .xchg
  | 7 => some .inc
  | 8 => some .dec
  | 9 => some .fadd
  | _ => none
/-- See `AOp.ofBits`. -/
def AOp.enc : AOp → BitVec 4
  | .add => 0
  | .min => 1
  | .max => 2
  | .and => 3
  | .or => 4
  | .xor => 5
  | .xchg => 6
  | .inc => 7
  | .dec => 8
  | .fadd => 9

/-- ORD (R191). -/
def Ord4.dec (b : BitVec 2) : Option Ord4 :=
  match b.toNat with
  | 0 => some .relaxed
  | 1 => some .acq
  | 2 => some .rel
  | 3 => some .acqrel
  | _ => none
/-- See `Ord4.dec`. -/
def Ord4.enc : Ord4 → BitVec 2
  | .relaxed => 0
  | .acq => 1
  | .rel => 2
  | .acqrel => 3

/-- KIND of FENCE (R157). -/
def FKind.dec (b : BitVec 2) : Option FKind :=
  match b.toNat with
  | 0 => some .full
  | 1 => some .acq
  | 2 => some .rel
  | _ => none
/-- See `FKind.dec`. -/
def FKind.enc : FKind → BitVec 2
  | .full => 0
  | .acq => 1
  | .rel => 2

/-- OP of CRED (R157). -/
def COp.dec (b : BitVec 3) : Option COp :=
  match b.toNat with
  | 0 => some .add
  | 1 => some .min
  | 2 => some .max
  | _ => none
/-- See `COp.dec`. -/
def COp.enc : COp → BitVec 3
  | .add => 0
  | .min => 1
  | .max => 2

/-- CNT (R141). -/
def Cnt.dec (b : BitVec 2) : Option Cnt :=
  match b.toNat with
  | 0 => some .n1
  | 1 => some .n4
  | 2 => some .n16
  | 3 => some .n64
  | _ => none
/-- See `Cnt.dec`. -/
def Cnt.enc : Cnt → BitVec 2
  | .n1 => 0
  | .n4 => 1
  | .n16 => 2
  | .n64 => 3

/-- MODE of TRET (R216). -/
def TMode.dec (b : BitVec 2) : Option TMode :=
  match b.toNat with
  | 0 => some .next
  | 1 => some .retry
  | 2 => some .goto
  | 3 => some .kill
  | _ => none
/-- See `TMode.dec`. -/
def TMode.enc : TMode → BitVec 2
  | .next => 0
  | .retry => 1
  | .goto => 2
  | .kill => 3

/-- MODE of ERRINJ (R154). -/
def InjMode.dec (b : BitVec 4) : Option InjMode :=
  match b.toNat with
  | 0 => some .one
  | 1 => some .two
  | 2 => some .twoTwice
  | _ => none
/-- See `InjMode.dec`. -/
def InjMode.enc : InjMode → BitVec 4
  | .one => 0
  | .two => 1
  | .twoTwice => 2

/-- width of MOV (R93). -/
def MovW.dec (b : BitVec 2) : Option MovW :=
  match b.toNat with
  | 0 => some .w1
  | 1 => some .w2
  | 2 => some .w4
  | _ => none
/-- See `MovW.dec`. -/
def MovW.enc : MovW → BitVec 2
  | .w1 => 0
  | .w2 => 1
  | .w4 => 2

/-- MSEL (R93). -/
def MSel.dec (b : BitVec 8) : Option MSel :=
  match b.toNat with
  | 0 => some .w32
  | 1 => some .s64
  | 2 => some .u64
  | _ => none
/-- See `MSel.dec`. -/
def MSel.enc : MSel → BitVec 8
  | .w32 => 0
  | .s64 => 1
  | .u64 => 2

/-- GCOMB (R30). -/
def GComb.dec (b : BitVec 2) : Option GComb :=
  match b.toNat with
  | 0 => some .single
  | 1 => some .conj
  | 2 => some .disj
  | 3 => some .excl
  | _ => none
/-- See `GComb.dec`. -/
def GComb.enc : GComb → BitVec 2
  | .single => 0
  | .conj => 1
  | .disj => 2
  | .excl => 3

/-- MBF: mB - 2, where 7 is reserved (R140). -/
def mbfDec (b : BitVec 3) : Option (Fin 7) := if h : b.toNat < 7 then some ⟨b.toNat, h⟩ else none

/-- The four parcels of the longest form, laid out by length (R21 to R23). Parcels the length does not have are ignored. -/
def Raw.ofParcels (len : Len) (p0 p1 p2 p3 : Word) : Raw :=
  let l : Bool := len == .l128
  { len := len
    opc := p0.extractLsb' 2 10
    stall := p0.extractLsb' 12 4
    wait := p0.extractLsb' 16 12
    setf := p0.extractLsb' 28 4
    g0 := p1.extractLsb' 0 7
    n0 := p1.extractLsb' 7 1
    dst := p1.extractLsb' 8 8
    a := p1.extractLsb' 16 8
    b := p1.extractLsb' 24 8
    c := if l then p2.extractLsb' 0 8 else 0
    x4 := if l then p2.extractLsb' 8 8 else 0
    g1 := if l then p2.extractLsb' 16 7 else 0
    n1 := if l then p2.extractLsb' 23 1 else 0
    gcomb := if l then p2.extractLsb' 24 2 else 0
    chint := if l then p2.extractLsb' 26 3 else 0
    ops := if l then p2.extractLsb' 29 1 else 0
    pad := if l then p2.extractLsb' 30 2 else 0
    w := match len with
      | .l64 => 0
      | .l96 => p2
      | .l128 => p3 }

/-- The common fields (R21, R23, R30). -/
def Raw.ctl (r : Raw) : Ctl :=
  { len := r.len, stall := r.stall, wait := r.wait, setf := r.setf
    g0 := { idx := r.g0, neg := bit r.n0 }
    gcomb := (GComb.dec r.gcomb).getD .single
    g1 := { idx := r.g1, neg := bit r.n1 }
    chint := r.chint }

/-- OPM of R75 and R112. -/
def Raw.opm (r : Raw) : BitVec 8 := r.w.extractLsb' 24 8
/-- Bit i of OPM. -/
def Raw.ob (r : Raw) (i : Nat) : Bool := r.w.getLsbD (24 + i)
/-- RM of R75. -/
def Raw.rm (r : Raw) : Option Rm := Rm.dec (r.w.extractLsb' 21 3)
/-- IMMB of R75, IMMS of R112. -/
def Raw.immb (r : Raw) : Bool := r.w.getLsbD 20
/-- IMM20. -/
def Raw.i20 (r : Raw) : BitVec 20 := r.w.extractLsb' 0 20
/-- OFF16 (R157). -/
def Raw.off16 (r : Raw) : BitVec 16 := r.w.extractLsb' 0 16
/-- The second source of R75. -/
def Raw.src (r : Raw) : Src := if r.immb then .imm r.i20 else .reg r.b
/-- SRCC: at [71:64] in both longer forms, absent in the 64-bit form and, in the 96-bit form, when other bits take its
place (R22, R23, R77). -/
def Raw.srcc (r : Raw) (taken : Bool) : Option Reg :=
  match r.len with
  | .l64 => none
  | .l96 => if taken then none else some (r.w.extractLsb' 0 8)
  | .l128 => some r.c
/-- The scalar operand of R112. -/
def Raw.scal (r : Raw) : Scal := if r.immb then .imm r.i20 else .reg (r.srcc false)
/-- SRCD: X4 when OPS = 1 (R23). -/
def Raw.srcd (r : Raw) : Option Reg := if bit r.ops then some r.x4 else none

/-- Whether the layout of W has a place for SRCC, and the opcode uses it. -/
inductive CUse where
  | absent
  | unused
  | used (c : Cls)
  deriving DecidableEq, Repr

/-- What the tables say of one opcode with these bits: operand classes, the assigned bits of W besides SRCC, and the
instruction when no modifier is reserved. -/
structure Row where
  short : Bool := true
  dst : Cls := .no
  a : Cls := .no
  b : Cls := .no
  cc : CUse := .absent
  five : Bool := false
  imm : Bool := false
  immB : Bool := false
  wmask : Word := 0
  mem : Bool := false
  priv : Bool := false
  instr : Option Instr
  deriving DecidableEq, Repr

/-- The assigned bits of the layouts of R75 and R112: OPM bits, RM, the immediate. -/
def stdMask (opm : BitVec 8) (rm imm : Bool) (immb : Bool) : Word :=
  (opm ++ (if rm then (7 : BitVec 3) else 0) ++ bit1 imm ++ (if imm && immb then (0xFFFFF : BitVec 20) else 0) : BitVec 32)

/-- FCVT's own word (R101). -/
def decodeFcvt (r : Raw) : Option Instr :=
  let sf := r.w.extractLsb' 16 4
  (CvtFmt.dec (r.w.extractLsb' 28 4)).bind fun df => r.rm.bind fun m =>
    if r.w.getLsbD 24 && df != .e4m3 && df != .e5m2 then none
    else
      let mk (s : Option CvtFmt) : Instr := .fcvt r.ctl
        { d := r.dst, a := r.a, b := r.b, df := df, e := r.w.extractLsb' 26 2, cb := r.w.getLsbD 24, rm := m, sf := s,
          c := r.srcc false }
      if sf == 0 then some (mk none) else (CvtFmt.dec (sf - 1)).map fun s => mk (some s)

/-- LD's word (R157, R159). -/
def decodeLd (r : Raw) : Option Instr :=
  (Sz.dec (r.w.extractLsb' 29 3)).bind fun z => (Scope.dec (r.w.extractLsb' 22 3)).bind fun s =>
    let t := r.w.extractLsb' 16 6
    if ftagOk t.toNat && arOk (r.w.getLsbD 27) s then
      some (.ld r.ctl { d := r.dst, a := r.a, sz := z, fresh := r.w.getLsbD 28, acq := r.w.getLsbD 27,
                        nt := r.w.getLsbD 26, scope := s, ftag := t, off := r.off16 })
    else none

/-- ST's word (R157, R159). -/
def decodeSt (r : Raw) : Option Instr :=
  (Sz.dec (r.w.extractLsb' 29 3)).bind fun z => (Scope.dec (r.w.extractLsb' 22 3)).bind fun s =>
    if z != .b8s && z != .h16s && arOk (r.w.getLsbD 27) s then
      some (.st r.ctl { a := r.a, b := r.b, sz := z, rel := r.w.getLsbD 27, nt := r.w.getLsbD 26, wc := r.w.getLsbD 25,
                        scope := s, off := r.off16 })
    else none

/-- The word of ATOM and RED (R191). -/
def decodeAtom (r : Raw) : Option Atom :=
  (AOp.ofBits (r.w.extractLsb' 28 4)).bind fun o => (Ord4.dec (r.w.extractLsb' 24 2)).bind fun q =>
    (Scope.dec (r.w.extractLsb' 21 3)).map fun s => { d := r.dst, a := r.a, b := r.b, op := o, w64 := r.w.getLsbD 27, u := r.w.getLsbD 26, ord := q, scope := s, off := r.off16 }

/-- The modifiers of a decoded form lie in their ranges. -/
def shapeOk (i : Instr) : Bool :=
  match i.shape with
  | some s => s.ok
  | none => false

/-- Class 0x0: control and work (R80 to R87, R203). -/
def row0 (r : Raw) (low : Nat) : Option Row :=
  match low with
  | 0x01 => some
      { instr := some (.nop r.ctl) }
  | 0x02 => some
      { short := false, imm := true, wmask := 0xFFFFFFFF, instr := some (.bra r.ctl r.w) }
  | 0x03 => some
      { a := v2, instr := some (.brx r.ctl r.a) }
  | 0x04 => some
      { short := false, dst := v2, imm := true, wmask := 0xFFFFFFFF, instr := some (.call r.ctl r.dst r.w) }
  | 0x05 => some
      { a := v2, instr := some (.ret r.ctl r.a) }
  | 0x06 => some
      { instr := some (.exit r.ctl) }
  | 0x07 => some
      { instr := some (.yield r.ctl) }
  | 0x08 => some
      { imm := true, wmask := 0xFF, instr := some (.fuse r.ctl (r.w.extractLsb' 0 8)) }
  | 0x09 => some
      { imm := true, wmask := 1, instr := some (.waitf r.ctl (r.w.getLsbD 0)) }
  | 0x0A => some
      { short := false, imm := true, wmask := 0xFFFFFF, instr := some (.sleep r.ctl (r.w.extractLsb' 0 24)) }
  | 0x0B => some
      { short := false, imm := true, wmask := 0xFF, instr := some (.trap r.ctl (r.w.extractLsb' 0 8)) }
  | 0x0C => some
      { short := false, imm := true, wmask := 0xFFFFFFFF, instr := some (.brk r.ctl r.w) }
  | 0x0D => some
      { dst := .p, a := .p, b := .p, cc := .unused, imm := r.immb, immB := r.immb, wmask := stdMask 3 false false r.immb, instr := some (.pand r.ctl { d := r.dst, a := r.a, b := r.b, na := r.ob 0, nb := r.ob 1 }) }
  | 0x0E => some
      { dst := .p, a := .p, b := .p, cc := .unused, imm := r.immb, immB := r.immb, wmask := stdMask 3 false false r.immb, instr := some (.por r.ctl { d := r.dst, a := r.a, b := r.b, na := r.ob 0, nb := r.ob 1 }) }
  | 0x0F => some
      { dst := .p, a := .p, b := .p, cc := .unused, imm := r.immb, immB := r.immb, wmask := stdMask 3 false false r.immb, instr := some (.pxor r.ctl { d := r.dst, a := r.a, b := r.b, na := r.ob 0, nb := r.ob 1 }) }
  | 0x10 => some
      { dst := .p, a := .p, b := .no, cc := .unused, imm := r.immb, immB := r.immb, wmask := stdMask 0 false false r.immb, instr := some (.pnot r.ctl r.dst r.a) }
  | 0x11 => some
      { dst := .p, a := .p, b := .no, cc := .unused, imm := r.immb, immB := r.immb, wmask := stdMask 1 false false r.immb, instr := some (.pmov r.ctl r.dst r.a (r.ob 0)) }
  | 0x12 => some
      { dst := v2, a := .p, instr := some (.fetchw r.ctl r.dst r.a) }
  | 0x13 => some
      { a := .v 8 4, imm := true, wmask := 3, mem := true, instr := some (.emit r.ctl r.a (r.w.extractLsb' 0 2)) }
  | 0x14 => some
      { short := false, imm := true, wmask := 0xF, instr := some (.gate r.ctl (r.w.extractLsb' 0 4)) }
  | 0x15 => some
      { short := false, imm := true, wmask := 0xF, instr := some (.release r.ctl (r.w.extractLsb' 0 4)) }
  | 0x16 => some
      { a := if r.w.getLsbD 0 then .no else v2, imm := true, wmask := 1, instr := some (.migr r.ctl r.a (r.w.getLsbD 0)) }
  | _ => none

/-- Class 0x1: integer (R88 to R93). LEA has a word of its own, in which bit 20 is one that is 0, whatever SRCB names (log 106). -/
def row1 (r : Raw) (low : Nat) : Option Row :=
  match low with
  | 0x00 => some
      { dst := vw (r.ob 0), a := vw (r.ob 0), b := if r.immb then .no else vw (r.ob 0), cc := .unused, imm := r.immb, immB := r.immb, wmask := stdMask 7 false true r.immb, instr := some (.iadd r.ctl { d := r.dst, a := r.a, b := r.src, w64 := r.ob 0, u := r.ob 1, sat := r.ob 2 }) }
  | 0x01 => some
      { dst := vw (r.ob 0), a := vw (r.ob 0), b := if r.immb then .no else vw (r.ob 0), cc := .unused, imm := r.immb, immB := r.immb, wmask := stdMask 7 false true r.immb, instr := some (.isub r.ctl { d := r.dst, a := r.a, b := r.src, w64 := r.ob 0, u := r.ob 1, sat := r.ob 2 }) }
  | 0x02 => some
      { dst := vw (r.ob 0), a := vw (r.ob 0), b := if r.immb then .no else vw (r.ob 0), cc := .unused, imm := r.immb, immB := r.immb, wmask := stdMask 1 false true r.immb, instr := some (.imul r.ctl { d := r.dst, a := r.a, b := r.src, w64 := r.ob 0, u := r.ob 1, sat := r.ob 2 }) }
  | 0x03 => some
      { dst := vw (r.ob 0), a := vw (r.ob 0), b := if r.immb then .no else vw (r.ob 0), cc := .unused, imm := r.immb, immB := r.immb, wmask := stdMask 3 false true r.immb, instr := some (.imulh r.ctl { d := r.dst, a := r.a, b := r.src, w64 := r.ob 0, u := r.ob 1, sat := r.ob 2 }) }
  | 0x04 => some
      { dst := vw (r.ob 0), a := vw (r.ob 0), b := if r.immb then .no else vw (r.ob 0), cc := .used (vw (r.ob 0)), imm := r.immb, immB := r.immb, wmask := stdMask 1 false true r.immb, instr := some (.imad r.ctl { d := r.dst, a := r.a, b := r.src, c := r.srcc r.immb, w64 := r.ob 0 }) }
  | 0x05 => some
      { dst := vw (r.ob 0), a := vw (r.ob 0), b := if r.immb then .no else vw (r.ob 0), cc := .unused, imm := r.immb, immB := r.immb, wmask := stdMask 3 false true r.immb, instr := some (.idiv r.ctl { d := r.dst, a := r.a, b := r.src, w64 := r.ob 0, u := r.ob 1, sat := r.ob 2 }) }
  | 0x06 => some
      { dst := vw (r.ob 0), a := vw (r.ob 0), b := if r.immb then .no else vw (r.ob 0), cc := .unused, imm := r.immb, immB := r.immb, wmask := stdMask 3 false true r.immb, instr := some (.irem r.ctl { d := r.dst, a := r.a, b := r.src, w64 := r.ob 0, u := r.ob 1, sat := r.ob 2 }) }
  | 0x07 => some
      { dst := vw (r.ob 0), a := vw (r.ob 0), b := if r.immb then .no else vw (r.ob 0), cc := .unused, imm := r.immb, immB := r.immb, wmask := stdMask 3 false true r.immb, instr := some (.imin r.ctl { d := r.dst, a := r.a, b := r.src, w64 := r.ob 0, u := r.ob 1, sat := r.ob 2 }) }
  | 0x08 => some
      { dst := vw (r.ob 0), a := vw (r.ob 0), b := if r.immb then .no else vw (r.ob 0), cc := .unused, imm := r.immb, immB := r.immb, wmask := stdMask 3 false true r.immb, instr := some (.imax r.ctl { d := r.dst, a := r.a, b := r.src, w64 := r.ob 0, u := r.ob 1, sat := r.ob 2 }) }
  | 0x09 => some
      { dst := vw (r.ob 0), a := vw (r.ob 0), b := .no, cc := .unused, imm := r.immb, immB := r.immb, wmask := stdMask 5 false false r.immb, instr := some (.iabs r.ctl { d := r.dst, a := r.a, w64 := r.ob 0, sat := r.ob 2 }) }
  | 0x0A => some
      { dst := vw (r.ob 0), a := vw (r.ob 0), b := .no, cc := .unused, imm := r.immb, immB := r.immb, wmask := stdMask 5 false false r.immb, instr := some (.ineg r.ctl { d := r.dst, a := r.a, w64 := r.ob 0, sat := r.ob 2 }) }
  | 0x0B => some
      { dst := vw (r.ob 0), a := vw (r.ob 0), b := if r.immb then .no else vw (r.ob 0), cc := .unused, imm := r.immb, immB := r.immb, wmask := stdMask 1 false true r.immb, instr := some (.land r.ctl { d := r.dst, a := r.a, b := r.src, w64 := r.ob 0, u := r.ob 1, sat := r.ob 2 }) }
  | 0x0C => some
      { dst := vw (r.ob 0), a := vw (r.ob 0), b := if r.immb then .no else vw (r.ob 0), cc := .unused, imm := r.immb, immB := r.immb, wmask := stdMask 1 false true r.immb, instr := some (.lor r.ctl { d := r.dst, a := r.a, b := r.src, w64 := r.ob 0, u := r.ob 1, sat := r.ob 2 }) }
  | 0x0D => some
      { dst := vw (r.ob 0), a := vw (r.ob 0), b := if r.immb then .no else vw (r.ob 0), cc := .unused, imm := r.immb, immB := r.immb, wmask := stdMask 1 false true r.immb, instr := some (.lxor r.ctl { d := r.dst, a := r.a, b := r.src, w64 := r.ob 0, u := r.ob 1, sat := r.ob 2 }) }
  | 0x0E => some
      { dst := vw (r.ob 0), a := vw (r.ob 0), b := .no, cc := .unused, imm := r.immb, immB := r.immb, wmask := stdMask 1 false false r.immb, instr := some (.lnot r.ctl { d := r.dst, a := r.a, w64 := r.ob 0, sat := r.ob 2 }) }
  | 0x0F => some
      { dst := vw (r.ob 0), a := vw (r.ob 0), b := if r.immb then .no else v1, cc := .unused, imm := r.immb, immB := r.immb, wmask := stdMask 1 false true r.immb, instr := some (.shl r.ctl { d := r.dst, a := r.a, b := r.src, w64 := r.ob 0, u := r.ob 1, sat := r.ob 2 }) }
  | 0x10 => some
      { dst := vw (r.ob 0), a := vw (r.ob 0), b := if r.immb then .no else v1, cc := .unused, imm := r.immb, immB := r.immb, wmask := stdMask 1 false true r.immb, instr := some (.shr r.ctl { d := r.dst, a := r.a, b := r.src, w64 := r.ob 0, u := r.ob 1, sat := r.ob 2 }) }
  | 0x11 => some
      { dst := vw (r.ob 0), a := vw (r.ob 0), b := if r.immb then .no else v1, cc := .unused, imm := r.immb, immB := r.immb, wmask := stdMask 1 false true r.immb, instr := some (.sar r.ctl { d := r.dst, a := r.a, b := r.src, w64 := r.ob 0, u := r.ob 1, sat := r.ob 2 }) }
  | 0x12 => some
      { dst := vw (r.ob 0), a := vw (r.ob 0), b := if r.immb then .no else v1, cc := .unused, imm := r.immb, immB := r.immb, wmask := stdMask 1 false true r.immb, instr := some (.rot r.ctl { d := r.dst, a := r.a, b := r.src, w64 := r.ob 0, u := r.ob 1, sat := r.ob 2 }) }
  | 0x13 => some
      { short := false, dst := vw (r.ob 0), a := vw (r.ob 0), imm := true, wmask := 0x03001FFF, instr := if 1 ≤ (r.w.extractLsb' 6 7).toNat && (r.w.extractLsb' 0 6).toNat + (r.w.extractLsb' 6 7).toNat ≤ (if r.ob 0 then 64 else 32) then some (.bfe r.ctl { d := r.dst, a := r.a, b := r.b, w64 := r.ob 0, s := r.ob 1, len := r.w.extractLsb' 6 7, pos := r.w.extractLsb' 0 6 }) else none }
  | 0x14 => some
      { short := false, dst := vw (r.ob 0), a := vw (r.ob 0), b := vw (r.ob 0), imm := true, wmask := 0x01001FFF, instr := if 1 ≤ (r.w.extractLsb' 6 7).toNat && (r.w.extractLsb' 0 6).toNat + (r.w.extractLsb' 6 7).toNat ≤ (if r.ob 0 then 64 else 32) then some (.bfi r.ctl { d := r.dst, a := r.a, b := r.b, w64 := r.ob 0, s := r.ob 1, len := r.w.extractLsb' 6 7, pos := r.w.extractLsb' 0 6 }) else none }
  | 0x15 => some
      { dst := v1, a := vw (r.ob 0), b := .no, cc := .unused, imm := r.immb, immB := r.immb, wmask := stdMask 1 false false r.immb, instr := some (.popc r.ctl { d := r.dst, a := r.a, w64 := r.ob 0, sat := r.ob 2 }) }
  | 0x16 => some
      { dst := v1, a := vw (r.ob 0), b := .no, cc := .unused, imm := r.immb, immB := r.immb, wmask := stdMask 1 false false r.immb, instr := some (.clz r.ctl { d := r.dst, a := r.a, w64 := r.ob 0, sat := r.ob 2 }) }
  | 0x17 => some
      { dst := vw (r.ob 0), a := vw (r.ob 0), b := .no, cc := .unused, imm := r.immb, immB := r.immb, wmask := stdMask 1 false false r.immb, instr := some (.brev r.ctl { d := r.dst, a := r.a, w64 := r.ob 0, sat := r.ob 2 }) }
  | 0x18 => some
      { dst := .p, a := vw (r.ob 4), b := if r.immb then .no else vw (r.ob 4), cc := .unused, imm := r.immb, immB := r.immb, wmask := stdMask 0x1F false true r.immb, instr := (ICond.dec (r.opm.extractLsb' 0 4)).map fun k => .isetp r.ctl { p := r.dst, a := r.a, b := r.src, cond := k, w64 := r.ob 4 } }
  | 0x19 => some
      { dst := vw (r.ob 0), a := vw (r.ob 0), b := if r.immb then .no else vw (r.ob 0), cc := .used .p, imm := r.immb, immB := r.immb, wmask := stdMask 1 false true r.immb, instr := some (.sel r.ctl { d := r.dst, a := r.a, b := r.src, ps := r.srcc r.immb, w64 := r.ob 0 }) }
  | 0x1A => some
      { dst := (match MovW.dec (r.opm.extractLsb' 0 2) with | some k => k.cls | none => v1), a := (match MovW.dec (r.opm.extractLsb' 0 2) with | some k => k.cls | none => v1), b := .no, cc := .unused, imm := r.immb, immB := r.immb, wmask := stdMask 3 false false r.immb, instr := (MovW.dec (r.opm.extractLsb' 0 2)).map fun k => .mov r.ctl r.dst r.a k }
  | 0x1B => some
      { short := false, dst := if r.b == 1 || r.b == 2 then v2 else v1, b := .any, imm := true, wmask := 0xFFFFFFFF, instr := (MSel.dec r.b).map fun m => .movi r.ctl r.dst m r.w }
  | 0x1C => some
      { short := false, dst := v2, a := v2, b := v1, imm := true, wmask := 0x0100003F, instr := if (r.w.extractLsb' 0 6).toNat ≤ 32 then some (.lea r.ctl { d := r.dst, a := r.a, b := r.b, s := r.ob 0, sh := r.w.extractLsb' 0 6 }) else none }
  | 0x1D => some
      { dst := vw (r.ob 0), a := vw (r.ob 0), b := vw (r.ob 0), cc := .unused, imm := r.immb, immB := r.immb, wmask := stdMask 1 false false r.immb, instr := some (.hmul r.ctl { d := r.dst, a := r.a, b := .reg r.b, w64 := r.ob 0, u := r.ob 1, sat := r.ob 2 }) }
  | _ => none

/-- Class 0x2: floating point and format (R94 to R110). -/
def row2 (r : Raw) (low : Nat) : Option Row :=
  match low with
  | 0x00 => some
      { dst := v1, a := v1, b := if r.immb then .no else v1, cc := .used v1, imm := r.immb, immB := r.immb, wmask := stdMask 0 true true r.immb, instr := if fimmOk r.src then r.rm.map fun m => .fadd r.ctl { d := r.dst, a := r.a, b := r.src, c := r.srcc r.immb, rm := m } else none }
  | 0x01 => some
      { dst := v1, a := v1, b := if r.immb then .no else v1, cc := .used v1, imm := r.immb, immB := r.immb, wmask := stdMask 0 true true r.immb, instr := if fimmOk r.src then r.rm.map fun m => .fsub r.ctl { d := r.dst, a := r.a, b := r.src, c := r.srcc r.immb, rm := m } else none }
  | 0x02 => some
      { dst := v1, a := v1, b := if r.immb then .no else v1, cc := .used v1, imm := r.immb, immB := r.immb, wmask := stdMask 0 true true r.immb, instr := if fimmOk r.src then r.rm.map fun m => .fmul r.ctl { d := r.dst, a := r.a, b := r.src, c := r.srcc r.immb, rm := m } else none }
  | 0x03 => some
      { dst := v1, a := v1, b := v1, cc := .used v1, five := true, imm := r.immb, immB := r.immb, wmask := stdMask 0 true false r.immb, instr := r.rm.map fun m => .ffma r.ctl { d := r.dst, a := r.a, b := r.b, c := r.srcc r.immb, x := r.srcd, rm := m } }
  | 0x04 => some
      { dst := v1, a := v1, b := if r.immb then .no else v1, cc := .unused, imm := r.immb, immB := r.immb, wmask := stdMask 0 false true r.immb, instr := if fimmOk r.src then some (.fmin r.ctl { d := r.dst, a := r.a, b := r.src }) else none }
  | 0x05 => some
      { dst := v1, a := v1, b := if r.immb then .no else v1, cc := .unused, imm := r.immb, immB := r.immb, wmask := stdMask 0 false true r.immb, instr := if fimmOk r.src then some (.fmax r.ctl { d := r.dst, a := r.a, b := r.src }) else none }
  | 0x06 => some
      { dst := v1, a := v1, b := .no, cc := .unused, imm := r.immb, immB := r.immb, wmask := stdMask 0 false false r.immb, instr := some (.fabs r.ctl { d := r.dst, a := r.a }) }
  | 0x07 => some
      { dst := v1, a := v1, b := .no, cc := .unused, imm := r.immb, immB := r.immb, wmask := stdMask 0 false false r.immb, instr := some (.fneg r.ctl { d := r.dst, a := r.a }) }
  | 0x08 => some
      { dst := .p, a := v1, b := if r.immb then .no else v1, cc := .unused, imm := r.immb, immB := r.immb, wmask := stdMask 0xF false true r.immb, instr := if fimmOk r.src then (FCond.dec (r.opm.extractLsb' 0 3)).map fun k => .fsetp r.ctl { p := r.dst, a := r.a, b := r.src, cond := k, e1 := r.ob 3 } else none }
  | 0x09 => some
      { dst := v1, a := v1, b := .no, cc := .unused, imm := r.immb, immB := r.immb, wmask := stdMask 0 false false r.immb, instr := some (.fclass r.ctl { d := r.dst, a := r.a }) }
  | 0x0A => some
      { dst := v1, a := v1, b := .no, cc := .used v1, imm := r.immb, immB := r.immb, wmask := stdMask 0 true false r.immb, instr := r.rm.map fun m => .frnd r.ctl { d := r.dst, a := r.a, c := r.srcc r.immb, rm := m } }
  | 0x0B => some
      { dst := v1, a := v1, b := if r.immb then .no else v1, cc := .used v1, imm := r.immb, immB := r.immb, wmask := stdMask 0 true true r.immb, instr := r.rm.map fun m => .fscale r.ctl { d := r.dst, a := r.a, b := r.src, c := r.srcc r.immb, rm := m } }
  | 0x0C => some
      { dst := v1, a := v1, b := .no, cc := .used v1, imm := r.immb, immB := r.immb, wmask := stdMask 0 true false r.immb, instr := r.rm.map fun m => .frcp r.ctl { d := r.dst, a := r.a, c := r.srcc r.immb, rm := m } }
  | 0x0D => some
      { dst := v1, a := v1, b := .no, cc := .used v1, imm := r.immb, immB := r.immb, wmask := stdMask 0 true false r.immb, instr := r.rm.map fun m => .frsq r.ctl { d := r.dst, a := r.a, c := r.srcc r.immb, rm := m } }
  | 0x0E => some
      { dst := v1, a := v1, b := .no, cc := .used v1, imm := r.immb, immB := r.immb, wmask := stdMask 0 true false r.immb, instr := r.rm.map fun m => .fsqrt r.ctl { d := r.dst, a := r.a, c := r.srcc r.immb, rm := m } }
  | 0x0F => some
      { dst := v1, a := v1, b := .no, cc := .used v1, imm := r.immb, immB := r.immb, wmask := stdMask 0 true false r.immb, instr := r.rm.map fun m => .fexp2 r.ctl { d := r.dst, a := r.a, c := r.srcc r.immb, rm := m } }
  | 0x10 => some
      { dst := v1, a := v1, b := .no, cc := .used v1, imm := r.immb, immB := r.immb, wmask := stdMask 0 true false r.immb, instr := r.rm.map fun m => .flog2 r.ctl { d := r.dst, a := r.a, c := r.srcc r.immb, rm := m } }
  | 0x11 => some
      { dst := v1, a := v1, b := .no, cc := .used v1, imm := r.immb, immB := r.immb, wmask := stdMask 0 true false r.immb, instr := r.rm.map fun m => .fsin r.ctl { d := r.dst, a := r.a, c := r.srcc r.immb, rm := m } }
  | 0x12 => some
      { dst := v1, a := v1, b := .no, cc := .used v1, imm := r.immb, immB := r.immb, wmask := stdMask 0 true false r.immb, instr := r.rm.map fun m => .fcos r.ctl { d := r.dst, a := r.a, c := r.srcc r.immb, rm := m } }
  | 0x13 => some
      { dst := v1, a := v1, b := .no, cc := .used v1, imm := r.immb, immB := r.immb, wmask := stdMask 0 true false r.immb, instr := r.rm.map fun m => .ftanh r.ctl { d := r.dst, a := r.a, c := r.srcc r.immb, rm := m } }
  | 0x14 => some
      { dst := v1, a := v1, b := .no, cc := .used v1, imm := r.immb, immB := r.immb, wmask := stdMask 0 true false r.immb, instr := r.rm.map fun m => .fsigm r.ctl { d := r.dst, a := r.a, c := r.srcc r.immb, rm := m } }
  | 0x15 => some
      { dst := v1, a := v1, b := v1, cc := .used v1, five := true, imm := r.immb, immB := r.immb, wmask := stdMask 0 true false r.immb, instr := r.rm.map fun m => .fdot2 r.ctl { d := r.dst, a := r.a, b := r.b, c := r.srcc r.immb, x := r.srcd, rm := m } }
  | 0x16 => some
      { dst := v1, a := v1, b := v1, cc := .used v1, five := true, imm := r.immb, immB := r.immb, wmask := stdMask 0 true false r.immb, instr := r.rm.map fun m => .fdot4 r.ctl { d := r.dst, a := r.a, b := r.b, c := r.srcc r.immb, x := r.srcd, rm := m } }
  | 0x17 => some
      { dst := (match CvtFmt.dec (r.w.extractLsb' 28 4) with | some f => f.cls | none => v1), a := (match CvtFmt.dec (r.w.extractLsb' 16 4 - 1) with | some f => if r.w.extractLsb' 16 4 == 0 then v1 else f.cls | none => v1), b := if r.w.getLsbD 24 then v1 else .no, cc := .used v1, wmask := 0xFDEF0000, instr := decodeFcvt r }
  | 0x18 => some
      { dst := vrun (if r.opm.extractLsb' 0 3 == 7 then 1 else bfpRegs (r.opm.extractLsb' 0 3).toNat), a := v1, b := v1, cc := .used v1, imm := r.immb, immB := r.immb, wmask := stdMask 7 true false r.immb, instr := (mbfDec (r.opm.extractLsb' 0 3)).bind fun m => r.rm.map fun q => .bfppack r.ctl { d := r.dst, a := r.a, b := r.b, m := m, rm := q, c := r.srcc r.immb } }
  | 0x19 => some
      { dst := vrun (if r.opm.extractLsb' 0 2 == 0 then 32 else if r.opm.extractLsb' 0 2 == 3 then 1 else 16), a := v1, b := .no, cc := .used v1, imm := r.immb, immB := r.immb, wmask := stdMask 3 true false r.immb, instr := (F3.dec (r.opm.extractLsb' 0 2)).bind fun f => r.rm.bind fun q => if f != .f32 || q == .rne then some (.bfpunpk r.ctl { d := r.dst, a := r.a, df := f, rm := q, c := r.srcc r.immb }) else none }
  | 0x1A => some
      { dst := v1, a := v1, b := .no, cc := .unused, imm := r.immb, immB := r.immb, wmask := stdMask 0 false false r.immb, instr := some (.compress r.ctl { d := r.dst, a := r.a }) }
  | 0x1B => some
      { dst := v1, a := v1, b := .no, cc := .unused, imm := r.immb, immB := r.immb, wmask := stdMask 0 false false r.immb, instr := some (.expand r.ctl { d := r.dst, a := r.a }) }
  | 0x1C => some
      { dst := vw (r.ob 4), a := vw (r.ob 4), b := .no, cc := .unused, imm := r.immb, immB := r.immb, wmask := stdMask 0x3F false false r.immb, instr := (VOp.dec (r.opm.extractLsb' 0 3)).bind fun k => if !r.ob 5 || k == .add then some (.vred r.ctl { d := r.dst, a := r.a, op := k, u := r.ob 3, w64 := r.ob 4, exact := r.ob 5, excl := r.ob 6 }) else none }
  | 0x1D => some
      { dst := vw (r.ob 4), a := vw (r.ob 4), b := .no, cc := .unused, imm := r.immb, immB := r.immb, wmask := stdMask 0x7F false false r.immb, instr := (VOp.dec (r.opm.extractLsb' 0 3)).bind fun k => if !r.ob 5 || k == .add then some (.vscan r.ctl { d := r.dst, a := r.a, op := k, u := r.ob 3, w64 := r.ob 4, exact := r.ob 5, excl := r.ob 6 }) else none }
  | 0x1E => some
      { dst := vw (r.ob 4), a := vw (r.ob 4), b := if r.immb then .no else v1, cc := .unused, imm := r.immb, immB := r.immb, wmask := stdMask 0x13 false true r.immb, instr := (ShMode.dec (r.opm.extractLsb' 0 2)).map fun k => .vshfl r.ctl { d := r.dst, a := r.a, b := r.src, mode := k, w64 := r.ob 4 } }
  | 0x1F => some
      { dst := vw (r.ob 4), a := vw (r.ob 4), b := if r.immb then .no else v1, cc := .unused, imm := r.immb, immB := r.immb, wmask := stdMask 0x10 false true r.immb, instr := some (.vbcast r.ctl { d := r.dst, a := r.a, b := r.src, mode := .idx, w64 := r.ob 4 }) }
  | 0x20 => some
      { dst := v1, a := v1, b := if r.immb then .no else v1, cc := .unused, imm := r.immb, immB := r.immb, wmask := stdMask 0 false true r.immb, instr := if !r.immb || (r.i20.toNat < 256 && tagOk r.i20.toNat) then some (.tagset r.ctl { d := r.dst, a := r.a, b := r.src, trap := r.ob 0 }) else none }
  | 0x21 => some
      { dst := v1, a := v1, b := .no, cc := .unused, imm := r.immb, immB := r.immb, wmask := stdMask 0 false false r.immb, instr := some (.tagget r.ctl { d := r.dst, a := r.a }) }
  | 0x22 => some
      { dst := .p, a := v1, b := if r.immb then .no else v1, cc := .unused, imm := r.immb, immB := r.immb, wmask := stdMask 1 false true r.immb, instr := if !r.immb || (r.i20.toNat < 256 && tagOk r.i20.toNat) then some (.tagchk r.ctl { d := r.dst, a := r.a, b := r.src, trap := r.ob 0 }) else none }
  | 0x23 => some
      { dst := v1, a := v1, b := .no, cc := .unused, imm := r.immb, immB := r.immb, wmask := stdMask 0 false false r.immb, instr := some (.sclget r.ctl { d := r.dst, a := r.a }) }
  | 0x24 => some
      { dst := v1, a := v1, b := if r.immb then .no else v1, cc := .unused, imm := r.immb, immB := r.immb, wmask := stdMask 0 false true r.immb, instr := if !r.immb || r.i20.toNat < 256 then some (.sclset r.ctl { d := r.dst, a := r.a, b := r.src, trap := r.ob 0 }) else none }
  | _ => none

/-- Class 0x3: directional (R112, R113). IMMS = 1 in DUNPK and DDOTR traps with ILLEGAL_MODIFIER, and the reserved SF and DF check
a pair (log 107). -/
def row3 (r : Raw) (low : Nat) : Option Row :=
  match low with
  | 0x00 => some
      { dst := .d, a := (match F3.dec (r.opm.extractLsb' 0 2) with | some k => k.cls | none => v2), b := .no, cc := .unused, imm := r.immb, wmask := stdMask 3 false false r.immb, instr := (F3.dec (r.opm.extractLsb' 0 2)).map fun k => .dnorm r.ctl { d := r.dst, a := r.a, sf := k } }
  | 0x01 => some
      { dst := (match F3.dec (r.opm.extractLsb' 0 2) with | some k => k.cls | none => v2), a := .d, b := .no, cc := .used v1, imm := r.immb, wmask := stdMask 7 true false r.immb, instr := (F3.dec (r.opm.extractLsb' 0 2)).bind fun k => r.rm.map fun q => .dunpk r.ctl { d := r.dst, a := r.a, df := k, n := r.ob 2, rm := q, c := r.srcc r.immb } }
  | 0x02 => some
      { dst := v1, a := .d, b := .d, cc := .unused, imm := r.immb, wmask := stdMask 0 false false r.immb, instr := some (.ddot r.ctl { d := r.dst, a := r.a, b := r.b }) }
  | 0x03 => some
      { dst := v1, a := .d, b := .d, cc := .used v1, imm := r.immb, wmask := stdMask 0 true false r.immb, instr := r.rm.map fun q => .ddotr r.ctl { d := r.dst, a := r.a, b := r.b, rm := q, c := r.srcc r.immb } }
  | 0x04 => some
      { dst := .d, a := .d, cc := if r.immb then .unused else .used v1, imm := r.immb, wmask := stdMask 0 false true r.immb, instr := some (.dscl r.ctl { d := r.dst, a := r.a, s := r.scal }) }
  | 0x05 => some
      { dst := .d, a := .d, b := .d, cc := .unused, imm := r.immb, wmask := stdMask 0 false false r.immb, instr := some (.dadd r.ctl { d := r.dst, a := r.a, b := r.b }) }
  | 0x06 => some
      { dst := .d, a := .d, b := .d, cc := .unused, imm := r.immb, wmask := stdMask 0 false false r.immb, instr := some (.dsub r.ctl { d := r.dst, a := r.a, b := r.b }) }
  | 0x07 => some
      { dst := .d, a := .d, b := .d, cc := if r.immb then .unused else .used v1, imm := r.immb, wmask := stdMask 0 false true r.immb, instr := if !r.immb || r.i20.toNat ≤ 65536 then some (.dlerp r.ctl { d := r.dst, a := r.a, b := r.b, s := r.scal }) else none }
  | 0x08 => some
      { dst := .d, a := .d, b := .d, cc := .unused, imm := r.immb, wmask := stdMask 0 false false r.immb, instr := some (.drej r.ctl { d := r.dst, a := r.a, b := r.b }) }
  | 0x09 => some
      { dst := .d, a := .d, b := .no, cc := .unused, imm := r.immb, wmask := stdMask 0 false false r.immb, instr := some (.dmov r.ctl { d := r.dst, a := r.a }) }
  | 0x0A => some
      { dst := .d, a := .no, b := .no, cc := .unused, imm := r.immb, wmask := stdMask 0 false false r.immb, instr := some (.dzero r.ctl r.dst) }
  | 0x0B => some
      { dst := .p, a := .d, b := .no, cc := .unused, imm := r.immb, wmask := stdMask 0 false false r.immb, instr := some (.dtest r.ctl { d := r.dst, a := r.a }) }
  | 0x0C => some
      { dst := if r.ob 0 then .nn else v1, a := if r.ob 0 then v1 else .nn, b := .no, cc := .unused, imm := r.immb, wmask := stdMask 1 false false r.immb, instr := some (.nmov r.ctl { d := r.dst, a := r.a, w := r.ob 0 }) }
  | 0x0D => some
      { dst := .d, a := v2, imm := true, wmask := 0xFFFFF, mem := true, instr := some (.dld r.ctl { r := r.dst, a := r.a, off := r.i20 }) }
  | 0x0E => some
      { a := v2, b := .d, imm := true, wmask := 0xFFFFF, mem := true, instr := some (.dst r.ctl { r := r.b, a := r.a, off := r.i20 }) }
  | _ => none

/-- Class 0x4: matrix (R140, R141, R154). -/
def row4 (r : Raw) (low : Nat) : Option Row :=
  match low with
  | 0x00 => some
      { dst := .k, a := .no, b := .no, cc := .unused, imm := r.immb, wmask := stdMask 0 false false r.immb, instr := some (.ksign r.ctl r.dst) }
  | 0x01 => some
      { dst := .k, a := .no, b := .no, cc := .unused, imm := r.immb, wmask := stdMask 0 false false r.immb, instr := some (.kclr r.ctl r.dst) }
  | 0x02 => some
      { dst := .m, a := v2, b := vrun (if 3 ≤ (r.w.extractLsb' 25 3).toNat then 2 else 1), cc := .used v1, wmask := 0xFE000000, mem := true, instr := (mbfDec (r.w.extractLsb' 25 3)).map fun q => .mma r.ctl { d := r.dst, a := r.a, b := r.b, k := r.w.extractLsb' 28 4, mbf := q, c := r.srcc false } }
  | 0x03 => some
      { dst := .m, a := v2, b := vrun (if 3 ≤ (r.w.extractLsb' 25 3).toNat then 2 else 1), cc := .used v1, five := true, wmask := 0xFEFFFF00, mem := true, instr := (mbfDec (r.w.extractLsb' 25 3)).map fun q => .mmas r.ctl { d := r.dst, a := r.a, b := r.b, k := r.w.extractLsb' 28 4, mbf := q, abm := r.w.extractLsb' 8 16, c := r.srcc false, e := r.srcd } }
  | 0x04 => some
      { dst := .m, a := .no, b := .no, cc := .unused, imm := r.immb, wmask := stdMask 0 false false r.immb, instr := some (.mzero r.ctl r.dst) }
  | 0x05 => some
      { dst := v1, a := v2, b := .m, cc := .used v1, imm := r.immb, wmask := stdMask 1 true false r.immb, mem := true, instr := r.rm.map fun q => .mdrain r.ctl { d := r.dst, a := r.a, m := r.b, keep := r.ob 0, rm := q, c := r.srcc r.immb } }
  | 0x06 => some
      { dst := .p, a := .no, b := .no, cc := .unused, imm := r.immb, wmask := stdMask 0 false false r.immb, instr := some (.mchk r.ctl r.dst) }
  | 0x07 => some
      { dst := vrun (match Cnt.dec (r.opm.extractLsb' 0 2) with | some k => k.n | none => 1), a := .m, cc := if r.immb then .unused else .used v1, imm := r.immb, wmask := stdMask 0xF false true r.immb, instr := (Cnt.dec (r.opm.extractLsb' 0 2)).bind fun k => if rowOk r.scal k.n then some (.mget r.ctl { d := r.dst, m := r.a, s := r.scal, cnt := k, sync := r.ob 2, tr := r.ob 3 }) else none }
  | 0x08 => some
      { dst := .m, a := vrun (match Cnt.dec (r.opm.extractLsb' 0 2) with | some k => k.n | none => 1), cc := if r.immb then .unused else .used v1, imm := r.immb, wmask := stdMask 0xB false true r.immb, instr := (Cnt.dec (r.opm.extractLsb' 0 2)).bind fun k => if rowOk r.scal k.n then some (.mput r.ctl { m := r.dst, a := r.a, s := r.scal, cnt := k, tr := r.ob 3 }) else none }
  | 0x09 => some
      { dst := v1, a := .m, b := .no, cc := .unused, imm := r.immb, wmask := stdMask 0 false false r.immb, instr := some (.mstat r.ctl { d := r.dst, a := r.a }) }
  | 0x0A => some
      { a := .m, imm := true, wmask := 0xFFFFF800, priv := true, instr := (InjMode.dec (r.w.extractLsb' 28 4)).map fun q => .errinj r.ctl { m := r.a, mode := q, row := r.w.extractLsb' 22 6, col := r.w.extractLsb' 16 6, bit := r.w.extractLsb' 11 5 } }
  | _ => none

/-- Class 0x5: memory, barriers, engines, thatches, fabric (R156, R157). -/
def row5 (r : Raw) (low : Nat) : Option Row :=
  match low with
  | 0x00 => some
      { dst := (match Sz.dec (r.w.extractLsb' 29 3) with | some z => z.cls | none => v1), a := v2, imm := true, wmask := 0xFDFFFFFF, mem := true, instr := decodeLd r }
  | 0x01 => some
      { a := v2, b := (match Sz.dec (r.w.extractLsb' 29 3) with | some z => z.cls | none => v1), imm := true, wmask := 0xEFC0FFFF, mem := true, instr := decodeSt r }
  | 0x02 => some
      { dst := v1, a := v2, b := v2, cc := .used v2, wmask := 0xFE000000, mem := true, instr := some (.ldv r.ctl { r := r.dst, a := r.a, b := r.b, c := r.srcc false, nm1 := r.w.extractLsb' 27 5, x1 := r.w.getLsbD 26, fresh := r.w.getLsbD 25 }) }
  | 0x03 => some
      { dst := v1, a := v2, b := v2, cc := .used v2, wmask := 0xFC000000, mem := true, instr := some (.stv r.ctl { r := r.dst, a := r.a, b := r.b, c := r.srcc false, nm1 := r.w.extractLsb' 27 5, x1 := r.w.getLsbD 26, fresh := r.w.getLsbD 25 }) }
  | 0x04 => some
      { a := v2, imm := true, wmask := 0x2000FFFF, mem := true, instr := some (.pref r.ctl { a := r.a, rc := r.w.getLsbD 29, off := r.off16 }) }
  | 0x05 => some
      { imm := true, wmask := 0xC1C00000, instr := (FKind.dec (r.w.extractLsb' 30 2)).bind fun k => (Scope.dec (r.w.extractLsb' 22 3)).bind fun q => if q != .thread then some (.fence r.ctl k q) else none }
  | 0x06 => some
      { imm := true, wmask := 0x01C00000, instr := (Scope.dec (r.w.extractLsb' 22 3)).bind fun q => if q == .device then some (.pbar r.ctl false) else if q == .system then some (.pbar r.ctl true) else none }
  | 0x07 => some
      { a := v2, imm := true, wmask := 0xFFFF, mem := true, instr := some (.pflush r.ctl r.a r.off16) }
  | 0x08 => some
      { dst := v2, a := v2, b := v2, cc := .used v1, mem := true, instr := some (.copy r.ctl { bar := r.dst, d := r.a, s := r.b, n := r.srcc false }) }
  | 0x09 => some
      { dst := v2, a := v2, b := v2, cc := .used v2, wmask := 0xFFFFFF00, mem := true, instr := some (.gather r.ctl { bar := r.dst, a := r.a, b := r.b, idx := r.srcc false, nrows := r.w.extractLsb' 21 11, idx64 := r.w.getLsbD 20, rowb4 := r.w.extractLsb' 8 12 }) }
  | 0x0A => some
      { dst := v2, a := v2, b := v2, cc := .used v2, wmask := 0xFFFFFF00, mem := true, instr := some (.scatter r.ctl { bar := r.dst, a := r.a, b := r.b, idx := r.srcc false, nrows := r.w.extractLsb' 21 11, idx64 := r.w.getLsbD 20, rowb4 := r.w.extractLsb' 8 12 }) }
  | 0x0B => some
      { dst := v2, a := v2, b := v2, imm := true, wmask := 0x00E00000, mem := true, instr := r.rm.map fun q => .tcopy r.ctl { bar := r.dst, d := r.a, s := r.b, rm := q } }
  | 0x0C => some
      { a := v2, b := v1, cc := .used v1, wmask := 0x01000000, mem := true, instr := some (.binit r.ctl { a := r.a, p := r.b, b := r.srcc false, ring := r.ob 0 }) }
  | 0x0D => some
      { a := v2, b := v1, cc := .unused, mem := true, instr := some (.bexp r.ctl r.a r.b) }
  | 0x0E => some
      { a := v2, cc := .used v1, wmask := 0x01000000, mem := true, instr := some (.barr r.ctl { a := r.a, c := r.srcc false, w := r.ob 0 }) }
  | 0x0F => some
      { a := v2, b := v1, cc := .unused, wmask := 0x02000000, mem := true, instr := some (.bwait r.ctl { p := 0, a := r.a, b := r.b, checked := r.ob 1 }) }
  | 0x10 => some
      { dst := .p, a := v2, b := v1, cc := .unused, wmask := 0x02000000, mem := true, instr := some (.btest r.ctl { p := r.dst, a := r.a, b := r.b, checked := r.ob 1 }) }
  | 0x11 => some
      { a := v2, cc := .unused, mem := true, instr := some (.bdrop r.ctl r.a) }
  | 0x12 => some
      { dst := v1, a := v2, cc := .unused, wmask := 0x01000000, mem := true, instr := some (.ringnext r.ctl { d := r.dst, a := r.a, consumer := r.ob 0 }) }
  | 0x13 => some
      { a := v2, b := v1, imm := true, instr := some (.yacq r.ctl r.a r.b) }
  | 0x14 => some
      { a := v2, b := v1, imm := true, instr := some (.yrel r.ctl r.a r.b) }
  | 0x15 => some
      { a := v2, b := v1, imm := true, instr := some (.yhint r.ctl r.a r.b) }
  | 0x16 => some
      { a := v1, imm := true, instr := some (.lnkhint r.ctl r.a) }
  | 0x17 => some
      { dst := v2, a := v2, b := v2, cc := .used v1, five := true, mem := true, instr := some (.rget r.ctl { bar := r.dst, a := r.a, b := r.b, n := r.srcc false, k := r.srcd }) }
  | 0x18 => some
      { dst := v2, a := v2, b := v2, cc := .used v1, five := true, mem := true, instr := some (.rput r.ctl { bar := r.dst, a := r.a, b := r.b, n := r.srcc false, k := r.srcd }) }
  | 0x19 => some
      { dst := v2, a := v2, b := v2, cc := .used v1, wmask := 0xE000, mem := true, instr := (COp.dec (r.w.extractLsb' 13 3)).map fun k => .cred r.ctl { bar := r.dst, d := r.a, s := r.b, g := r.srcc false, op := k, root := r.w.extractLsb' 16 16 } }
  | 0x1A => some
      { dst := v2, a := v2, b := v2, cc := .used v1, wmask := 0, mem := true, instr := (COp.dec (r.w.extractLsb' 13 3)).map fun k => .cgath r.ctl { bar := r.dst, d := r.a, s := r.b, g := r.srcc false, op := k, root := r.w.extractLsb' 16 16 } }
  | 0x1B => some
      { dst := v2, a := v2, b := v2, cc := .used v1, wmask := 0xFFFF0000, mem := true, instr := (COp.dec (r.w.extractLsb' 13 3)).map fun k => .cbcst r.ctl { bar := r.dst, d := r.a, s := r.b, g := r.srcc false, op := k, root := r.w.extractLsb' 16 16 } }
  | _ => none

/-- Class 0x6: atomics and synchronisation (R191, R198, R201, R208, R211). -/
def row6 (r : Raw) (low : Nat) : Option Row :=
  match low with
  | 0x00 => some
      { dst := vw (r.w.getLsbD 27), a := v2, b := vw (r.w.getLsbD 27), imm := true, wmask := 0xFFE0FFFF, mem := true, instr := (decodeAtom r).bind fun x => if shapeOk (.atom r.ctl x) then some (.atom r.ctl x) else none }
  | 0x01 => some
      { dst := vw (r.w.getLsbD 27), a := v2, b := vw (r.w.getLsbD 27), cc := .used (vw (r.w.getLsbD 27)), wmask := 0x0BE00000, mem := true, instr := (Ord4.dec (r.w.extractLsb' 24 2)).bind fun q => (Scope.dec (r.w.extractLsb' 21 3)).bind fun s => if ordOk q s then some (.atomc r.ctl { d := r.dst, a := r.a, b := r.b, c := r.srcc false, w64 := r.w.getLsbD 27, ord := q, scope := s }) else none }
  | 0x02 => some
      { a := v2, b := vw (r.w.getLsbD 27), imm := true, wmask := 0xFFE0FFFF, mem := true, instr := (decodeAtom r).bind fun x => if shapeOk (.red r.ctl x) then some (.red r.ctl x) else none }
  | 0x03 => some
      { dst := .no, a := v2, imm := true, wmask := 0x00E0FFFF, mem := true, instr := (Scope.dec (r.w.extractLsb' 21 3)).map fun s => .qlock r.ctl { p := r.dst, a := r.a, scope := s, off := r.off16 } }
  | 0x04 => some
      { dst := .p, a := v2, imm := true, wmask := 0x00E0FFFF, mem := true, instr := (Scope.dec (r.w.extractLsb' 21 3)).map fun s => .qtry r.ctl { p := r.dst, a := r.a, scope := s, off := r.off16 } }
  | 0x05 => some
      { dst := .no, a := v2, imm := true, wmask := 0x00E0FFFF, mem := true, instr := (Scope.dec (r.w.extractLsb' 21 3)).map fun s => .qunlk r.ctl { p := r.dst, a := r.a, scope := s, off := r.off16 } }
  | 0x06 => some
      { dst := v1, imm := true, wmask := 3, instr := some (.tkget r.ctl r.dst (r.w.extractLsb' 0 2)) }
  | 0x07 => some
      { imm := true, wmask := 3, instr := some (.tkwait r.ctl (r.w.extractLsb' 0 2)) }
  | 0x08 => some
      { imm := true, wmask := 3, instr := some (.tkadv r.ctl (r.w.extractLsb' 0 2)) }
  | 0x09 => some
      { a := v2, b := v1, imm := true, instr := some (.own r.ctl r.a r.b) }
  | 0x0A => some
      { imm := true, instr := some (.sstep r.ctl) }
  | 0x0B => some
      { imm := true, wmask := 3, instr := some (.cbar r.ctl (r.w.extractLsb' 0 2)) }
  | _ => none

/-- Class 0x7: system (R213). -/
def row7 (r : Raw) (low : Nat) : Option Row :=
  match low with
  | 0x00 => some
      { dst := vw (r.w.getLsbD 31), imm := true, wmask := 0x8000FFFF, instr := some (.sysrd r.ctl { r := r.dst, num := r.off16, w64 := r.w.getLsbD 31 }) }
  | 0x01 => some
      { a := vw (r.w.getLsbD 31), imm := true, wmask := 0x8000FFFF, instr := some (.syswr r.ctl { r := r.a, num := r.off16, w64 := r.w.getLsbD 31 }) }
  | 0x02 => some
      { dst := v1, a := v1, b := v2, imm := true, wmask := 3, priv := true, instr := (TMode.dec (r.w.extractLsb' 0 2)).map fun q => .tret r.ctl { d := r.dst, a := r.a, b := r.b, mode := q } }
  | 0x03 => some
      { dst := v1, imm := true, wmask := 0xFF, instr := if idrdOk (r.w.extractLsb' 0 8).toNat then some (.idrd r.ctl r.dst (r.w.extractLsb' 0 8)) else none }
  | 0x04 => some
      { dst := v2, imm := true, wmask := 3, instr := some (.clkrd r.ctl r.dst (r.w.extractLsb' 0 2)) }
  | 0x05 => some
      { dst := v1, a := v2, b := v2, cc := .used v2, priv := true, instr := some (.heapset r.ctl { x := r.dst, a := r.a, b := r.b, c := r.srcc false }) }
  | 0x06 => some
      { a := v2, b := v1, imm := true, wmask := 3, priv := true, instr := some (.tlbinv r.ctl { a := r.a, b := r.b, mode := r.w.extractLsb' 0 2 }) }
  | 0x07 => some
      { imm := true, wmask := 3, instr := some (.l1inv r.ctl (r.w.extractLsb' 0 2)) }
  | 0x08 => some
      { dst := v1, imm := true, instr := some (.stepadv r.ctl r.dst) }
  | 0x09 => some
      { dst := v2, a := v2, imm := true, wmask := 1, mem := true, priv := true, instr := some (.ckpt r.ctl r.dst r.a (r.w.getLsbD 0)) }
  | 0x0A => some
      { dst := v1, imm := true, priv := true, instr := some (.strig r.ctl r.dst) }
  | 0x0B => some
      { imm := true, instr := some (.dbghalt r.ctl) }
  | 0x0C => some
      { imm := true, wmask := 1, priv := true, instr := some (.halt r.ctl (r.w.getLsbD 0)) }
  | 0x0D => some
      { dst := v2, imm := true, wmask := 0x0FFF, instr := some (.wear r.ctl r.dst (r.w.extractLsb' 0 16)) }
  | 0x0E => some
      { dst := v1, a := v1, imm := true, wmask := 1, instr := some (.pwrreq r.ctl r.dst r.a (r.w.getLsbD 0)) }
  | _ => none

/-- The opcode map of R36. -/
def row (r : Raw) : Option Row :=
  let low := r.opc.toNat % 64
  match r.opc.toNat / 64 with
  | 0 => row0 r low
  | 1 => row1 r low
  | 2 => row2 r low
  | 3 => row3 r low
  | 4 => row4 r low
  | 5 => row5 r low
  | 6 => row6 r low
  | 7 => row7 r low
  | _ => none

/-- Classes a control-profile core lacks (R35). -/
def controlLacks (cls : Nat) : Bool := cls == 2 || cls == 3 || cls == 4

/-- R34: the role forbids the opcode. -/
def roleForbids (role cls : Nat) (opc : BitVec 10) : Bool :=
  let engine : Bool := opc == 0x148 || opc == 0x149 || opc == 0x14A || opc == 0x14B
  match role with
  | 1 => cls == 2 || cls == 3 || cls == 4
  | 2 => cls == 2 || cls == 3 || engine
  | 3 => cls == 4 || engine
  | _ => false

/-- A guard field that is neither p0 to p95 nor pt (R21, R30). -/
def guardBad (g : BitVec 7) : Bool := 96 ≤ g.toNat && g != 127

/-- A guard naming a predicate past NPRED (R30). -/
def guardOut (l : Limits) (g : BitVec 7) : Bool := l.npred ≤ g.toNat && g != 127

/-- ILLEGAL_ENCODING (R21, R23, R24, R30, R76): reserved field values and fields that must be zero. -/
def encodingBad (r : Raw) (w : Row) : Bool :=
  !setfOk r.setf || guardBad r.g0 || guardBad r.g1 || r.pad != 0 ||
  (r.gcomb == 0 && (r.g1 != 0 || r.n1 != 0)) ||
  (r.chint != 0 && !w.mem) || (w.immB && r.b != 0) ||
  (r.ops == 1 && !w.five) || (r.ops == 0 && r.x4 != 0) ||
  (w.dst == .no && r.dst != 0) || (w.a == .no && r.a != 0) || (w.b == .no && r.b != 0) ||
  (match w.cc with
   | .used _ => false
   | .unused => (r.len == .l96 && !w.imm && r.w.extractLsb' 0 8 != 0) || r.c != 0
   | .absent => r.c != 0)

/-- ILLEGAL_OPERAND (R30, R32). -/
def operandBad (l : Limits) (r : Raw) (w : Row) : Bool :=
  guardOut l r.g0 || (r.gcomb != 0 && guardOut l r.g1) ||
  !(w.dst.legal l r.dst) || !(w.a.legal l r.a) || !(w.b.legal l r.b) ||
  (match w.cc, r.srcc w.imm with
   | .used c, some x => !(c.legal l x)
   | _, _ => false) ||
  (match r.srcd with
   | some x => !(v1.legal l x)
   | none => false)

/-- ILLEGAL_MODIFIER (R25, R31, R76, R112): unassigned bits, reserved values. -/
def modifierBad (r : Raw) (w : Row) : Bool :=
  let low : Word := if w.cc != .absent && !w.imm && r.len == .l96 then 0xFF else 0
  (r.w &&& ~~~(w.wmask ||| low)) != 0 || 4 < r.chint.toNat || w.instr.isNone

/-- Causes 4 to 9 of R33, in their order. -/
def decodeRaw (k : DecodeCtx) (r : Raw) : Except DecodeErr Instr :=
  match row r with
  | none => .error .illegalOpcode
  | some w =>
    let cls := r.opc.toNat / 64
    if (r.len == .l64 && !w.short) || (k.control && controlLacks cls) then .error .illegalOpcode
    else if encodingBad r w then .error .illegalEncoding
    else if operandBad k.limits r w then .error .illegalOperand
    else if modifierBad r w then .error .illegalModifier
    else if roleForbids k.role cls r.opc then .error .roleViolation
    else if w.priv && !k.priv then .error .privilege
    else match w.instr with
      | some i => .ok i
      | none => .error .illegalModifier

/-- A parcel from four bytes, lowest address first (R5). -/
def parcel (a b c d : Byte) : Word := (d ++ c ++ b ++ a : BitVec 32)

/-- The instruction at the head of these bytes, with the bytes after it. `pc` is the address of the first byte: causes 1
to 3 of R33 depend on it (R17). -/
def decode (k : DecodeCtx) (pc : DWord) (bs : List Byte) : Except DecodeErr (Instr × List Byte) :=
  if pc.extractLsb' 0 2 != 0 then .error .fetchAlign
  else
    match bs with
    | a0 :: a1 :: a2 :: a3 :: t =>
      let p0 := parcel a0 a1 a2 a3
      match Len.dec (p0.extractLsb' 0 2) with
      | none => .error .illegalLength
      | some len =>
        if 32 < pc.toNat % 32 + len.bytes then .error .fetchCross
        else
          match len, t with
          | .l64, b0 :: b1 :: b2 :: b3 :: u =>
            (decodeRaw k (Raw.ofParcels .l64 p0 (parcel b0 b1 b2 b3) 0 0)).map fun i => (i, u)
          | .l96, b0 :: b1 :: b2 :: b3 :: c0 :: c1 :: c2 :: c3 :: u =>
            (decodeRaw k (Raw.ofParcels .l96 p0 (parcel b0 b1 b2 b3) (parcel c0 c1 c2 c3) 0)).map fun i => (i, u)
          | .l128, b0 :: b1 :: b2 :: b3 :: c0 :: c1 :: c2 :: c3 :: d0 :: d1 :: d2 :: d3 :: u =>
            (decodeRaw k (Raw.ofParcels .l128 p0 (parcel b0 b1 b2 b3) (parcel c0 c1 c2 c3) (parcel d0 d1 d2 d3))).map
              fun i => (i, u)
          | _, _ => .error .cut
    | _ => .error .cut

/-- Bytes of a number, least significant first. -/
def leBytes : Nat → Nat → List Byte
  | 0, _ => []
  | n + 1, v => BitVec.ofNat 8 v :: leBytes n (v / 256)

/-- A context that admits every register and every role, for the opcode-table probe. -/
def DecodeCtx.open : DecodeCtx := { nvreg := 256, npred := 96, role := 0, control := false, priv := true }

/-- The instruction whose bits are w, bit 0 the least significant bit of the first parcel; bits from nbits up are 0. -/
def decodeTableWord (nbits w : Nat) : Option Instr :=
  match decode DecodeCtx.open 0 (leBytes 16 (w % 2 ^ nbits)) with
  | .ok (i, _) => some i
  | .error _ => none

/-! The encoder. -/

/-- W as R75 and R112 lay it out. -/
def wStd (opm : BitVec 8) (rm : BitVec 3) (imm : Bool) (i20 : BitVec 20) : Word := (opm ++ rm ++ bit1 imm ++ i20 : BitVec 32)

/-- SRCC's byte of W: in the 96-bit form only (R22). -/
def lowC (len : Len) (c : Option Reg) : Reg := if len == .l96 then c.getD 0 else 0

/-- IMM20 or SRCC of R75. -/
def Src.i20 (s : Src) (len : Len) (c : Option Reg) : BitVec 20 :=
  match s with
  | .imm v => v
  | .reg _ => ((0 : BitVec 12) ++ lowC len c : BitVec 20)

/-- IMM20 or SRCC of R112. -/
def Scal.i20 (s : Scal) (len : Len) : BitVec 20 :=
  match s with
  | .imm v => v
  | .reg c => ((0 : BitVec 12) ++ lowC len c : BitVec 20)

/-- The low byte alone. -/
def onlyC (len : Len) (c : Option Reg) : BitVec 20 := ((0 : BitVec 12) ++ lowC len c : BitVec 20)

/-- An OPM byte from its three low bits. -/
def opm3 (b0 b1 b2 : Bool) : BitVec 8 := ((0 : BitVec 5) ++ bit1 b2 ++ bit1 b1 ++ bit1 b0 : BitVec 8)

/-- The fields of an instruction with these operands and word. -/
def Ctl.raw (c : Ctl) (opc : BitVec 10) (d a b : Reg) (w : Word) (cc : Option Reg := none) (x : Option Reg := none) : Raw :=
  { len := c.len, opc := opc, stall := c.stall, wait := c.wait, setf := c.setf
    g0 := c.g0.idx, n0 := bit1 c.g0.neg, dst := d, a := a, b := b
    c := if c.len == .l128 then cc.getD 0 else 0
    x4 := x.getD 0, g1 := c.g1.idx, n1 := bit1 c.g1.neg, gcomb := c.gcomb.enc, chint := c.chint
    ops := bit1 x.isSome, pad := 0, w := w }

/-- The fields of each encoded instruction, from the operand tables; none for an event. -/
def Instr.raw : Instr → Option Raw
  | .nop c => some (c.raw 0x001 0 0 0 0)
  | .bra c off => some (c.raw 0x002 0 0 0 off)
  | .brx c a => some (c.raw 0x003 0 a 0 0)
  | .call c d off => some (c.raw 0x004 d 0 0 off)
  | .ret c a => some (c.raw 0x005 0 a 0 0)
  | .exit c => some (c.raw 0x006 0 0 0 0)
  | .yield c => some (c.raw 0x007 0 0 0 0)
  | .fuse c h => some (c.raw 0x008 0 0 0 ((0 : BitVec 24) ++ h : BitVec 32))
  | .waitf c m => some (c.raw 0x009 0 0 0 ((0 : BitVec 31) ++ bit1 m : BitVec 32))
  | .sleep c n => some (c.raw 0x00A 0 0 0 ((0 : BitVec 8) ++ n : BitVec 32))
  | .trap c n => some (c.raw 0x00B 0 0 0 ((0 : BitVec 24) ++ n : BitVec 32))
  | .brk c t => some (c.raw 0x00C 0 0 0 t)
  | .pand c x => some (c.raw 0x00D x.d x.a x.b (wStd (opm3 x.na x.nb false) 0 false 0))
  | .por c x => some (c.raw 0x00E x.d x.a x.b (wStd (opm3 x.na x.nb false) 0 false 0))
  | .pxor c x => some (c.raw 0x00F x.d x.a x.b (wStd (opm3 x.na x.nb false) 0 false 0))
  | .pnot c d a => some (c.raw 0x010 d a 0 0)
  | .pmov c d a na => some (c.raw 0x011 d a 0 (wStd (opm3 na false false) 0 false 0))
  | .fetchw c d p => some (c.raw 0x012 d p 0 0)
  | .emit c a q => some (c.raw 0x013 0 a 0 ((0 : BitVec 30) ++ q : BitVec 32))
  | .gate c g => some (c.raw 0x014 0 0 0 ((0 : BitVec 28) ++ g : BitVec 32))
  | .release c g => some (c.raw 0x015 0 0 0 ((0 : BitVec 28) ++ g : BitVec 32))
  | .migr c a h => some (c.raw 0x016 0 a 0 ((0 : BitVec 31) ++ bit1 h : BitVec 32))
  | .iadd c x => some (c.raw 0x040 x.d x.a x.b.field (wStd (opm3 x.w64 x.u x.sat) 0 x.b.isImm (x.b.i20 c.len none)))
  | .isub c x => some (c.raw 0x041 x.d x.a x.b.field (wStd (opm3 x.w64 x.u x.sat) 0 x.b.isImm (x.b.i20 c.len none)))
  | .imul c x => some (c.raw 0x042 x.d x.a x.b.field (wStd (opm3 x.w64 x.u x.sat) 0 x.b.isImm (x.b.i20 c.len none)))
  | .imulh c x => some (c.raw 0x043 x.d x.a x.b.field (wStd (opm3 x.w64 x.u x.sat) 0 x.b.isImm (x.b.i20 c.len none)))
  | .idiv c x => some (c.raw 0x045 x.d x.a x.b.field (wStd (opm3 x.w64 x.u x.sat) 0 x.b.isImm (x.b.i20 c.len none)))
  | .irem c x => some (c.raw 0x046 x.d x.a x.b.field (wStd (opm3 x.w64 x.u x.sat) 0 x.b.isImm (x.b.i20 c.len none)))
  | .imin c x => some (c.raw 0x047 x.d x.a x.b.field (wStd (opm3 x.w64 x.u x.sat) 0 x.b.isImm (x.b.i20 c.len none)))
  | .imax c x => some (c.raw 0x048 x.d x.a x.b.field (wStd (opm3 x.w64 x.u x.sat) 0 x.b.isImm (x.b.i20 c.len none)))
  | .land c x => some (c.raw 0x04B x.d x.a x.b.field (wStd (opm3 x.w64 x.u x.sat) 0 x.b.isImm (x.b.i20 c.len none)))
  | .lor c x => some (c.raw 0x04C x.d x.a x.b.field (wStd (opm3 x.w64 x.u x.sat) 0 x.b.isImm (x.b.i20 c.len none)))
  | .lxor c x => some (c.raw 0x04D x.d x.a x.b.field (wStd (opm3 x.w64 x.u x.sat) 0 x.b.isImm (x.b.i20 c.len none)))
  | .shl c x => some (c.raw 0x04F x.d x.a x.b.field (wStd (opm3 x.w64 x.u x.sat) 0 x.b.isImm (x.b.i20 c.len none)))
  | .shr c x => some (c.raw 0x050 x.d x.a x.b.field (wStd (opm3 x.w64 x.u x.sat) 0 x.b.isImm (x.b.i20 c.len none)))
  | .sar c x => some (c.raw 0x051 x.d x.a x.b.field (wStd (opm3 x.w64 x.u x.sat) 0 x.b.isImm (x.b.i20 c.len none)))
  | .rot c x => some (c.raw 0x052 x.d x.a x.b.field (wStd (opm3 x.w64 x.u x.sat) 0 x.b.isImm (x.b.i20 c.len none)))
  | .imad c x => some (c.raw 0x044 x.d x.a x.b.field (wStd (opm3 x.w64 false false) 0 x.b.isImm (x.b.i20 c.len x.c)) x.c)
  | .iabs c x => some (c.raw 0x049 x.d x.a 0 (wStd (opm3 x.w64 false x.sat) 0 false 0))
  | .ineg c x => some (c.raw 0x04A x.d x.a 0 (wStd (opm3 x.w64 false x.sat) 0 false 0))
  | .lnot c x => some (c.raw 0x04E x.d x.a 0 (wStd (opm3 x.w64 false x.sat) 0 false 0))
  | .popc c x => some (c.raw 0x055 x.d x.a 0 (wStd (opm3 x.w64 false x.sat) 0 false 0))
  | .clz c x => some (c.raw 0x056 x.d x.a 0 (wStd (opm3 x.w64 false x.sat) 0 false 0))
  | .brev c x => some (c.raw 0x057 x.d x.a 0 (wStd (opm3 x.w64 false x.sat) 0 false 0))
  | .bfe c x => some (c.raw 0x053 x.d x.a x.b ((0 : BitVec 6) ++ bit1 x.s ++ bit1 x.w64 ++ (0 : BitVec 11) ++ x.len ++ x.pos : BitVec 32))
  | .bfi c x => some (c.raw 0x054 x.d x.a x.b ((0 : BitVec 6) ++ bit1 x.s ++ bit1 x.w64 ++ (0 : BitVec 11) ++ x.len ++ x.pos : BitVec 32))
  | .isetp c x => some (c.raw 0x058 x.p x.a x.b.field (wStd ((0 : BitVec 3) ++ bit1 x.w64 ++ x.cond.enc : BitVec 8) 0 x.b.isImm (x.b.i20 c.len none)))
  | .sel c x => some (c.raw 0x059 x.d x.a x.b.field (wStd (opm3 x.w64 false false) 0 x.b.isImm (x.b.i20 c.len x.ps)) x.ps)
  | .mov c d a w => some (c.raw 0x05A d a 0 (wStd ((0 : BitVec 6) ++ w.enc : BitVec 8) 0 false 0))
  | .movi c d m i => some (c.raw 0x05B d 0 m.enc i)
  | .lea c x => some (c.raw 0x05C x.d x.a x.b ((0 : BitVec 7) ++ bit1 x.s ++ (0 : BitVec 18) ++ x.sh : BitVec 32))
  | .hmul c x => some (c.raw 0x05D x.d x.a x.b.field (wStd (opm3 x.w64 x.u x.sat) 0 x.b.isImm (x.b.i20 c.len none)))
  | .fadd c x => some (c.raw 0x080 x.d x.a x.b.field (wStd 0 x.rm.enc x.b.isImm (x.b.i20 c.len x.c)) x.c)
  | .fsub c x => some (c.raw 0x081 x.d x.a x.b.field (wStd 0 x.rm.enc x.b.isImm (x.b.i20 c.len x.c)) x.c)
  | .fmul c x => some (c.raw 0x082 x.d x.a x.b.field (wStd 0 x.rm.enc x.b.isImm (x.b.i20 c.len x.c)) x.c)
  | .fscale c x => some (c.raw 0x08B x.d x.a x.b.field (wStd 0 x.rm.enc x.b.isImm (x.b.i20 c.len x.c)) x.c)
  | .ffma c x => some (c.raw 0x083 x.d x.a x.b (wStd 0 x.rm.enc false (onlyC c.len x.c)) x.c x.x)
  | .fdot2 c x => some (c.raw 0x095 x.d x.a x.b (wStd 0 x.rm.enc false (onlyC c.len x.c)) x.c x.x)
  | .fdot4 c x => some (c.raw 0x096 x.d x.a x.b (wStd 0 x.rm.enc false (onlyC c.len x.c)) x.c x.x)
  | .fmin c x => some (c.raw 0x084 x.d x.a x.b.field (wStd 0 0 x.b.isImm (x.b.i20 c.len none)))
  | .fmax c x => some (c.raw 0x085 x.d x.a x.b.field (wStd 0 0 x.b.isImm (x.b.i20 c.len none)))
  | .fabs c x => some (c.raw 0x086 x.d x.a 0 0)
  | .fneg c x => some (c.raw 0x087 x.d x.a 0 0)
  | .fclass c x => some (c.raw 0x089 x.d x.a 0 0)
  | .compress c x => some (c.raw 0x09A x.d x.a 0 0)
  | .expand c x => some (c.raw 0x09B x.d x.a 0 0)
  | .tagget c x => some (c.raw 0x0A1 x.d x.a 0 0)
  | .sclget c x => some (c.raw 0x0A3 x.d x.a 0 0)
  | .fsetp c x => some (c.raw 0x088 x.p x.a x.b.field (wStd ((0 : BitVec 4) ++ bit1 x.e1 ++ x.cond.enc : BitVec 8) 0 x.b.isImm (x.b.i20 c.len none)))
  | .frnd c x => some (c.raw 0x08A x.d x.a 0 (wStd 0 x.rm.enc false (onlyC c.len x.c)) x.c)
  | .frcp c x => some (c.raw 0x08C x.d x.a 0 (wStd 0 x.rm.enc false (onlyC c.len x.c)) x.c)
  | .frsq c x => some (c.raw 0x08D x.d x.a 0 (wStd 0 x.rm.enc false (onlyC c.len x.c)) x.c)
  | .fsqrt c x => some (c.raw 0x08E x.d x.a 0 (wStd 0 x.rm.enc false (onlyC c.len x.c)) x.c)
  | .fexp2 c x => some (c.raw 0x08F x.d x.a 0 (wStd 0 x.rm.enc false (onlyC c.len x.c)) x.c)
  | .flog2 c x => some (c.raw 0x090 x.d x.a 0 (wStd 0 x.rm.enc false (onlyC c.len x.c)) x.c)
  | .fsin c x => some (c.raw 0x091 x.d x.a 0 (wStd 0 x.rm.enc false (onlyC c.len x.c)) x.c)
  | .fcos c x => some (c.raw 0x092 x.d x.a 0 (wStd 0 x.rm.enc false (onlyC c.len x.c)) x.c)
  | .ftanh c x => some (c.raw 0x093 x.d x.a 0 (wStd 0 x.rm.enc false (onlyC c.len x.c)) x.c)
  | .fsigm c x => some (c.raw 0x094 x.d x.a 0 (wStd 0 x.rm.enc false (onlyC c.len x.c)) x.c)
  | .fcvt c x => some (c.raw 0x097 x.d x.a x.b (x.df.enc ++ x.e ++ (0 : BitVec 1) ++ bit1 x.cb ++ x.rm.enc ++ (0 : BitVec 1) ++ (match x.sf with | some f => f.enc + 1 | none => 0) ++ (0 : BitVec 8) ++ lowC c.len x.c : BitVec 32) x.c)
  | .bfppack c x => some (c.raw 0x098 x.d x.a x.b (wStd (BitVec.ofNat 8 x.m.val) x.rm.enc false (onlyC c.len x.c)) x.c)
  | .bfpunpk c x => some (c.raw 0x099 x.d x.a 0 (wStd ((0 : BitVec 6) ++ x.df.enc : BitVec 8) x.rm.enc false (onlyC c.len x.c)) x.c)
  | .vred c x => some (c.raw 0x09C x.d x.a 0 (wStd ((0 : BitVec 1) ++ bit1 x.excl ++ bit1 x.exact ++ bit1 x.w64 ++ bit1 x.u ++ x.op.enc : BitVec 8) 0 false 0))
  | .vscan c x => some (c.raw 0x09D x.d x.a 0 (wStd ((0 : BitVec 1) ++ bit1 x.excl ++ bit1 x.exact ++ bit1 x.w64 ++ bit1 x.u ++ x.op.enc : BitVec 8) 0 false 0))
  | .vshfl c x => some (c.raw 0x09E x.d x.a x.b.field (wStd ((0 : BitVec 3) ++ bit1 x.w64 ++ (0 : BitVec 2) ++ x.mode.enc : BitVec 8) 0 x.b.isImm (x.b.i20 c.len none)))
  | .vbcast c x => some (c.raw 0x09F x.d x.a x.b.field (wStd ((0 : BitVec 3) ++ bit1 x.w64 ++ (0 : BitVec 2) ++ x.mode.enc : BitVec 8) 0 x.b.isImm (x.b.i20 c.len none)))
  | .tagset c x => some (c.raw 0x0A0 x.d x.a x.b.field (wStd (opm3 x.trap false false) 0 x.b.isImm (x.b.i20 c.len none)))
  | .tagchk c x => some (c.raw 0x0A2 x.d x.a x.b.field (wStd (opm3 x.trap false false) 0 x.b.isImm (x.b.i20 c.len none)))
  | .sclset c x => some (c.raw 0x0A4 x.d x.a x.b.field (wStd (opm3 x.trap false false) 0 x.b.isImm (x.b.i20 c.len none)))
  | .dnorm c x => some (c.raw 0x0C0 x.d x.a 0 (wStd ((0 : BitVec 6) ++ x.sf.enc : BitVec 8) 0 false 0))
  | .dunpk c x => some (c.raw 0x0C1 x.d x.a 0 (wStd ((0 : BitVec 5) ++ bit1 x.n ++ x.df.enc : BitVec 8) x.rm.enc false (onlyC c.len x.c)) x.c)
  | .ddot c x => some (c.raw 0x0C2 x.d x.a x.b 0)
  | .dadd c x => some (c.raw 0x0C5 x.d x.a x.b 0)
  | .dsub c x => some (c.raw 0x0C6 x.d x.a x.b 0)
  | .drej c x => some (c.raw 0x0C8 x.d x.a x.b 0)
  | .ddotr c x => some (c.raw 0x0C3 x.d x.a x.b (wStd 0 x.rm.enc false (onlyC c.len x.c)) x.c)
  | .dscl c x => some (c.raw 0x0C4 x.d x.a 0 (wStd 0 0 x.s.isImm (x.s.i20 c.len)) x.s.srcc)
  | .dlerp c x => some (c.raw 0x0C7 x.d x.a x.b (wStd 0 0 x.s.isImm (x.s.i20 c.len)) x.s.srcc)
  | .dmov c x => some (c.raw 0x0C9 x.d x.a 0 0)
  | .dtest c x => some (c.raw 0x0CB x.d x.a 0 0)
  | .dzero c d => some (c.raw 0x0CA d 0 0 0)
  | .nmov c x => some (c.raw 0x0CC x.d x.a 0 (wStd (opm3 x.w false false) 0 false 0))
  | .dld c x => some (c.raw 0x0CD x.r x.a 0 (wStd 0 0 false x.off))
  | .dst c x => some (c.raw 0x0CE 0 x.a x.r (wStd 0 0 false x.off))
  | .ksign c k => some (c.raw 0x100 k 0 0 0)
  | .kclr c k => some (c.raw 0x101 k 0 0 0)
  | .mma c x => some (c.raw 0x102 x.d x.a x.b (x.k ++ (BitVec.ofNat 3 x.mbf.val) ++ (0 : BitVec 17) ++ lowC c.len x.c : BitVec 32) x.c)
  | .mmas c x => some (c.raw 0x103 x.d x.a x.b (x.k ++ (BitVec.ofNat 3 x.mbf.val) ++ (0 : BitVec 1) ++ x.abm ++ lowC c.len x.c : BitVec 32) x.c x.e)
  | .mzero c m => some (c.raw 0x104 m 0 0 0)
  | .mdrain c x => some (c.raw 0x105 x.d x.a x.m (wStd (opm3 x.keep false false) x.rm.enc false (onlyC c.len x.c)) x.c)
  | .mchk c p => some (c.raw 0x106 p 0 0 0)
  | .mget c x => some (c.raw 0x107 x.d x.m 0 (wStd ((0 : BitVec 4) ++ bit1 x.tr ++ bit1 x.sync ++ x.cnt.enc : BitVec 8) 0 x.s.isImm (x.s.i20 c.len)) x.s.srcc)
  | .mput c x => some (c.raw 0x108 x.m x.a 0 (wStd ((0 : BitVec 4) ++ bit1 x.tr ++ (0 : BitVec 1) ++ x.cnt.enc : BitVec 8) 0 x.s.isImm (x.s.i20 c.len)) x.s.srcc)
  | .mstat c x => some (c.raw 0x109 x.d x.a 0 0)
  | .errinj c x => some (c.raw 0x10A 0 x.m 0 (x.mode.enc ++ x.row ++ x.col ++ x.bit ++ (0 : BitVec 11) : BitVec 32))
  | .ld c x => some (c.raw 0x140 x.d x.a 0 (x.sz.enc ++ bit1 x.fresh ++ bit1 x.acq ++ bit1 x.nt ++ (0 : BitVec 1) ++ x.scope.enc ++ x.ftag ++ x.off : BitVec 32))
  | .st c x => some (c.raw 0x141 0 x.a x.b (x.sz.enc ++ (0 : BitVec 1) ++ bit1 x.rel ++ bit1 x.nt ++ bit1 x.wc ++ x.scope.enc ++ (0 : BitVec 6) ++ x.off : BitVec 32))
  | .ldv c x => some (c.raw 0x142 x.r x.a x.b (x.nm1 ++ bit1 x.x1 ++ bit1 x.fresh ++ (0 : BitVec 17) ++ lowC c.len x.c : BitVec 32) x.c)
  | .stv c x => some (c.raw 0x143 x.r x.a x.b (x.nm1 ++ bit1 x.x1 ++ bit1 x.fresh ++ (0 : BitVec 17) ++ lowC c.len x.c : BitVec 32) x.c)
  | .pref c x => some (c.raw 0x144 0 x.a 0 ((0 : BitVec 2) ++ bit1 x.rc ++ (0 : BitVec 13) ++ x.off : BitVec 32))
  | .fence c k s => some (c.raw 0x145 0 0 0 (k.enc ++ (0 : BitVec 5) ++ s.enc ++ (0 : BitVec 22) : BitVec 32))
  | .pbar c sys => some (c.raw 0x146 0 0 0 ((0 : BitVec 7) ++ (if sys then (6 : BitVec 3) else 5) ++ (0 : BitVec 22) : BitVec 32))
  | .pflush c a off => some (c.raw 0x147 0 a 0 ((0 : BitVec 16) ++ off : BitVec 32))
  | .copy c x => some (c.raw 0x148 x.bar x.d x.s ((0 : BitVec 24) ++ lowC c.len x.n : BitVec 32) x.n)
  | .gather c x => some (c.raw 0x149 x.bar x.a x.b (x.nrows ++ bit1 x.idx64 ++ x.rowb4 ++ lowC c.len x.idx : BitVec 32) x.idx)
  | .scatter c x => some (c.raw 0x14A x.bar x.a x.b (x.nrows ++ bit1 x.idx64 ++ x.rowb4 ++ lowC c.len x.idx : BitVec 32) x.idx)
  | .tcopy c x => some (c.raw 0x14B x.bar x.d x.s (wStd 0 x.rm.enc false 0))
  | .binit c x => some (c.raw 0x14C 0 x.a x.p ((0 : BitVec 6) ++ (0 : BitVec 1) ++ bit1 x.ring ++ (0 : BitVec 16) ++ lowC c.len x.b : BitVec 32) x.b)
  | .bexp c a b => some (c.raw 0x14D 0 a b 0)
  | .barr c x => some (c.raw 0x14E 0 x.a 0 ((0 : BitVec 6) ++ (0 : BitVec 1) ++ bit1 x.w ++ (0 : BitVec 16) ++ lowC c.len x.c : BitVec 32) x.c)
  | .bwait c x => some (c.raw 0x14F x.p x.a x.b ((0 : BitVec 6) ++ bit1 x.checked ++ (0 : BitVec 1) ++ (0 : BitVec 16) ++ (0 : BitVec 8) : BitVec 32))
  | .btest c x => some (c.raw 0x150 x.p x.a x.b ((0 : BitVec 6) ++ bit1 x.checked ++ (0 : BitVec 1) ++ (0 : BitVec 16) ++ (0 : BitVec 8) : BitVec 32))
  | .bdrop c a => some (c.raw 0x151 0 a 0 0)
  | .ringnext c x => some (c.raw 0x152 x.d x.a 0 ((0 : BitVec 6) ++ (0 : BitVec 1) ++ bit1 x.consumer ++ (0 : BitVec 16) ++ (0 : BitVec 8) : BitVec 32))
  | .yacq c a b => some (c.raw 0x153 0 a b 0)
  | .yrel c a b => some (c.raw 0x154 0 a b 0)
  | .yhint c a b => some (c.raw 0x155 0 a b 0)
  | .lnkhint c a => some (c.raw 0x156 0 a 0 0)
  | .rget c x => some (c.raw 0x157 x.bar x.a x.b ((0 : BitVec 24) ++ lowC c.len x.n : BitVec 32) x.n x.k)
  | .rput c x => some (c.raw 0x158 x.bar x.a x.b ((0 : BitVec 24) ++ lowC c.len x.n : BitVec 32) x.n x.k)
  | .cred c x => some (c.raw 0x159 x.bar x.d x.s (x.root ++ x.op.enc ++ (0 : BitVec 5) ++ lowC c.len x.g : BitVec 32) x.g)
  | .cgath c x => some (c.raw 0x15A x.bar x.d x.s (x.root ++ x.op.enc ++ (0 : BitVec 5) ++ lowC c.len x.g : BitVec 32) x.g)
  | .cbcst c x => some (c.raw 0x15B x.bar x.d x.s (x.root ++ x.op.enc ++ (0 : BitVec 5) ++ lowC c.len x.g : BitVec 32) x.g)
  | .atom c x => some (c.raw 0x180 x.d x.a x.b (x.op.enc ++ bit1 x.w64 ++ bit1 x.u ++ x.ord.enc ++ x.scope.enc ++ (0 : BitVec 5) ++ x.off : BitVec 32))
  | .atomc c x => some (c.raw 0x181 x.d x.a x.b ((0 : BitVec 4) ++ bit1 x.w64 ++ (0 : BitVec 1) ++ x.ord.enc ++ x.scope.enc ++ (0 : BitVec 13) ++ lowC c.len x.c : BitVec 32) x.c)
  | .red c x => some (c.raw 0x182 x.d x.a x.b (x.op.enc ++ bit1 x.w64 ++ bit1 x.u ++ x.ord.enc ++ x.scope.enc ++ (0 : BitVec 5) ++ x.off : BitVec 32))
  | .qlock c x => some (c.raw 0x183 x.p x.a 0 ((0 : BitVec 8) ++ x.scope.enc ++ (0 : BitVec 5) ++ x.off : BitVec 32))
  | .qtry c x => some (c.raw 0x184 x.p x.a 0 ((0 : BitVec 8) ++ x.scope.enc ++ (0 : BitVec 5) ++ x.off : BitVec 32))
  | .qunlk c x => some (c.raw 0x185 x.p x.a 0 ((0 : BitVec 8) ++ x.scope.enc ++ (0 : BitVec 5) ++ x.off : BitVec 32))
  | .tkget c d s => some (c.raw 0x186 d 0 0 ((0 : BitVec 30) ++ s : BitVec 32))
  | .tkwait c s => some (c.raw 0x187 0 0 0 ((0 : BitVec 30) ++ s : BitVec 32))
  | .tkadv c s => some (c.raw 0x188 0 0 0 ((0 : BitVec 30) ++ s : BitVec 32))
  | .own c a n => some (c.raw 0x189 0 a n 0)
  | .sstep c => some (c.raw 0x18A 0 0 0 0)
  | .cbar c s => some (c.raw 0x18B 0 0 0 ((0 : BitVec 30) ++ s : BitVec 32))
  | .sysrd c x => some (c.raw 0x1C0 x.r 0 0 (bit1 x.w64 ++ (0 : BitVec 15) ++ x.num : BitVec 32))
  | .syswr c x => some (c.raw 0x1C1 0 x.r 0 (bit1 x.w64 ++ (0 : BitVec 15) ++ x.num : BitVec 32))
  | .tret c x => some (c.raw 0x1C2 x.d x.a x.b ((0 : BitVec 30) ++ x.mode.enc : BitVec 32))
  | .idrd c d s => some (c.raw 0x1C3 d 0 0 ((0 : BitVec 24) ++ s : BitVec 32))
  | .clkrd c d s => some (c.raw 0x1C4 d 0 0 ((0 : BitVec 30) ++ s : BitVec 32))
  | .heapset c x => some (c.raw 0x1C5 x.x x.a x.b ((0 : BitVec 24) ++ lowC c.len x.c : BitVec 32) x.c)
  | .tlbinv c x => some (c.raw 0x1C6 0 x.a x.b ((0 : BitVec 30) ++ x.mode : BitVec 32))
  | .l1inv c s => some (c.raw 0x1C7 0 0 0 ((0 : BitVec 30) ++ s : BitVec 32))
  | .stepadv c d => some (c.raw 0x1C8 d 0 0 0)
  | .ckpt c b a m => some (c.raw 0x1C9 b a 0 ((0 : BitVec 31) ++ bit1 m : BitVec 32))
  | .strig c d => some (c.raw 0x1CA d 0 0 0)
  | .dbghalt c => some (c.raw 0x1CB 0 0 0 0)
  | .halt c m => some (c.raw 0x1CC 0 0 0 ((0 : BitVec 31) ++ bit1 m : BitVec 32))
  | .wear c d s => some (c.raw 0x1CD d 0 0 ((0 : BitVec 16) ++ s : BitVec 32))
  | .pwrreq c d a m => some (c.raw 0x1CE d a 0 ((0 : BitVec 31) ++ bit1 m : BitVec 32))
  | .resultWriteback .. => none
  | .directionalWrite .. => none
  | .loadReturn .. => none
  | .storeComplete .. => none
  | .atomicApply .. => none
  | .wcLineFlush .. => none
  | .waveCollectiveIssue .. => none
  | .convergenceComplete .. => none
  | .matrixCommandStart .. => none
  | .matrixRecompute .. => none
  | .matrixAccumulate .. => none
  | .engineChunkWrite .. => none
  | .barrierPortOperation .. => none
  | .collectiveJoin .. => none
  | .heldThreadWake .. => none
  | .sleepExpire .. => none
  | .fuseHoldExpire .. => none
  | .workIdDispense .. => none
  | .producerEnd .. => none
  | .stepAdvance .. => none
  | .ckptSelfAdvance => none
  | .ckptTimerExpire => none
  | .superstepCommit .. => none
  | .clusterBarrierComplete .. => none
  | .migrationLand .. => none
  | .workgroupPlace .. => none
  | .workgroupEnd .. => none
  | .workgroupKill .. => none
  | .preempt .. => none
  | .workgroupRestore .. => none
  | .trapRecordPost .. => none
  | .trapDispose => none
  | .eventPost => none
  | .faultRecordPost => none
  | .yealmStreamStart => none
  | .yealmArrive .. => none
  | .shardRebuild .. => none
  | .sweepLine => none
  | .forcedSave .. => none
  | .snapshotComplete _ => none
  | .ckptComplete .. => none
  | .persistDrain => none
  | .powerFail => none
  | .coldReset .. => none
  | .trainingRetrain .. => none
  | .overtempCutoff => none
  | .packageLost .. => none
  | .ridgeMismatch => none
  | .scrubPass .. => none
  | .channelRetire .. => none
  | .coreReset .. => none
  | .arbitrationInterval => none
  | .wearSave => none
  | .ilvEdit .. => none
  | .ilvCommit => none
  | .coreCgo => none
  | .htimerWrite .. => none
  | .htimerEvent .. => none
  | .haltreq => none
  | .resume => none
  | .rsizeWrite .. => none
  | .lnkctlReq .. => none
  | .launch .. => none
  | .copyPacket .. => none
  | .fencePacket .. => none
  | .signal .. => none
  | .waitval .. => none
  | .waitvalPoll .. => none
  | .snapcfg .. => none
  | .ckptPacket .. => none
  | .thatchCreate .. => none
  | .thatchLoad .. => none
  | .thatchEvict .. => none
  | .faultreplay .. => none
  | .errqueryEvents .. => none
  | .errqueryTret .. => none
  | .queueRestart .. => none
  | .qpcfg .. => none
  | .qcreate .. => none
  | .qdestroy .. => none
  | .apcfg .. => none
  | .evcfg .. => none
  | .jobcfg .. => none
  | .pkglost .. => none
  | .dbgrw .. => none
  | .fwrecov .. => none
  | .getVersion .. => none
  | .getCapabilities .. => none
  | .negotiateAlgorithms .. => none
  | .getDigests .. => none
  | .getCertificate .. => none
  | .challenge .. => none
  | .getMeasurements .. => none
  | .rdmaWrite .. => none
  | .rdmaRead .. => none
  | .flitReceive .. => none
  | .flitForward .. => none
  | .pause .. => none
  | .resumeFlit .. => none
  | .widthFlit .. => none
  | .replayFlit .. => none
  | .wavelengthWakeDone .. => none
  | .berCheck .. => none
  | .wavelengthRetrainDone .. => none
  | .ridgePairRestart => none
  | .coreResetEnd .. => none
  | .temperatureThreshold .. => none
  | .l1LineReplacement .. => none
  | .ridgeCacheEviction .. => none
  | .qfrz .. => none
  | .ckptEnWrite => none

/-- The parcels of R21 to R23, as many as the length has. -/
def Raw.parcels (r : Raw) : List Word :=
  let p0 : Word := (r.setf ++ r.wait ++ r.stall ++ r.opc ++ r.len.enc : BitVec 32)
  let p1 : Word := (r.b ++ r.a ++ r.dst ++ r.n0 ++ r.g0 : BitVec 32)
  let p2 : Word := (r.pad ++ r.ops ++ r.chint ++ r.gcomb ++ r.n1 ++ r.g1 ++ r.x4 ++ r.c : BitVec 32)
  match r.len with
  | .l64 => [p0, p1]
  | .l96 => [p0, p1, r.w]
  | .l128 => [p0, p1, p2, r.w]

/-- The bytes of a parcel, lowest address first (R5). -/
def parcelBytes (p : Word) : List Byte :=
  [p.extractLsb' 0 8, p.extractLsb' 8 8, p.extractLsb' 16 8, p.extractLsb' 24 8]

/-- The bytes of an encoded instruction; none for an event. -/
def encode (i : Instr) : Option (List Byte) :=
  i.raw.map fun r => r.parcels.flatMap parcelBytes

end Sys2Proof
end

