-- ==== Sys2Proof/Machine/Numerics.lean ====
section
/-! DEFINITION. Number formats and rounding (R56 to R73): exact values, RoundToFormat with every mode and the ordered
dither, narrowing, block floating point, the long accumulator. Values are exact: a sign, a numerator and a denominator. -/

namespace Sys2Proof.Machine

/-- Sticky conditions (R51), as bits of THR.STICKY and TRAPEN. -/
def stINV : Word := 0x1
/-- See `stINV`. -/
def stDZE : Word := 0x2
/-- See `stINV`. -/
def stOVF : Word := 0x4
/-- See `stINV`. -/
def stUNF : Word := 0x8
/-- See `stINV`. -/
def stINX : Word := 0x10
/-- See `stINV`. -/
def stDIVZ : Word := 0x20
/-- See `stINV`. -/
def stDIVOV : Word := 0x40
/-- See `stINV`. -/
def stCLAMP : Word := 0x80
/-- See `stINV`. -/
def stNRANGE : Word := 0x100
/-- See `stINV`. -/
def stZDIR : Word := 0x200

/-- An exact value (R73, Decode): NaN, an infinity, or plus or minus n / d with d not 0; zero keeps its sign. -/
inductive XVal where
  | nan (signalling : Bool)
  | inf (neg : Bool)
  | num (neg : Bool) (n d : Nat)
  deriving DecidableEq, Repr

/-- An IEEE-style format (R56): exponent and fraction bits, bias, and E4M3's rule of no infinity. -/
structure FFmt where
  ebits : Nat
  fbits : Nat
  bias : Nat
  narrow : Bool
  e4m3 : Bool
  deriving DecidableEq, Repr

/-- binary32 (R56). -/
def fmtF32 : FFmt := { ebits := 8, fbits := 23, bias := 127, narrow := false, e4m3 := false }
/-- binary16 (R56). -/
def fmtF16 : FFmt := { ebits := 5, fbits := 10, bias := 15, narrow := false, e4m3 := false }
/-- bfloat16 (R56). -/
def fmtBF16 : FFmt := { ebits := 8, fbits := 7, bias := 127, narrow := false, e4m3 := false }
/-- E5M2 (R56). -/
def fmtE5M2 : FFmt := { ebits := 5, fbits := 2, bias := 15, narrow := true, e4m3 := false }
/-- E4M3 (R56). -/
def fmtE4M3 : FFmt := { ebits := 4, fbits := 3, bias := 7, narrow := true, e4m3 := true }

/-- Bits of a pattern. -/
def FFmt.width (f : FFmt) : Nat := 1 + f.ebits + f.fbits
/-- The exponent field of the top binade. -/
def FFmt.eTop (f : FFmt) : Nat := if f.e4m3 then 2 ^ f.ebits - 1 else 2 ^ f.ebits - 2
/-- The pattern of the largest finite value. -/
def FFmt.maxPat (f : FFmt) : Nat := if f.e4m3 then 0x7E else (2 ^ f.ebits - 1) * 2 ^ f.fbits - 1
/-- The canonical NaN (R57). -/
def FFmt.nanPat (f : FFmt) : Nat :=
  if f.e4m3 then 0x7F else (2 ^ f.ebits - 1) * 2 ^ f.fbits + 2 ^ (f.fbits - 1)
/-- The pattern of +infinity. -/
def FFmt.infPat (f : FFmt) : Nat := (2 ^ f.ebits - 1) * 2 ^ f.fbits
/-- The pattern with this sign. -/
def FFmt.signed (f : FFmt) (neg : Bool) (p : Nat) : Nat := if neg then p + 2 ^ (f.ebits + f.fbits) else p

/-- m times 2^q, with its sign. -/
def scaled (neg : Bool) (m : Nat) (q : Int) : XVal :=
  if 0 ≤ q then .num neg (m * 2 ^ q.toNat) 1 else .num neg m (2 ^ (-q).toNat)

/-- Decode of an IEEE-style pattern (R56, R73). The 8-bit formats have only quiet NaNs. -/
def FFmt.decode (f : FFmt) (p : Nat) : XVal :=
  let neg : Bool := p / 2 ^ (f.ebits + f.fbits) % 2 == 1
  let e := p / 2 ^ f.fbits % 2 ^ f.ebits
  let m := p % 2 ^ f.fbits
  if f.e4m3 && e == 15 && m == 7 then .nan false
  else if !f.e4m3 && e == 2 ^ f.ebits - 1 then
    if m == 0 then .inf neg else .nan (!f.narrow && m / 2 ^ (f.fbits - 1) == 0)
  else if e == 0 then scaled neg m (1 - (f.bias : Int) - f.fbits)
  else scaled neg (2 ^ f.fbits + m) ((e : Int) - f.bias - f.fbits)

/-- DitherThreshold (R66). -/
def ditherTable : List (List Nat) :=
  [[0, 128, 32, 160, 8, 136, 40, 168, 2, 130, 34, 162, 10, 138, 42, 170],
   [192, 64, 224, 96, 200, 72, 232, 104, 194, 66, 226, 98, 202, 74, 234, 106],
   [48, 176, 16, 144, 56, 184, 24, 152, 50, 178, 18, 146, 58, 186, 26, 154],
   [240, 112, 208, 80, 248, 120, 216, 88, 242, 114, 210, 82, 250, 122, 218, 90],
   [12, 140, 44, 172, 4, 132, 36, 164, 14, 142, 46, 174, 6, 134, 38, 166],
   [204, 76, 236, 108, 196, 68, 228, 100, 206, 78, 238, 110, 198, 70, 230, 102],
   [60, 188, 28, 156, 52, 180, 20, 148, 62, 190, 30, 158, 54, 182, 22, 150],
   [252, 124, 220, 92, 244, 116, 212, 84, 254, 126, 222, 94, 246, 118, 214, 86],
   [3, 131, 35, 163, 11, 139, 43, 171, 1, 129, 33, 161, 9, 137, 41, 169],
   [195, 67, 227, 99, 203, 75, 235, 107, 193, 65, 225, 97, 201, 73, 233, 105],
   [51, 179, 19, 147, 59, 187, 27, 155, 49, 177, 17, 145, 57, 185, 25, 153],
   [243, 115, 211, 83, 251, 123, 219, 91, 241, 113, 209, 81, 249, 121, 217, 89],
   [15, 143, 47, 175, 7, 135, 39, 167, 13, 141, 45, 173, 5, 133, 37, 165],
   [207, 79, 239, 111, 199, 71, 231, 103, 205, 77, 237, 109, 197, 69, 229, 101],
   [63, 191, 31, 159, 55, 183, 23, 151, 61, 189, 29, 157, 53, 181, 21, 149],
   [255, 127, 223, 95, 247, 119, 215, 87, 253, 125, 221, 93, 245, 117, 213, 85]]

/-- DitherThreshold(row, col) (R66, R73). -/
def dither (row col : Nat) : Nat := (ditherTable.getD (row % 16) []).getD (col % 16) 0

/-- A positive real known through floors: `fl k` is the floor of y times 2^k and whether it is exact, none where an
enclosure does not decide it; 2^e ≤ y < 2^(e+1). -/
structure Mag where
  e : Int
  fl : Int → Option (Nat × Bool)

/-- The magnitude n / d, both positive. -/
def magOf (n d : Nat) : Mag :=
  let e0 : Int := (Nat.log2 n : Int) - Nat.log2 d
  let below : Bool := if 0 ≤ e0 then n < d * 2 ^ e0.toNat else n * 2 ^ (-e0).toNat < d
  { e := if below then e0 - 1 else e0
    fl := fun k =>
      let a := if 0 ≤ k then n * 2 ^ k.toNat else n
      let b := if 0 ≤ k then d else d * 2 ^ (-k).toNat
      some (a / b, a % b == 0) }

/-- Chooses between lo and lo + 1 units of 2^q for a magnitude (R64, R65): the units, and whether inexact. -/
def pickMag (y : Mag) (q : Int) (mode : Rm) (neg : Bool) (theta : Nat) : Option (Nat × Bool) :=
  (y.fl (-q)).bind fun (lo, exact) =>
    if exact then some (lo, false)
    else
      match mode with
      | .rtz => some (lo, true)
      | .rup => some (if neg then lo else lo + 1, true)
      | .rdn => some (if neg then lo + 1 else lo, true)
      | .rne => (y.fl (1 - q)).map fun (h, ex) =>
          (if h == 2 * lo then lo else if ex then (if lo % 2 == 0 then lo else lo + 1) else lo + 1, true)
      | .rd => (y.fl (8 - q)).map fun (h, _) => (if theta < h - 256 * lo then lo + 1 else lo, true)

/-- The pattern of m times 2^q, which lies on the format's grid and not above its largest finite value. -/
def FFmt.pack (f : FFmt) (m : Nat) (q : Int) : Nat :=
  if m < 2 ^ f.fbits then m
  else
    let up := decide (2 ^ (f.fbits + 1) ≤ m)
    let m1 := if up then m / 2 else m
    let q1 := if up then q + 1 else q
    (q1 + f.fbits + f.bias).toNat * 2 ^ f.fbits + (m1 - 2 ^ f.fbits)

/-- What RoundToFormat leaves of a finite non-zero magnitude: units and exponent on the continued grid (R68), conditions. -/
def FFmt.grid (f : FFmt) (y : Mag) (mode : Rm) (neg : Bool) (theta : Nat) : Option (Nat × Int × Word) :=
  let emin : Int := 1 - (f.bias : Int)
  let emax : Int := (f.eTop : Int) - f.bias
  let q : Int := max (min y.e emax) emin - f.fbits
  (pickMag y q mode neg theta).bind fun (m, inexact) =>
    if !inexact then some (m, q, 0)
    else if emin ≤ y.e then some (m, q, stINX)
    else
      (pickMag y (y.e - f.fbits) mode neg theta).map fun (m1, _) =>
        let tiny : Bool := !(y.e == emin - 1 && m1 == 2 ^ (f.fbits + 1))
        (m, q, if tiny then stINX ||| stUNF else stINX)

/-- Whether m times 2^q lies above the largest finite value. -/
def FFmt.above (f : FFmt) (m : Nat) (q : Int) : Bool :=
  match f.decode f.maxPat with
  | .num _ n d => if 0 ≤ q then n < m * 2 ^ q.toNat * d else n * 2 ^ (-q).toNat < m * d
  | _ => false

/-- The overflowed result (R68). -/
def FFmt.overflow (f : FFmt) (mode : Rm) (neg : Bool) : Nat :=
  let big : Bool := match mode with
    | .rtz => false
    | .rup => !neg
    | .rdn => neg
    | _ => true
  f.signed neg (if big then f.infPat else f.maxPat)

/-- RoundToFormat of a finite non-zero value to a format with infinities. -/
def FFmt.roundMag (f : FFmt) (y : Mag) (mode : Rm) (neg : Bool) (theta : Nat) : Option (Nat × Word) :=
  (f.grid y mode neg theta).map fun (m, q, st) =>
    if f.above m q then (f.overflow mode neg, stOVF ||| stINX) else (f.signed neg (f.pack m q), st)

/-- RoundToFormat to binary32, binary16 or bfloat16 (R68, R73): the pattern and the conditions. -/
def FFmt.round (f : FFmt) (x : XVal) (mode : Rm) (theta : Nat) : Nat × Word :=
  match x with
  | .nan s => (f.nanPat, if s then stINV else 0)
  | .inf neg => (f.signed neg f.infPat, 0)
  | .num neg n d =>
    if n == 0 then (f.signed neg 0, 0)
    else (f.roundMag (magOf n d) mode neg theta).getD (0, 0)

/-- a ≤ b for non-negative fractions. -/
def fracLe (an ad bn bd : Nat) : Bool := an * bd ≤ bn * ad

/-- The largest finite value of a format, as a fraction. -/
def FFmt.maxFrac (f : FFmt) : Nat × Nat :=
  match f.decode f.maxPat with
  | .num _ n d => (n, d)
  | _ => (0, 1)

/-- NarrowBound of an E4M3 or E5M2 conversion (R69): the pattern of the reduced bound. A zero bound is the maximum. -/
def FFmt.bound (f : FFmt) (b : Word) : Nat :=
  match fmtF32.decode b.toNat with
  | .num _ n d => if n == 0 then f.maxPat else
      match f.grid (magOf n d) .rtz false 0 with
      | some (m, q, _) => if f.above m q then f.maxPat else f.pack m q
      | none => f.maxPat
  | _ => f.maxPat

/-- Narrowing to E4M3 or E5M2 (R68, R69): rounded on the continued grid, then clamped to the reduced bound. -/
def FFmt.narrowTo (f : FFmt) (x : XVal) (mode : Rm) (theta : Nat) (bound : Word) : Nat × Word :=
  let bp := f.bound bound
  match x with
  | .nan s => (f.nanPat, if s then stINV else 0)
  | .inf neg => (f.signed neg bp, stCLAMP)
  | .num neg n d =>
    if n == 0 then (f.signed neg 0, 0)
    else
      match f.grid (magOf n d) mode neg theta with
      | none => (0, 0)
      | some (m, q, st) =>
        if f.above m q || bp < f.pack m q then (f.signed neg bp, st ||| stCLAMP)
        else (f.signed neg (f.pack m q), st)

/-- x rounded to an integer with the neighbours taken in value (R64, R65): the integer and whether inexact. -/
def roundInt (neg : Bool) (n d : Nat) (mode : Rm) (theta : Nat) : Int × Bool :=
  let num : Int := if neg then -(n : Int) else n
  let lo := num / (d : Int)
  let r := num % (d : Int)
  if r == 0 then (lo, false)
  else
    let hi := lo + 1
    let v := match mode with
      | .rtz => if neg then hi else lo
      | .rup => hi
      | .rdn => lo
      | .rne => if 2 * r < d then lo else if (d : Int) < 2 * r then hi else if lo % 2 == 0 then lo else hi
      | .rd => if (theta : Int) < 256 * r / d then hi else lo
    (v, true)

/-- RoundToFormat to an integer format with limits lo and hi (R68, R73). -/
def roundToInt (x : XVal) (lo hi : Int) (mode : Rm) (theta : Nat) : Int × Word :=
  match x with
  | .nan _ => (0, stINV)
  | .inf neg => (if neg then lo else hi, stINV)
  | .num neg n d =>
    let (v, inexact) := roundInt neg n d mode theta
    if v < lo then (lo, stINV) else if hi < v then (hi, stINV) else (v, if inexact then stINX else 0)

/-- An integer as an exact value. -/
def XVal.ofInt (i : Int) : XVal := .num (decide (i < 0)) i.natAbs 1

/-- A product of exact values (R94): 0 times infinity is an invalid NaN. The conditions are INV alone. -/
def XVal.mul (a b : XVal) : XVal × Word :=
  match a, b with
  | .nan s, .nan t => (.nan false, if s || t then stINV else 0)
  | .nan s, _ => (.nan false, if s then stINV else 0)
  | _, .nan t => (.nan false, if t then stINV else 0)
  | .inf x, .inf y => (.inf (x != y), 0)
  | .inf x, .num y n _ => if n == 0 then (.nan false, stINV) else (.inf (x != y), 0)
  | .num x n _, .inf y => if n == 0 then (.nan false, stINV) else (.inf (x != y), 0)
  | .num x n d, .num y m e => (.num (x != y) (n * m) (d * e), 0)

/-- A sum of exact values (R94): infinities of opposite signs are an invalid NaN; an exact zero of opposite signs is +0,
or -0 under RDN. -/
def XVal.add (a b : XVal) (rdn : Bool) : XVal × Word :=
  match a, b with
  | .nan s, .nan t => (.nan false, if s || t then stINV else 0)
  | .nan s, _ => (.nan false, if s then stINV else 0)
  | _, .nan t => (.nan false, if t then stINV else 0)
  | .inf x, .inf y => if x == y then (.inf x, 0) else (.nan false, stINV)
  | .inf x, .num .. => (.inf x, 0)
  | .num .., .inf y => (.inf y, 0)
  | .num x n d, .num y m e =>
    let p := n * e
    let q := m * d
    if x == y then (.num x (p + q) (d * e), 0)
    else if p == q then (.num rdn 0 1, 0)
    else if q < p then (.num x (p - q) (d * e), 0)
    else (.num y (q - p) (d * e), 0)

/-- The value with its sign inverted. -/
def XVal.neg : XVal → XVal
  | .nan s => .nan s
  | .inf x => .inf (!x)
  | .num x n d => .num (!x) n d

/-- x times 2^k. -/
def XVal.shift (x : XVal) (k : Int) : XVal :=
  match x with
  | .num neg n d => if 0 ≤ k then .num neg (n * 2 ^ k.toNat) d else .num neg n (d * 2 ^ (-k).toNat)
  | _ => x

/-- Whether a value is a NaN, and whether a signalling one. -/
def XVal.isNan : XVal → Bool
  | .nan _ => true
  | _ => false
/-- See `XVal.isNan`. -/
def XVal.isSig : XVal → Bool
  | .nan s => s
  | _ => false

/-- Numeric order of values that are no NaN, with -0 equal to +0. -/
def XVal.lt (a b : XVal) : Bool :=
  match a, b with
  | .inf x, .inf y => x && !y
  | .inf x, .num .. => x
  | .num .., .inf y => !y
  | .num x n d, .num y m e =>
    let l : Int := if x then -((n * e : Nat) : Int) else (n * e : Nat)
    let r : Int := if y then -((m * d : Nat) : Int) else (m * d : Nat)
    decide (l < r)
  | _, _ => false

/-- Numeric equality of values that are no NaN. -/
def XVal.eqv (a b : XVal) : Bool := !a.isNan && !b.isNan && !a.lt b && !b.lt a

/-- Exact BFP value (R60). -/
def bfpValue (q : Int) (e m : Nat) : XVal :=
  if e == 255 then .nan false else scaled (decide (q < 0)) q.natAbs ((e : Int) - 127 - ((m : Int) - 2))

/-- The low m bits as two's complement (R73). -/
def signExt (m v : Nat) : Int :=
  let w := v % 2 ^ m
  if 2 ^ (m - 1) ≤ w then (w : Int) - (2 ^ m : Nat) else w

/-- An integer's low bits. -/
def toBits (width : Nat) (i : Int) : Nat := (i % ((2 ^ width : Nat) : Int)).toNat

/-- The largest BFPm value as a fraction (R60). -/
def bfpMax (m : Nat) : Nat × Nat := ((2 ^ (m - 1) - 1) * 2 ^ (129 - m), 1)

/-- NarrowBound for BFPm (R69, R73). -/
def bfpBound (m : Nat) (b : Word) : Nat × Nat :=
  match fmtF32.decode b.toNat with
  | .num _ n d => if n == 0 then bfpMax m else (n, d)
  | _ => bfpMax m

/-- ClampToBound (R73). -/
def clampTo (x : XVal) (b : Nat × Nat) : XVal × Word :=
  match x with
  | .nan s => (.nan s, 0)
  | .inf neg => (.num neg b.1 b.2, stCLAMP)
  | .num neg n d => if fracLe n d b.1 b.2 then (x, 0) else (.num neg b.1 b.2, stCLAMP)

/-- One pass of BfpEncode at exponent e (R62, R73): the mantissas and INX. -/
def bfpPass (ys : List (XVal × Nat)) (m e : Nat) (mode : Rm) : List Int × Word :=
  let r := ys.map fun (y, theta) =>
    match y.shift (127 + ((m : Int) - 2) - e) with
    | .num neg n d => roundInt neg n d mode theta
    | _ => (0, false)
  (r.map (·.1), if r.any (·.2) then stINX else 0)

/-- BfpEncode (R62, R73): exponent, mantissas, conditions. `xs` gives each value with its dither threshold. With a
bound within the format, E = 0xFE always fits, and the last arm is never reached (log 8). -/
def bfpEncode (xs : List (XVal × Nat)) (m : Nat) (mode : Rm) (bound : Word) : Nat × List Int × Word :=
  let inv : Word := if xs.any (·.1.isSig) then stINV else 0
  if xs.any (·.1.isNan) then (255, xs.map fun _ => 0, inv)
  else
    let b := bfpBound m bound
    let ys := xs.map fun p => ((clampTo p.1 b).1, p.2)
    let st : Word := if xs.any (fun p => (clampTo p.1 b).2 != 0) then stCLAMP else 0
    let lim : Int := (2 ^ (m - 1) : Nat)
    let fits (e : Nat) : Bool := (bfpPass ys m e mode).1.all fun q => -lim ≤ q && q ≤ lim - 1
    match (List.range 255).find? fits with
    | some e => let (q, i) := bfpPass ys m e mode; (e, q, st ||| i)
    | none =>
      let (q, i) := bfpPass ys m 254 mode
      (254, q.map fun v => max (-lim) (min v (lim - 1)), st ||| i)

/-- The long accumulator (R70). -/
structure LongAcc where
  a : Int
  nan : Bool
  pinf : Bool
  ninf : Bool
  allnz : Bool
  any : Bool
  st : Word
  deriving DecidableEq, Repr

/-- An accumulator with no addends (R70). -/
def LongAcc.empty : LongAcc :=
  { a := 0, nan := false, pinf := false, ninf := false, allnz := true, any := false, st := 0 }

/-- LongAccAdd (R73). -/
def LongAcc.add (c : LongAcc) (x : XVal) : LongAcc :=
  match x with
  | .nan s => { c with nan := true, any := true, st := if s then c.st ||| stINV else c.st }
  | .inf false => { c with pinf := true, any := true }
  | .inf true => { c with ninf := true, any := true }
  | .num neg n d =>
    let v : Int := (n * 2 ^ 149 / d : Nat)
    { c with a := if neg then c.a - v else c.a + v, any := true, allnz := c.allnz && neg && n == 0 }

/-- LongAccRound to a format with infinities (R73). -/
def LongAcc.round (c : LongAcc) (f : FFmt) : Nat × Word :=
  if c.nan || (c.pinf && c.ninf) then (f.nanPat, if c.pinf && c.ninf then c.st ||| stINV else c.st)
  else if c.pinf then (f.infPat, c.st)
  else if c.ninf then (f.signed true f.infPat, c.st)
  else if c.a == 0 then (f.signed (c.allnz && c.any) 0, c.st)
  else
    let (p, st) := f.round (.num (decide (c.a < 0)) c.a.natAbs (2 ^ 149)) .rne 0
    (p, st ||| c.st)

/-- Integer square root: the largest r below 2^(i+1) with r * r ≤ n, from the bits above bit i already in r. -/
def isqrtFrom (n : Nat) : Nat → Nat → Nat
  | 0, r => if (r + 1) * (r + 1) ≤ n then r + 1 else r
  | i + 1, r =>
    let c := r + 2 ^ (i + 1)
    isqrtFrom n i (if c * c ≤ n then c else r)

/-- The floor of the square root. -/
def isqrt (n : Nat) : Nat := isqrtFrom n (Nat.log2 n / 2) 0

/-- The magnitude of the square root of n / d, both positive. -/
def magSqrt (n d : Nat) : Mag :=
  let e0 := (magOf n d).e
  { e := e0 / 2
    fl := fun k =>
      let a := if 0 ≤ k then n * 2 ^ (2 * k.toNat) else n
      let b := if 0 ≤ k then d else d * 2 ^ (2 * (-k).toNat)
      let r := isqrt (a / b)
      some (r, r * r * b == a) }

end Sys2Proof.Machine
end

