-- ==== Sys2Proof/Machine/State.lean ====
section
/-! DEFINITION. The state of one package: threads, waves, workgroups, launches, cores, memory, translation, thatches,
snapshots, the command complex, the links and power; and the model's own fields (the agenda, the issue, the counters).
INVENTORY.md gives each field's rule and reset value. -/

namespace Sys2Proof.Machine

/-- Why the machine stops. -/
inductive Fault where
  /-- Raised by an access through a heap that a commit of a smaller interleave table left over a DPA at which R293 places nothing: no
  rule says what it does (log 15).
  Safe: the machine stops. -/
  | absentMemory (dpa : Nat)
  deriving DecidableEq, Repr

/-- Why an instruction has no meaning here. -/
inductive Refusal where
  /-- Raised by the arm of an instruction that has no meaning yet. Safe: the machine stops. -/
  | notModelled (mnemonic : String)
  deriving DecidableEq, Repr

/-- A v register: 32-bit value, tag, side scale (R48). -/
structure VReg where
  val : Word
  tag : Byte
  scale : Byte
  deriving DecidableEq, Repr

/-- A v register at thread start (R50). -/
def VReg.zero : VReg := { val := 0, tag := 0, scale := 0 }

/-- A place of a thread (R247): core, quadrant, lane, slot; slot 16 is the landing slot (R261). -/
structure Loc where
  core : Nat
  quad : Nat
  lane : Nat
  slot : Nat
  deriving DecidableEq, Repr

/-- A trap record (R215) but for the handle, which is the thread's when it is posted. `due` is when the trap has happened: a data
trap comes after the instruction has written its results (R74). `drop` are the flag counts that a TRET removes first (R277). -/
structure TrapRec where
  cause : Byte
  code : Byte
  ilen : Nat
  pc : DWord
  workid : DWord
  launch : Word
  sticky : Word
  due : Nat := 0
  drop : List (BitVec 4) := []
  deriving DecidableEq, Repr

/-- Whether a thread runs, is stopped by a trap (its record posted or waiting), or has ended (R248, R273). -/
inductive Status where
  | live
  | stopped (r : TrapRec) (posted : Bool)
  | exited
  deriving DecidableEq, Repr

/-- A result in flight (R27, R79): registers and predicates written, and a flag released, at `due`. -/
structure Pend where
  due : Nat
  regs : List (Nat × VReg)
  preds : List (Nat × Bool)
  flag : Option Nat
  /-- KSIGN (true) or KCLR of a convergence register (R138). -/
  ksig : Option (Nat × Bool) := none
  /-- The answer of the dispenser, whose latency is not fixed (R204), so that no early read sees it (R27). -/
  answer : Bool := false
  deriving DecidableEq, Repr

/-- Why a held thread will issue its instruction again (R134, R137, R169, R199, R205, R207, R271, R275, R305, R342). -/
inductive Retry where
  /-- A convergence register is in state complete (R137). -/
  | kbusy (k : Nat)
  /-- The matrix queue is full (R134). -/
  | mqueue
  /-- The queue of engine e is full (R169). -/
  | engine (e : Nat)
  /-- The input queue's slot is not freed (R205). -/
  | emit (lnum : Nat)
  /-- The lock queues are at capacity (R199). -/
  | lockRoom
  /-- MIGR waits for its thread's flags (R207). -/
  | flags
  /-- A translation fault at a fetch or at a record read (R305, R402), attached to fault record r. -/
  | fault (r : Nat)
  /-- A record read of a yealm that is not resident (R315). -/
  | swap (desc yealm : Nat)
  /-- A walk or a record read waits for the end of an edit of the interleave table (R296). -/
  | edit
  /-- A read of a vault window waits for the end of its die's core reset (R360). -/
  | vault (key : Nat)
  deriving DecidableEq, Repr

/-- Why a thread is held, and so not eligible (R265, R266). The program counter stays at the instruction. -/
inductive Hold where
  | free
  /-- Arrived at the wave's collective point (R106). -/
  | collective
  /-- Arrived at convergence register k (R144). -/
  | converge (k : Nat)
  | fuse (til : Nat)
  | asleep (til : Nat)
  | waitf (mem : Bool)
  /-- BWAIT on the object at this vault key, for a phase other than parity (R180). -/
  | barrier (key : Nat) (parity : Bool) (checked : Bool)
  /-- Participant of a TKWAIT (R201). -/
  | ticket (seq : Nat)
  | gate (g : Nat)
  /-- Queued at the lock word (R199). -/
  | lock (dpa : Nat)
  /-- Participant of a FETCHW that waits for a batch, or for the end of a DRAIN (R204, R280). -/
  | fetchw
  /-- Participant of a YACQ (R184). -/
  | yacq (desc yealm : Nat)
  | cbar (id : Nat)
  | sstep
  | stepadv (d : Reg)
  /-- A register write that waits for the end of a sweep (R341). -/
  | sysWrite (num : Nat) (v : DWord)
  | halt0
  /-- HALT.1 until the device is quiesced (R395). -/
  | quiesce
  /-- In transit to a landing slot of a physical die, or to the home slot (R207), from `due` on. -/
  | migrating (die : Option Nat) (due : Nat)
  /-- The instruction did not issue and will issue again when the condition is met. -/
  | retry (why : Retry)
  deriving DecidableEq, Repr

/-- A thread (R48 to R51, R247, R248). -/
structure Thread where
  uid : Nat
  wid : Nat
  loc : Loc
  home : Option Loc
  pc : DWord
  v : List VReg
  preds : BitVec 96
  flags : List Nat
  sticky : Word
  priv : Bool
  ctx : Nat
  retired : Nat
  lastIssue : Option Nat
  /-- The moment it last became eligible at its program counter (R268). -/
  ready : Option Nat
  yielded : Bool
  /-- It executed YIELD or SLEEP since its deterministic wave became running (R270). -/
  gave : Bool
  status : Status
  hold : Hold
  setf : BitVec 4
  ilen : Nat
  pend : List Pend
  deriving DecidableEq, Repr

/-- A directional write in flight (R115 to R117): components or norm of register d, of the seq-th directional instruction. -/
structure DPend where
  due : Nat
  reg : Nat
  comps : Option (List Half)
  norm : Option Word
  seq : Nat
  deriving DecidableEq, Repr

/-- The current identifier of a wave (R201, R204). -/
structure Ident where
  id : DWord
  rank : Nat
  batch : Option Nat
  deriving DecidableEq, Repr

/-- A FETCHW that the dispenser has not served (R204, R257): its participants, destinations and flag, and when it issued;
`held` when its threads wait at it. -/
structure FetchReq where
  uids : List Nat
  d : Reg
  p : Reg
  setf : BitVec 4
  at_ : Nat
  held : Bool
  deriving DecidableEq, Repr

/-- A wave (R248). -/
structure Wave where
  wid : Nat
  lnum : Nat
  wg : Nat
  idx : Nat
  core : Nat
  quad : Nat
  slot : Nat
  role : Nat
  order : Nat
  d : List (List Half)
  n : List Word
  dpend : List DPend
  dseq : Nat
  /-- Issue numbers of the last components and norm written to each register (R117). -/
  dlast : List Nat
  nlast : List Nat
  cur : Option Ident
  adv : List Nat
  reserved : Option Ident
  emitted : Bool
  pins : List (Nat × Nat × Nat)
  fetches : List FetchReq
  /-- Program counter and RETIRED of each thread at the last FETCHW, and its time (R278, R280). -/
  fetchAt : List (Nat × DWord × Nat)
  fetchTime : Option Nat
  deriving DecidableEq, Repr

/-- The kernel header (R41). -/
structure Header where
  det : Bool
  idem : Bool
  nvreg : Nat
  npred : Nat
  nwave : Nat
  entry : DWord
  codesz : Nat
  vaultsz : Nat
  trapen : Word
  emitbatch : Nat
  ndecl : Nat
  roles : List Nat
  widths : List Nat
  full : Bool
  decl : DWord
  deriving DecidableEq, Repr

/-- A party unit (R262): the wave or a thread, by its uid. -/
inductive PUnit where
  | wave (wid : Nat)
  | thread (uid : Nat)
  deriving DecidableEq, Repr

/-- A party entry (R262). -/
structure Party where
  key : Nat
  unit : PUnit
  flips : Word
  arrived : Bool
  deriving DecidableEq, Repr

/-- Where a workgroup stands (R249, R263, R280). -/
inductive WgState where
  | waiting
  | placed
  | saved
  | ended
  deriving DecidableEq, Repr

/-- An accumulator's status word but for PEND, which is counted from the queue (R135). -/
structure MStat where
  fail : Bool
  inv : Bool
  ovf : Bool
  unf : Bool
  inx : Bool
  retry : Nat
  corr : Nat
  deriving DecidableEq, Repr

/-- A convergence register (R137); `since` is the time of the last arrival, from which the check's 20 ac run (R144). -/
structure KReg where
  members : List Nat
  arrived : List Nat
  since : Nat := 0
  deriving DecidableEq, Repr

/-- The parts of a context image that placement gives away: accumulators, status words, convergence registers, vault bytes;
the threads, waves, party list, commands and log entries stay with the workgroup (R281, R282, log 19). -/
structure SavedWg where
  kind : Nat
  area : Option Nat
  acc : List (Nat × Word)
  mstat : List MStat
  k : List KReg
  vault : List Byte
  /-- The lock words its threads own, by uid (R200). -/
  locks : List (Nat × Nat)
  deriving DecidableEq, Repr

/-- A workgroup of a launch (R248, R249). -/
structure Wg where
  lnum : Nat
  idx : Nat
  core : Nat
  /-- The kernel's header, which a control kernel has without a launch (R373). -/
  hdr : Header
  state : WgState
  vaultBase : Nat
  party : List Party
  released : List Nat
  items : List Nat
  draining : Bool
  /-- The pre-emption in progress: 1 DRAIN, 2 SAVE, 3 FLUSH, and the image's area (R278 to R281). -/
  stopping : Option (Nat × Option Nat)
  /-- When that pre-emption began (R279). -/
  stopAt : Nat := 0
  killed : Bool
  halted : Bool
  /-- When the halt began, and the HALTED record still to post (R283, R284). -/
  haltedAt : Nat
  haltRec : Option (Word × TrapRec)
  /-- The machine check that stopped the workgroup, if any (R147). -/
  mcheck : Bool
  /-- The image of a pre-empted workgroup. -/
  saved : Option SavedWg
  deriving DecidableEq, Repr

/-- A successor's queue in a launch record (R258, R376). -/
structure Succ where
  lnum : Nat
  qcap : Nat
  qbase : DWord
  deriving DecidableEq, Repr

/-- An input queue as its successor's dispenser holds it (R205, R258, R259). -/
structure InQueue where
  /-- The launches that name it, and those of them that have ended. -/
  producers : List Nat
  ended : List Nat
  /-- Record numbers given out. -/
  next : Nat
  /-- Record numbers written. -/
  written : List Nat
  deriving DecidableEq, Repr

/-- A deferred entry of a commit queue (R209): key, bytes stored or the reduction; whether it goes to a PERSIST page, and the flags
that fall when it commits (R160, R196). -/
structure Deferred where
  rank : Nat
  retired : Nat
  lane : Nat
  wg : Nat
  bytes : List (Nat × Byte)
  red : Option (AOp × Bool × Bool × Nat × DWord)
  persist : Bool := false
  falls : List (Nat × BitVec 4) := []
  /-- The instruction's address and length, for a machine check's record (R354). -/
  pc : DWord := 0
  ilen : Nat := 0
  /-- The store allocates no line in the ridge cache (R31, R162). -/
  nt : Bool := false
  deriving DecidableEq, Repr

/-- A launch (R249, R257, R376). -/
structure Launch where
  lnum : Nat
  hdr : Header
  khdr : DWord
  argp : DWord
  ext : List Nat
  pred : Nat
  ctx : Nat
  priv : Bool
  step : Bool
  debug : Bool
  tpol : Nat
  succ : List Succ
  /-- The shrink table, read when the launch was accepted (R377). -/
  shrink : List (Nat × List Nat)
  /-- The entries of the declaration table, read when the launch was accepted (R43). -/
  objs : List (List Byte) := []
  ring : Option (Nat × Nat)
  ended : Bool
  cancelled : Bool
  /-- Identifiers handed out, which is the next rank. -/
  nextRank : Nat
  exhausted : Bool
  /-- Tickets that are advanced or void: rank and sequence. -/
  tickets : List (Nat × Nat)
  /-- Ranks whose tickets not advanced are void, with their workgroup: while it has a fault awaiting replay they are not. -/
  voided : List (Nat × Nat)
  inq : Option InQueue
  /-- Batches freed. -/
  freed : List Nat
  superstep : Nat
  claims : List (Nat × Nat)
  owned : List (Nat × Nat)
  deferred : List Deferred
  start : List Host.Cell
  halten : Bool
  brken : Bool
  brktag : Word
  deriving DecidableEq, Repr

/-- An armed injection (R154). -/
structure Inject where
  mode : InjMode
  row : Nat
  col : Nat
  bit : Nat
  deriving DecidableEq, Repr

/-- One matrix pass: mantissas and exponents as read at issue (R143 to R145), B by columns. -/
structure Pass where
  ma : Nat
  mb : Nat
  qa : List (List Int)
  ea : List Nat
  qb : List (List Int)
  eb : List Nat
  time : Nat
  deriving DecidableEq, Repr

/-- A tensor parameter record (R71). -/
structure TRec where
  base : DWord
  sbase : DWord
  fmt : Nat
  ndim : Nat
  block : Nat
  dims : List Nat
  strides : List Nat
  clamp : Word
  ditherRow : Nat
  ditherCol : Nat
  deriving DecidableEq, Repr

/-- A matrix command (R134). `uids` are the participants; SETF falls for each when the command ends. -/
inductive MKind where
  | pass (p : Pass)
  | zero
  | put (writes : List (Nat × Word)) (time : Nat)
  | drain (d : Reg) (keep : Bool) (rm : Rm) (r : TRec) (row0 col0 : Nat) (ctx : Nat) (priv : Bool)
  | chk (p : Reg)
  deriving DecidableEq, Repr

/-- See `MKind`. -/
structure MCmd where
  id : Nat
  acc : Nat
  lnum : Nat
  wg : Nat
  uids : List Nat
  setf : BitVec 4
  pc : DWord
  ilen : Nat
  kind : MKind
  /-- When it issued (R148). -/
  issued : Nat := 0
  /-- The key of an MDRAIN's thread at issue, for an entry of the commit queue (R209). -/
  key : Nat × Nat := (0, 0)
  deriving DecidableEq, Repr

/-- A command that the engine executes, until `ends`; for a pass (R145, R146, R148) that is the end of the array run, and it holds
the injection it took, the products that its check accepts, none where they mismatch, whether the check corrects one that is not
counted yet, whether this is the recomputation, and when its array run began and how many ac each plane is stretched (R234). -/
structure MExec where
  cmd : MCmd
  inj : Option Inject
  prod : Option (List (List Int))
  fixed : Bool := false
  again : Bool := false
  ends : Nat := 0
  began : Nat := 0
  stretch : Nat := 0
  deriving DecidableEq, Repr

/-- The copy an MDRAIN holds until its last byte is written (R153): its bytes at virtual addresses, the fault record it waits
on, and the store in flight. -/
structure Drain where
  cmd : MCmd
  bytes : List (Nat × Byte)
  fault : Option Nat
  acc : Option Nat
  deriving DecidableEq, Repr

/-- An MGET whose results have not landed (R152). -/
structure MGetPend where
  id : Nat
  acc : Nat
  uids : List Nat
  d : Reg
  row0 : Nat
  cnt : Nat
  tr : Bool
  setf : BitVec 4
  /-- Commands on the accumulator it waits for (SYNC). -/
  sync : Bool
  waits : List Nat
  due : Nat
  /-- The elements as they stood at issue and after each command since; with SYNC, after the last of `waits`. -/
  hist : List (List Word)
  lnum : Nat
  wg : Nat
  pc : DWord
  ilen : Nat
  deriving DecidableEq, Repr

/-- A first-level or second-level TLB entry (R304). -/
structure TlbEntry where
  ctx : Nat
  va : Nat
  size : Nat
  dpa : Nat
  x : Bool
  w : Bool
  priv : Bool
  persist : Bool
  tso : Bool
  deriving DecidableEq, Repr

/-- A line of the write-combining buffer (R162). -/
structure WcLine where
  line : Nat
  bytes : List (Nat × Byte)
  owners : List (Nat × BitVec 4)
  persist : Bool
  since : Nat
  /-- Every store in it allocates no line in the ridge cache (R31, R162). -/
  nt : Bool := false
  /-- The CHINT of the store that merged last (R31). -/
  hint : Nat := 0
  deriving DecidableEq, Repr

/-- What an engine command moves (R169 to R175, R186 to R189). -/
inductive EngOp where
  | copy (d s : DWord) (n : Nat)
  | gather (d base idx : DWord) (rows : Nat) (idx64 : Bool) (rowb : Nat)
  | scatter (base s idx : DWord) (rows : Nat) (idx64 : Bool) (rowb : Nat)
  | tcopy (d s : TRec) (rm : Rm)
  | rget (l r : DWord) (n : Nat) (pkg : Nat)
  | rput (r l : DWord) (n : Nat) (pkg : Nat)
  | coll (kind : Nat) (d s : TRec) (group : Nat) (op : COp) (root : Nat) (place : Nat)
  /-- The completion record of a CKPT (R220). -/
  | record (va : DWord) (bytes : List Byte) (poison : Bool)
  deriving DecidableEq, Repr

/-- An engine command (R169). `after` are the accesses its reads and writes are ordered after; `written` the chunks
written and `credited` the number of chunks credited. A joined collective holds its result bytes. -/
structure EngCmd where
  id : Nat
  core : Nat
  engine : Nat
  uid : Nat
  lnum : Nat
  wg : Nat
  ctx : Nat
  priv : Bool
  setf : BitVec 4
  bar : Nat
  op : EngOp
  after : List Nat
  /-- Chunks whose message is on its way to the peer (R186). -/
  sent : List Nat := []
  written : List Nat
  credited : Nat
  /-- Bytes credited. -/
  bytes : Nat := 0
  cond : Word
  fault : Option Nat
  /-- It waits on a swap fault (R315). -/
  swap : Option (Nat × Nat)
  /-- A joined collective's destination bytes, in the order of `TRec.destAddrs`. -/
  data : Option (List Byte)
  /-- The packet it executes for, if any: ring and index (R374). -/
  ring : Option (Nat × Nat) := none
  /-- The instruction and its operand values, for the engine descriptor of an image (R282). -/
  desc : Option Instr := none
  args : List DWord := []
  /-- It is cancelled, and its poisoned credit waits for the end of a core reset of its barrier's die (R172, R360). -/
  dying : Bool := false
  deriving DecidableEq, Repr

/-- One lane of an atomic request (R194). -/
structure ALane where
  uid : Nat
  lane : Nat
  b : DWord
  c : DWord
  /-- A FLUSH has discarded this lane's result (R280). -/
  quiet : Bool := false
  deriving DecidableEq, Repr

/-- A barrier port operation (R177 to R183, R262, R263). -/
inductive BarOp where
  | init (ring : Bool) (p b : Word)
  | expect (b : Word)
  | arrive (n : Word)
  | drop
  | ringNext (consumer : Bool) (d : Reg)
  | test (p : Reg) (parity checked : Bool)
  deriving DecidableEq, Repr

/-- What an access does when it performs (R160, R164, R166 to R168, R192, R219). Addresses are memory keys: a DPA below
2^48, or a vault window address. -/
inductive AccOp where
  | load (key size : Nat) (sz : Sz) (d : Nat) (tag : Byte) (fresh nt : Bool)
  /-- An LDV run: each element's byte keys and its first bit in them, and the block exponent's key. -/
  | ldv (d : Nat) (tag : Byte) (elemBits perReg : Nat) (bits : List (List Nat × Nat)) (scale : Option Nat) (fresh : Bool)
  | store (bytes : List (Nat × Byte))
  | atomic (key : Nat) (op : AOp) (cas : Bool) (w64 u : Bool) (lanes : List ALane) (d : Option Nat) (tag : Byte)
  | fence (kind : FKind)
  | pbar (system : Bool)
  | pflush (line : Nat)
  | l1inv (mode : Nat)
  /-- TLBINV: the accesses it waits for once the entries are dropped, none before (R219). -/
  | tlbinv (mode ctx va count : Nat) (waits : Option (List Nat))
  | barrier (key : Nat) (op : BarOp) (unit : List PUnit)
  | emit (lnum : Nat) (record : Nat) (bytes : List (Nat × Byte))
  | release (g : Nat)
  | ticket (seq rank : Nat)
  /-- QUNLK by the thread with this OWNER. -/
  | unlock (dpa owner : Nat)
  | qtry (dpa : Nat) (p : Reg)
  /-- DLD: the image is read from the access's ranges in order. -/
  | dld (reg wid seq : Nat)
  /-- The flag of an instruction that only waits for an answer: CKPT waits for the ridge pair (R220), RSIZE for retagging
  (R341), STRIG for its latch (R220). -/
  | ack (ridge : Bool)
  | heapset (ctx : Nat) (base limit off : DWord)
  deriving DecidableEq, Repr

/-- An access that has been issued and has not performed (R160, R320, R323). `uids` are the threads it belongs to. -/
structure Access where
  id : Nat
  uids : List Nat
  op : AccOp
  reads : List (Nat × Nat)
  writes : List (Nat × Nat)
  acq : Bool
  rel : Bool
  weak : Bool
  tso : Bool
  persist : Bool
  wide : Bool
  setf : BitVec 4
  /-- Further threads whose flags fall with it: the participants of a DLD or DST (R114). -/
  also : List Nat
  /-- The instruction's address and length, for a machine check's record (R354). -/
  pc : DWord
  ilen : Nat
  /-- A store that allocates no line in the ridge cache: a `.nt` one (R162), or one with CHINT 3 (R31). -/
  nt : Bool := false
  /-- CHINT, which marks the lines of a memory-class instruction's access (R31). -/
  hint : Nat := 0
  /-- The quadrant (core and number) whose log entry it replays (R197, R276). -/
  again : Option (Nat × Nat) := none
  /-- The key of each thread at issue, for an entry of the commit queue that a replay makes (R209). -/
  keys : List (Nat × (Nat × Nat)) := []
  deriving DecidableEq, Repr

/-- An entry of a quadrant's operand log (R274): the access as captured, with virtual addresses in place of keys; none for
MIGR. The entries of one merged store share `grp` and hold the store's `parts`, the bytes of each thread. While its replay
is in flight `acts` are the accesses it waits for (R276). -/
structure LogEntry where
  id : Nat
  grp : Nat
  core : Nat
  quad : Nat
  seq : Nat
  uid : Nat
  pc : DWord
  ilen : Nat
  addr : DWord
  kind : Nat
  setf : BitVec 4
  fcnt : Nat
  frec : Nat
  instr : Instr
  acc : Option Access
  wc : Bool
  parts : List (Nat × List (Nat × Byte))
  acts : List Nat := []
  deriving DecidableEq, Repr

/-- A device-held access that waits on a fault record without a log entry: a DLD, DST or PFLUSH (R130, R168). -/
structure Waiter where
  id : Nat
  uid : Nat
  uids : List Nat
  setf : BitVec 4
  frec : Nat
  load : Bool
  flush : Bool
  addr : DWord
  acc : Access
  pc : DWord
  ilen : Nat
  deriving DecidableEq, Repr

/-- A fault record (R305 to R308): `seq` once posted, `closed` once a replay covered it. -/
structure FaultRec where
  id : Nat
  va : DWord
  ctx : Nat
  kind : Nat
  acc : Nat
  src : Nat
  unit : Word
  launch : Nat
  joined : Nat
  seq : Option Nat
  closed : Bool
  /-- The rewrite of its JOINED field waits for the end of an edit of the interleave table (R296). -/
  late : Bool := false
  deriving DecidableEq, Repr

/-- What a quadrant has issued in an ac: when, the lanes, how many groups, whether one took the special-function unit. -/
structure Pick where
  quad : Nat
  time : Nat
  lanes : List Nat
  count : Nat
  sfu : Bool
  deriving DecidableEq, Repr

/-- A core's own state (R133 to R154, R161, R162, R169, R221, R268, R274, R304). -/
structure CoreSt where
  owner : Option (Nat × Nat)
  acc : List (Nat × Word)
  mstat : List MStat
  icntRetry : Nat
  icntCorr : Nat
  mqueue : List MCmd
  /-- When the engine last took a command into its queue (R134). -/
  mtaken : Option Nat := none
  mexec : Option MExec
  /-- Passes whose array run has ended and whose accumulation has not landed, oldest first (R148). -/
  mland : List MExec := []
  drain : Option Drain
  mgets : List MGetPend
  inject : List (Nat × Inject)
  /-- Bits of products that the arrays are about to get wrong: row, column, bit. -/
  flips : List (Nat × Nat × Nat)
  /-- Uncorrectable elements (R238): accumulator, and place in it (64 i + j). -/
  accBad : List (Nat × Nat)
  k : List KReg
  l1 : List (Nat × List Byte)
  l1i : List (Nat × List Byte)
  wcb : List WcLine
  tlb : List TlbEntry
  logSeq : List Nat
  htimer : Nat
  htimerSince : Nat
  rr : List Nat
  sfuBusy : List Nat
  running : Option Nat
  /-- What a quadrant issued last (R254, R268). -/
  picks : List Pick
  deriving DecidableEq, Repr

/-- Translation registers and state (R295, R296, R299, R300, R304 to R309). -/
structure Mmu where
  ptroot : List DWord
  hbase : List DWord
  hlimit : List DWord
  hoff : List DWord
  fbase : DWord
  fctl : Word
  ilvIdx : Nat
  nch : Nat
  ilvErr : Bool
  ilvEdit : Bool
  /-- T where a COMMIT has changed it; none is the table of R296 over the channels in use. -/
  ilv : Option (List (BitVec 16))
  shadow : List (Nat × BitVec 16)
  /-- NCH as edited: installed at COMMIT. -/
  nchEdit : Nat
  channels : List Nat
  winbase : DWord
  wincfg : Word
  tlb2 : List TlbEntry
  recs : List FaultRec
  /-- Sequence number of the next posted record. -/
  nextSeq : Nat
  log : List LogEntry
  waiters : List Waiter
  /-- Re-homed 2 MiB blocks and the DPAs of their destinations (R358). -/
  rehome : List (Nat × Nat)
  deriving DecidableEq, Repr

/-- A held thatch (R310, R311, R314). -/
structure Thatch where
  desc : Nat
  prio : Nat
  nyealm : Nat
  vbase : Nat
  ysize : Nat
  k : Nat
  m : Nat
  scmStacks : List Nat
  soff : Nat
  lastAcq : Nat
  pins : List (Nat × Nat)
  /-- Named by THATCH load; and, by packet, the yealms not resident at any moment since its load (R313, R374). -/
  loaded : Bool
  loads : List ((Nat × Nat) × List Nat)
  deriving DecidableEq, Repr

/-- A slot of the residency window (R313). -/
inductive Slot where
  | empty
  | reserved (desc yealm : Nat)
  | filling (desc yealm : Nat)
  | resident (desc yealm : Nat)
  /-- Given to re-homed blocks (R359). -/
  | lost
  deriving DecidableEq, Repr

/-- A thread's read that waits on a swap fault (R315). -/
structure SwapWait where
  desc : Nat
  yealm : Nat
  entry : LogEntry
  deriving DecidableEq, Repr

/-- Thatches, window, streams (R311 to R315, R290). -/
structure Thatches where
  held : List Thatch
  slots : List Slot
  queue : List (Nat × Nat)
  swaps : List SwapWait
  /-- Yealm and shard whose source failed, waiting for a rebuild. -/
  failed : List (Nat × Nat × Nat)
  deriving DecidableEq, Repr

/-- The sweep in progress (R346, R347): captured step, region, next line, image lines so far, and the entries of the staging
buffer that have not drained to SCM. -/
structure Sweep where
  step : Word
  region : Nat
  offset : Nat
  /-- Line, bytes, and whether it carries the poison mark (R354). -/
  image : List (Nat × List Byte × Bool)
  started : Nat
  staged : Nat := 0
  deriving DecidableEq, Repr

/-- A pending CKPT (R220, R350): mode, issuing thread, record address, barrier, translation, ring packet. -/
structure CkptReq where
  mode : Bool
  uid : Option Nat
  va : DWord
  bar : Option Nat
  ctx : Nat
  priv : Bool
  ring : Option (Nat × Nat)
  issued : Nat
  /-- The step that its snapshot captures, once that has begun. -/
  step : Option Word
  core : Nat
  deriving DecidableEq, Repr

/-- A snapshot generation in SCM (R348, log 28): the step, its stripe group, the regions, the member's own data and poisoned
lines, and the parity shards it holds. -/
structure SnapGen where
  step : Word
  gbase : Nat
  k : Nat
  m : Nat
  shard : Nat
  rank : Nat
  regions : List (Nat × Nat)
  data : List (List Byte)
  bad : List Nat
  parity : List ParityShard
  /-- The package that each present rank was when the snapshot was taken (R352). -/
  ranks : List Nat
  /-- The snapshot area, whose header names its step once it is complete, and the SCM DPA of its shards; none where CKPT.SCMBASE named
  no SCM. `data` and `parity` are then what was written there. -/
  area : Nat := 0
  place : Option Nat := none
  deriving DecidableEq, Repr

/-- A persist queue entry (R342): an SCM DPA and its byte. -/
abbrev PqEntry := Nat × Byte

/-- CKPT registers and snapshot state (R341 to R350). -/
structure Ckpt where
  en : Bool
  mcroll : Bool
  nstep : Nat
  nreg : Nat
  step : Word
  lastok : Word
  timer : Nat
  gbase : Nat
  shard : Nat
  k : Nat
  m : Nat
  scmbase : DWord
  forced : Nat
  cecHbm : Nat
  cecScm : Nat
  cecAcc : Nat
  cecVault : Nat
  eccthr : Nat
  freemap : DWord
  spare : DWord
  rbld : DWord
  rbase : List DWord
  rsize : List DWord
  sweep : Option Sweep
  /-- A swept image whose stripes are not complete. -/
  image : Option SnapGen
  lastTime : Nat
  lastStep : Word
  rolled : Bool
  timerDue : Bool
  reqs : List CkptReq
  /-- The two generations A and B, the one that holds LASTOK first. -/
  gens : List SnapGen
  /-- What the last CKPT.1 copied (R350, log 28). -/
  whole : List Host.Cell
  deriving DecidableEq, Repr

/-- What holds a ring's worker (R274, R275, R366): the fault record, and the stores that wait for its replay, none for a
load. -/
structure RingHold where
  frec : Nat
  writes : List (DWord × List Byte)
  deriving DecidableEq, Repr

/-- A command ring (R362 to R368, R372): indices, error state, packets handed over and not complete. -/
structure Ring where
  num : Nat
  base : DWord
  ctx : Nat
  priv : Bool
  rd : Nat
  err : Option (Nat × Nat)
  frozen : Bool
  outstanding : List Nat
  /-- Its worker is held by a translation fault (R366, R275). -/
  held : Option RingHold
  /-- When WAITVAL last polled, while it waits (R375). -/
  poll : Option Nat
  /-- Its worker has not read the control block yet (R362). -/
  fresh : Bool := false
  /-- QDESTROY has named it: it goes after the packet that its worker holds or polls for (R382). -/
  closing : Bool := false
  deriving DecidableEq, Repr

/-- An event record (R379). -/
structure EventRec where
  type : Nat
  seq : Nat
  time : Nat
  body : List Byte
  launch : Nat
  deriving DecidableEq, Repr

/-- A queue pair (R381, R382). -/
structure Qp where
  num : Nat
  ctx : Nat
  rkey : Word
  deriving DecidableEq, Repr

/-- A host aperture (R381, R382). -/
structure Aperture where
  num : Nat
  qp : Nat
  base : DWord
  rkey : Word
  size : Nat
  deriving DecidableEq, Repr

/-- What the device sends to the host or to peers (log 2). -/
inductive Out where
  | status (v : Nat)
  | nak
  | readData (d : List Byte)
  | spdm (d : List Byte)
  /-- The SPDM error response UnsupportedRequest (R382). -/
  | spdmUnsupported
  | sysreg (v : Word)
  /-- A flit (R383): beat b goes on the b-th of these wavelengths. -/
  | flit (link : Nat) (f : List Byte) (beats : List Nat)
  | cancel (group place : Nat)
  /-- A byte for host memory (R381): the aperture's queue pair and key, and the remote address. -/
  | hostWrite (qp : Nat) (rkey : Word) (addr : Nat) (b : Byte)
  /-- A read of host memory (R381): the aperture's queue pair and key, the remote address, and how many bytes. -/
  | hostRead (qp : Nat) (rkey : Word) (addr n : Nat)
  /-- A chunk of an RPUT, or a request for one of an RGET, on its way to a peer package with the privilege of the issuing thread
  (R186, R401): the command, the chunk. -/
  | remoteWrite (pkg : Nat) (va : DWord) (d : List Byte) (priv : Bool) (id chunk : Nat)
  | remoteRead (pkg : Nat) (va : DWord) (n : Nat) (priv : Bool) (id chunk : Nat)
  /-- Answers to a peer's RGET and RPUT (R186). -/
  | remoteData (pkg : Nat) (d : List Byte)
  | remoteAck (pkg : Nat) (done : Bool)
  | readyOff
  deriving DecidableEq, Repr

/-- Whether the ridge pair runs (R370). -/
inductive Ridge where
  | running
  | restarting
  | stopped
  deriving DecidableEq, Repr

/-- A peer's access that this package serves and that waits on a fault record or a yealm (R186). -/
structure RemoteWait where
  id : Nat
  pkg : Nat
  req : RemoteReq
  frec : Option Nat
  swap : Option (Nat × Nat)
  deriving DecidableEq, Repr

/-- A collective group (R377): the logical packages by rank. -/
structure Group where
  num : Nat
  ranks : List Nat
  count : Nat
  /-- Places that a member has cancelled before this package's command took them (R187). -/
  cancelled : List Nat := []
  deriving DecidableEq, Repr

/-- The command complex and the host port (R370 to R382). -/
structure Cmd where
  csel : Word
  chdr : DWord
  carg : DWord
  bootstat : Word
  trapWr : Nat
  trapRd : Nat
  /-- Trap records of workers' rings still to post, by worker (R366). -/
  workerTraps : List (Nat × TrapRec)
  /-- Other records still to post, by handle: those of threads that a TRET set going before they were posted (R216), of machine
  checks without a live participant (R147), of halts that a RESUME ended (R283). -/
  trapWait : List (Word × TrapRec) := []
  /-- The latencies of pre-emptions that the ridge pair was told (R279): launch, workgroup, kind, and time in 1/336 ns. -/
  preempted : List (Nat × Nat × Nat × Nat) := []
  /-- The ring that each worker served last (R372). -/
  turns : List (Nat × Nat) := []
  rings : List Ring
  ridge : Ridge
  mismatchAt : Option Nat
  workersStopped : List Nat
  events : List EventRec
  eventSeq : Nat
  eventWait : List EventRec
  eventBase : DWord
  eventSize : Nat
  eventWord : DWord
  qps : List Qp
  apertures : List Aperture
  rank : Nat
  npkg : Nat
  pctx : Nat
  links : List LinkPeer
  hops : List (Option Nat)
  lost : List Nat
  groups : List Group
  outbox : List Out
  remote : List RemoteWait
  dbgLaunch : Word
  qfrz : Bool
  /-- Snapshot registers: core, register number, value; core 0 for a device block (R361). -/
  snaps : List (Nat × Nat × DWord)
  trigger : Nat
  quiesced : Bool
  recovery : Bool
  /-- The stages of the boot have run since reset (R391). -/
  booted : Bool
  deriving DecidableEq, Repr

/-- A link (R383 to R388). -/
structure Link where
  num : Nat
  state : List Nat
  req : List Nat
  /-- Wavelengths that have finished waking, to join at the next WIDTH flit. -/
  woke : List Nat
  /-- The active set that both ends use (R387), as a mask: it differs from STATE while a retraining wavelength has not left. -/
  announced : Nat
  /-- The link has trained. -/
  up : Bool
  sendSeq : Nat
  recvSeq : Nat
  queue : List (List Byte)
  recent : List (List Byte)
  /-- Flits received for other packages, not yet forwarded. -/
  inbuf : List (List Byte)
  pausedIn : List Nat
  pausedOut : List Nat
  crcErrors : Nat
  replayWait : Bool
  /-- Since when it has been out of service (R351). -/
  downSince : Option Nat := some 0
  /-- The active set that flits from the far end come with, as a mask, and the set and SEQ that its last WIDTH flit announced (R387). -/
  rxSet : Nat := 255
  rxNext : Option (Nat × Nat) := none
  deriving DecidableEq, Repr

/-- A PWRREQ that waits for its grant (R222). -/
structure PwrWait where
  uid : Nat
  d : Reg
  die : Nat
  setf : BitVec 4
  deriving DecidableEq, Repr

/-- A training record (R392): settings, the die temperature at training in 0.1 degrees, and the digest of both. -/
structure TrainRec where
  settings : Nat
  temp : Nat
  digest : Nat
  deriving DecidableEq, Repr

/-- The configuration NVM (R392, R393): firmware images A and B; by unit, the copies of its training record, the newer first. The
saved wear counters are Power.wearSaved. -/
structure Nvm where
  slotA : List Byte
  slotB : List Byte
  records : List (Nat × List TrainRec)
  deriving DecidableEq, Repr

/-- Power, wear and the module (R394 to R399). -/
structure Power where
  reserve : Nat
  total : Nat
  defs : List Nat
  grants : List Nat
  inlet : Nat
  outlet : Nat
  requests : List (Nat × Nat)
  waiting : List PwrWait
  throttle : Bool
  berthr : Nat
  wear : List (Nat × Nat)
  wearSaved : List (Nat × Nat)
  /-- How long VMAIN had been up when the counters were last saved (R398). -/
  savedAt : Nat := 0
  /-- Intervals of 1 us for which the arbiter has computed grants (R397). -/
  arbAt : Nat := 0
  /-- Temperatures of the wear units, in 0.1 degrees (R392, R398). -/
  temps : List (Nat × Nat) := []
  hot : List Nat
  thermN : Bool
  readyOff : Bool
  /-- How long VMAIN had been up when the clock last started (R399). -/
  held : Nat
  vmain : Bool
  dieState : List Nat
  corrected : List (Nat × Nat)
  strong : List Nat
  retrain : List Nat
  /-- Training records to be written to NVM (R392, R395). -/
  recsDue : List (Nat × TrainRec) := []
  /-- Pseudo-channels whose retirement waits for the workgroups to be saved (R358). -/
  retiring : List Nat
  /-- Pseudo-channels that the ridge pair is to retire next (R356). -/
  retireNext : List Nat := []
  drainMark : Bool
  deriving DecidableEq, Repr

/-- Whether an issue is a group's own or a collective's (R106, R144). -/
inductive IssueKind where
  | group
  | wave
  | converge (k : Nat)
  deriving DecidableEq, Repr

/-- The issue group chosen to issue next (R253, R268): threads in ascending lane order, all at pc. -/
structure Issue where
  core : Nat
  quad : Nat
  pc : DWord
  uids : List Nat
  kind : IssueKind
  deriving DecidableEq, Repr

/-- An entry of the agenda: the order in which concurrent parts act, and the acts of outside agents (log 1, log 2). -/
inductive Act where
  /-- A row 170 to 280 of the opcode table. -/
  | event (i : Instr)
  /-- The quadrant picks its issue group (R268). -/
  | issue (core quad : Nat)
  /-- Time passes: n ac. -/
  | tick (n : Nat)
  /-- An L1 instruction block or a TLB entry is dropped (R18, R304). -/
  | dropBlock (core block : Nat)
  | dropTlb (core : Option Nat) (ctx va : Nat)
  /-- A host agent changes host memory behind an aperture. -/
  | hostMem (dpa : Nat) (b : Byte)
  /-- The host port receives an atomic request, which it refuses (R381). -/
  | hostAtomic (qp : Nat) (va : DWord) (data : List Byte)
  /-- A SPDM request of another kind than R382 lists arrives on queue pair 1. -/
  | spdmOther (req : List Byte)
  /-- A line or word becomes uncorrectable (R354), an accumulator element does (R238), or a correctable error is corrected:
  in an HBM bank (0), the SCM (1), an accumulator (2) or a vault (3) (R356, R357). -/
  | uncorrectable (line : Nat)
  | accError (core acc elem : Nat)
  | correctable (kind bank : Nat)
  /-- A doorbell rings at a core (R221). -/
  | doorbell (core : Nat)
  /-- A cold-plate temperature reading (R396). -/
  | temps (inlet outlet : Nat)
  /-- This package's own traffic gives a link a flit to send; the next flit of a virtual lane is sent. -/
  | flitQueue (link dst vl : Nat) (payload : List Byte)
  | flitSend (link vl : Nat)
  /-- A bit of a product of the array is wrong (R146). -/
  | flip (core row col bit : Nat)
  deriving DecidableEq, Repr

/-- A rollback under way (R351, R355): the ranks lost, none for a machine check's; the step, the generation that holds it, what the other
survivors keep of it, and the launches that ran. -/
structure Rolling where
  lost : List Nat
  step : Word
  gen : Option SnapGen
  peers : List PeerSnap
  live : List Launch
  deriving DecidableEq, Repr

/-- One package. -/
structure State where
  threads : List Thread
  waves : List Wave
  wgs : List Wg
  launches : List Launch
  cores : List (Nat × CoreSt)
  mem : List Host.Cell
  media : List Host.Cell
  pq : List PqEntry
  dirty : List Nat
  /-- Lines of the ridge cache marked first for replacement (true), or to be kept (false), by CHINT (R31). -/
  marks : List (Nat × Bool) := []
  tags : List (Nat × Byte)
  poison : List Nat
  inflight : List Access
  cmds : List EngCmd
  locks : List (Nat × List Nat)
  /-- Threads at a BWAIT whose object's STATUS has released them (R180), each with the LAST.ERR of that moment. -/
  woken : List (Nat × Bool) := []
  /-- A rollback that waits for what the killed workgroups had issued (R264, R351, R355). -/
  rolling : Option Rolling := none
  mmu : Mmu
  thatches : Thatches
  ckpt : Ckpt
  cmd : Cmd
  links : List Link
  power : Power
  nvm : Nvm := { slotA := [], slotB := [], records := [] }
  /-- The physical number of each logical core (R4, R215). -/
  enabled : List Nat
  /-- The model's own fields. -/
  agenda : List Act
  issue : Option Issue
  clock : Nat
  free : Nat
  nextId : Nat
  deriving DecidableEq, Repr

/-- A core with empty engines (R136, R137, R221). -/
def CoreSt.reset : CoreSt :=
  { owner := none, acc := []
    mstat := List.replicate 8 { fail := false, inv := false, ovf := false, unf := false, inx := false, retry := 0, corr := 0 }
    icntRetry := 0, icntCorr := 0, mqueue := [], mexec := none, drain := none, mgets := [], inject := [], flips := [], accBad := []
    k := List.replicate 16 { members := [], arrived := [] }
    l1 := [], l1i := [], wcb := [], tlb := [], logSeq := [0, 0, 0, 0], htimer := 0, htimerSince := 0
    rr := [0, 0, 0, 0], sfuBusy := [0, 0, 0, 0], running := none, picks := [] }

/-- Translation at reset (R296, R300; log 5 for the heap, FBASE, WINBASE and WINCFG). -/
def Mmu.reset : Mmu :=
  { ptroot := List.replicate 16 0, hbase := List.replicate 16 0, hlimit := List.replicate 16 0
    hoff := List.replicate 16 0, fbase := 0, fctl := 0, ilvIdx := 0, nch := 512, ilvErr := false, ilvEdit := false
    ilv := none, shadow := [], nchEdit := 512, channels := List.range 512, winbase := 0, wincfg := 0, tlb2 := []
    recs := [], nextSeq := 0, log := [], waiters := [], rehome := [] }

/-- The CKPT block at reset (R341; log 5 for TIMER, SCMBASE, FREEMAP, SPARE, RBLD and the regions). -/
def Ckpt.reset : Ckpt :=
  { en := false, mcroll := false, nstep := 0, nreg := 0, step := 0, lastok := 0xFFFFFFFF, timer := 0, gbase := 0, shard := 1
    k := 1, m := 1, scmbase := 0, forced := 0, cecHbm := 0, cecScm := 0, cecAcc := 0, cecVault := 0, eccthr := 64
    freemap := 0, spare := 0, rbld := 0, rbase := List.replicate 8 0, rsize := List.replicate 8 0, sweep := none
    image := none, lastTime := 0, lastStep := 0, rolled := false, timerDue := false, reqs := [], gens := [], whole := [] }

/-- The command complex at reset (R373, R378, R379, R382; log 5). -/
def Cmd.reset : Cmd :=
  { csel := 0, chdr := 0, carg := 0, bootstat := 0, trapWr := 0, trapRd := 0, workerTraps := [], rings := [], ridge := .running
    mismatchAt := none, workersStopped := [], events := [], eventSeq := 0, eventWait := [], eventBase := 0
    eventSize := 0, eventWord := 0, qps := [], apertures := [], rank := 0, npkg := 1, pctx := 0, links := []
    hops := [], lost := [], groups := [{ num := 0, ranks := [0], count := 0 }], outbox := [], remote := []
    dbgLaunch := 0, qfrz := false, snaps := [], trigger := 0, quiesced := false, recovery := false
    booted := false }

/-- Power at reset (R385, R396; log 5 for GRANT, TEMP, wear and the module's signals). -/
def Power.reset : Power :=
  { reserve := 1304, total := 4000, defs := List.replicate 8 337, grants := List.replicate 8 337, inlet := 0, outlet := 0
    requests := [], waiting := [], throttle := false, berthr := 20, wear := [], wearSaved := [], hot := [], thermN := false
    readyOff := false, held := 0, vmain := true, dieState := List.replicate 8 0, corrected := [], strong := []
    retrain := [], retiring := [], drainMark := true }

/-- The package after cold reset. -/
def State.reset : State :=
  { threads := [], waves := [], wgs := [], launches := [], cores := [], mem := [], media := [], pq := [], dirty := []
    tags := [], poison := [], inflight := [], cmds := [], locks := [], mmu := Mmu.reset
    thatches := { held := [], slots := [], queue := [], swaps := [], failed := [] }, ckpt := Ckpt.reset, cmd := Cmd.reset
    links := [], power := Power.reset, enabled := (List.range 640).map fun c => c / 80 * 84 + c % 80, agenda := [], issue := none, clock := 0, free := 0
    nextId := 0 }

end Sys2Proof.Machine
end

