-- ==== Sys2Proof/Machine/Ops.lean ====
section
/-! DEFINITION. The named operations over the state: lookups and updates, registers, flags, guards, issue, traps (taking one
and returning from one), landings. -/

namespace Sys2Proof.Machine

/-! Lookups and updates. -/

/-- The thread of this uid. -/
def State.thread? (s : State) (uid : Nat) : Option Thread := s.threads.find? (·.uid == uid)
/-- The wave of this wid. -/
def State.wave? (s : State) (wid : Nat) : Option Wave := s.waves.find? (·.wid == wid)
/-- Workgroup idx of launch lnum. -/
def State.wg? (s : State) (lnum idx : Nat) : Option Wg := s.wgs.find? fun g => g.lnum == lnum && g.idx == idx
/-- The launch of this number. -/
def State.launch? (s : State) (lnum : Nat) : Option Launch := s.launches.find? (·.lnum == lnum)
/-- A core's state; one never touched is as at reset. -/
def State.core (s : State) (c : Nat) : CoreSt := ((s.cores.find? (·.1 == c)).map (·.2)).getD CoreSt.reset

/-- Changes the threads of these uids. -/
def State.modThreads (s : State) (uids : List Nat) (f : Thread → Thread) : State :=
  { s with threads := s.threads.map fun t => if uids.contains t.uid then f t else t }
/-- Changes one thread. -/
def State.modThread (s : State) (uid : Nat) (f : Thread → Thread) : State :=
  { s with threads := s.threads.map fun t => if t.uid == uid then f t else t }
/-- Changes one wave. -/
def State.modWave (s : State) (wid : Nat) (f : Wave → Wave) : State :=
  { s with waves := s.waves.map fun w => if w.wid == wid then f w else w }
/-- Changes one workgroup. -/
def State.modWg (s : State) (lnum idx : Nat) (f : Wg → Wg) : State :=
  { s with wgs := s.wgs.map fun g => if g.lnum == lnum && g.idx == idx then f g else g }
/-- Changes one launch. -/
def State.modLaunch (s : State) (lnum : Nat) (f : Launch → Launch) : State :=
  { s with launches := s.launches.map fun l => if l.lnum == lnum then f l else l }
/-- Sets a core's state. -/
def State.setCore (s : State) (c : Nat) (x : CoreSt) : State :=
  { s with cores := if s.cores.any (·.1 == c) then s.cores.map fun p => if p.1 == c then (c, x) else p
                    else s.cores ++ [(c, x)] }
/-- Changes one core. -/
def State.modCore (s : State) (c : Nat) (f : CoreSt → CoreSt) : State := s.setCore c (f (s.core c))

/-- Takes the next free value (log 6). -/
def State.takeFree (s : State) : DWord × State := (Config.freeWord s.free, { s with free := s.free + 1 })

/-- The wave of a thread. -/
def State.waveOf (s : State) (t : Thread) : Option Wave := s.wave? t.wid
/-- The workgroup of a thread. -/
def State.wgOf (s : State) (t : Thread) : Option Wg := (s.waveOf t).bind fun w => s.wg? w.lnum w.wg
/-- TRAPEN of a thread's kernel (R41). -/
def State.trapen (s : State) (t : Thread) : Word := ((s.wgOf t).map (·.hdr.trapen)).getD 0
/-- Whether a thread runs in a deterministic kernel (R270). -/
def State.isDet (s : State) (t : Thread) : Bool := ((s.wgOf t).map (·.hdr.det)).getD false
/-- Whether a core runs the control profile (R35, R373): workers at 672 and up, the ridge pair at 688. -/
def isControl (core : Nat) : Bool := 672 ≤ core

/-! Registers (R48, R49). -/

/-- A v register; 255 is vz (R48). -/
def Thread.reg (t : Thread) (r : Reg) : VReg := if r == 255 then VReg.zero else t.v.getD r.toNat VReg.zero
/-- The value of a v register. -/
def Thread.val (t : Thread) (r : Reg) : Word := (t.reg r).val
/-- A pair: low half in the even register (R48). -/
def Thread.pair (t : Thread) (r : Reg) : DWord := (t.val (if r == 255 then r else r + 1) ++ t.val r : BitVec 64)
/-- An operand of one register or a pair, zero-extended. -/
def Thread.opnd (t : Thread) (w64 : Bool) (r : Reg) : DWord := if w64 then t.pair r else (t.val r).setWidth 64
/-- An absent register reads as vz (R77). -/
def Thread.optReg (t : Thread) (r : Option Reg) : VReg := t.reg (r.getD 255)
/-- See `Thread.optReg`. -/
def Thread.optVal (t : Thread) (r : Option Reg) : Word := (t.optReg r).val
/-- See `Thread.optReg`. -/
def Thread.optPair (t : Thread) (r : Option Reg) : DWord := t.pair (r.getD 255)
/-- A predicate; 127 is pt (R30). -/
def Thread.pred (t : Thread) (r : Nat) : Bool := r == 127 || t.preds.getLsbD r
/-- Writes v registers; a number past the file is vz and discards (R48). -/
def writeRegs (v : List VReg) (ws : List (Nat × VReg)) : List VReg := ws.foldl (fun v w => v.set w.1 w.2) v
/-- Writes predicates; pt discards (R32). -/
def writePreds (p : BitVec 96) (ws : List (Nat × Bool)) : BitVec 96 :=
  ws.foldl (fun p w => if w.1 < 96 then
    (if w.2 then p ||| (1#96 <<< w.1) else p &&& ~~~(1#96 <<< w.1)) else p) p

/-- One register with a tag and side scale; vz is discarded. -/
def wr1 (d : Reg) (v : Word) (tag : Byte) (scale : Byte := 0) : List (Nat × VReg) :=
  if d == 255 then [] else [(d.toNat, { val := v, tag := tag, scale := scale })]
/-- A pair, both registers with the same tag and side scale (R48). -/
def wr2 (d : Reg) (v : DWord) (tag : Byte) (scale : Byte := 0) : List (Nat × VReg) :=
  if d == 255 then [] else
    [(d.toNat, { val := v.setWidth 32, tag := tag, scale := scale }),
     (d.toNat + 1, { val := (v >>> 32).setWidth 32, tag := tag, scale := scale })]
/-- One register or a pair. -/
def wrw (w64 : Bool) (d : Reg) (v : DWord) (tag : Byte) (scale : Byte := 0) : List (Nat × VReg) :=
  if w64 then wr2 d v tag scale else wr1 d (v.setWidth 32) tag scale
/-- One predicate. -/
def wrp (p : Reg) (b : Bool) : List (Nat × Bool) := [(p.toNat, b)]

/-! Flags (R28). -/

/-- Raises or lowers the count of a flag. -/
def Thread.flagAdd (t : Thread) (f : BitVec 4) : Thread :=
  if f == 15 then t else { t with flags := t.flags.modify f.toNat (· + 1) }
/-- See `Thread.flagAdd`. -/
def Thread.flagSub (t : Thread) (f : BitVec 4) : Thread :=
  if f == 15 then t else { t with flags := t.flags.modify f.toNat (· - 1) }
/-- A flag reads as set when its count is 0. -/
def Thread.flagSet (t : Thread) (f : Nat) : Bool := t.flags.getD f 0 == 0
/-- Every flag of a WAIT mask reads as set. -/
def Thread.waitOk (t : Thread) (w : BitVec 12) : Bool := (List.range 12).all fun i => !w.getLsbD i || t.flagSet i
/-- SETF would not raise a count above 63. -/
def Thread.setfRoom (t : Thread) (f : BitVec 4) : Bool := f == 15 || t.flags.getD f.toNat 0 < 63
/-- Falls the SETF of a set of threads. -/
def State.flagFall (s : State) (uids : List Nat) (f : BitVec 4) : State := s.modThreads uids (·.flagSub f)

/-! Guards (R30). -/

/-- The guard of an instruction for a thread. -/
def Thread.guard (t : Thread) (c : Ctl) : Bool :=
  let g0 := t.pred c.g0.idx.toNat != c.g0.neg
  let g1 := t.pred c.g1.idx.toNat != c.g1.neg
  match c.gcomb with
  | .single => g0
  | .conj => g0 && g1
  | .disj => g0 || g1
  | .excl => g0 != g1

/-! Traps (R33, R74, R215, R273). -/

/-- A trap cause with its CODE (R215). -/
structure Cause where
  cause : Byte
  code : Byte := 0
  deriving DecidableEq, Repr

/-- The cause of a decode trap (R33). -/
def DecodeErr.cause : DecodeErr → Byte
  | .fetchAlign => 0x01
  | .illegalLength => 0x02
  | .fetchCross => 0x03
  | .illegalOpcode => 0x04
  | .illegalEncoding => 0x05
  | .illegalOperand => 0x06
  | .illegalModifier => 0x07
  | .roleViolation => 0x08
  | .privilege => 0x09
  | .cut => 0x03

/-- Causes by name. -/
def cIllegalOperand : Cause := { cause := 0x06 }
def cIllegalModifier : Cause := { cause := 0x07 }
def cPrivilege : Cause := { cause := 0x09 }
def cTagMismatch : Cause := { cause := 0x10 }
def cParamInvalid : Cause := { cause := 0x11 }
def cBadTarget : Cause := { cause := 0x12 }
def cCollMismatch : Cause := { cause := 0x13 }
def cCollMigrated : Cause := { cause := 0x14 }
def cDirAlign : Cause := { cause := 0x15 }
def cMigratedSync : Cause := { cause := 0x16 }
def cMatrixOperand : Cause := { cause := 0x17 }
def cMatrixOwner : Cause := { cause := 0x18 }
def cDet (code : Byte) : Cause := { cause := 0x19, code := code }
def cMemAlign : Cause := { cause := 0x1A }
def cTensorOperand : Cause := { cause := 0x1B }
def cEngineOperand : Cause := { cause := 0x1C }
def cBarrierOperand : Cause := { cause := 0x1D }
def cBarrierPoison : Cause := { cause := 0x1E }
def cYealmInvalid : Cause := { cause := 0x1F }
def cSoftware (code : Byte) : Cause := { cause := 0x30, code := code }
def cBadAddress : Cause := { cause := 0x31 }
def cLockState : Cause := { cause := 0x32 }
def cTicketState : Cause := { cause := 0x33 }
def cAtomicSpace : Cause := { cause := 0x34 }
def cSysreg : Cause := { cause := 0x35 }
def cWorkState : Cause := { cause := 0x36 }
def cMemFatal : Cause := { cause := 0x37 }
def cHalted : Cause := { cause := 0x38 }
def cYealmWindow : Cause := { cause := 0x39 }
def cMatrixIntegrity : Cause := { cause := 0x40 }
def cMatrixAccEcc : Cause := { cause := 0x41 }
def cMemUe : Cause := { cause := 0x42 }
def cVaultUe : Cause := { cause := 0x43 }

/-- The lowest TRAPEN condition among these sticky bits, as a data-trap cause 0x20 to 0x29 (R74, log 11). -/
def dataCause (hit : Word) : Option Cause :=
  ((List.range 10).find? fun i => hit.getLsbD i).map fun i => { cause := BitVec.ofNat 8 (0x20 + i) }

/-- WORKID and LAUNCH of a thread's trap record (R215). -/
def State.trapIds (s : State) (t : Thread) : DWord × Word :=
  match s.waveOf t with
  | some w => ((w.cur.map (·.id)).getD (BitVec.allOnes 64), BitVec.ofNat 32 w.lnum)
  | none => (BitVec.allOnes 64, 0)

/-- The trap record of a thread (R215). -/
def Thread.record (t : Thread) (ids : DWord × Word) (c : Cause) (ilen : Nat) (pc : DWord) : TrapRec :=
  { cause := c.cause, code := c.code, ilen := ilen, pc := pc, workid := ids.1, launch := ids.2, sticky := t.sticky }

/-- Taking a trap (R215, R273): the thread stops where it stands, its record waits to be posted, it is held no longer and
counts as arrived nowhere. A data trap happens at `due`, once the results are written (R74): until then the thread issues nothing,
and its record is not posted. -/
def Thread.trap (t : Thread) (ids : DWord × Word) (c : Cause) (ilen : Nat) (pc : DWord) (due : Nat := 0) : Thread :=
  { t with status := .stopped { t.record ids c ilen pc with due := due } false, hold := .free, pc := pc }

/-- A trap of each of these threads at its own program counter. Convergence registers count them as not arrived. -/
def State.trapAll (s : State) (uids : List Nat) (c : Cause) (ilen : Nat) : State :=
  { s with threads := s.threads.map fun t =>
             if uids.contains t.uid then t.trap (s.trapIds t) c ilen t.pc else t
           cores := s.cores.map fun p => (p.1, { p.2 with k := p.2.k.map fun k =>
             { k with arrived := k.arrived.filter fun u => !uids.contains u } }) }

/-- The flag counts that a trap left to its TRET (R277). -/
def Status.drop : Status → List (BitVec 4)
  | .stopped r _ => r.drop
  | _ => []

/-- The return from a trap (R216, R26, R277): the flag counts of discarded accesses are removed, and the thread runs at pc with its
stall elapsed. -/
def Thread.resume (t : Thread) (pc : DWord) : Thread :=
  { t.status.drop.foldl (fun (t : Thread) f => t.flagSub f) t with status := .live, pc := pc, hold := .free, lastIssue := none }

/-! Issue. -/

/-- What an instruction does in one lane: registers and predicates written at its latency, conditions, and the next program
counter if not the following instruction. -/
structure LaneOut where
  regs : List (Nat × VReg) := []
  preds : List (Nat × Bool) := []
  sticky : Word := 0
  pc : Option DWord := none
  deriving DecidableEq, Repr

/-- A lane's outcome: a trap before any effect, or its writes. -/
abbrev LaneRes := Except Cause LaneOut

/-- The thread has issued: its stall starts, it is counted (R218), and its program counter moves (R255). -/
def Thread.issued (t : Thread) (now : Nat) (pc : DWord) (yielded : Bool := false) : Thread :=
  { t with lastIssue := some now, retired := t.retired + 1, pc := pc, yielded := yielded, hold := .free, ready := none }

/-- The address after an instruction. -/
def Thread.nextPc (t : Thread) (c : Ctl) : DWord := t.pc + BitVec.ofNat 64 c.len.bytes

/-- A guarded-off thread: it issues and nothing else happens (R29). -/
def Thread.skip (t : Thread) (now : Nat) (c : Ctl) : Thread := t.issued now (t.nextPc c)

/-- Adds a fixed-latency result of `lat` ac (R27, R28, R79): it lands, and SETF falls, then. An instruction without a
latency is complete at its issue, so its SETF rises and falls in the same ac. -/
def Thread.land (t : Thread) (now lat : Nat) (c : Ctl) (regs : List (Nat × VReg)) (preds : List (Nat × Bool)) : Thread :=
  if lat == 0 then t
  else { t.flagAdd c.setf with
    pend := t.pend ++ [{ due := now + lat * Config.ac, regs := regs, preds := preds
                         flag := if c.setf == 15 then none else some c.setf.toNat }] }

/-- One lane of a fixed-latency instruction, `lat` ac (R29, R74, R79, R400): guarded off, trapped before any effect, or
issued, with a data trap after its results when TRAPEN asks for one. -/
def State.issueLane (s : State) (c : Ctl) (lat : Nat) (f : Thread → LaneRes) (t : Thread) : Thread :=
  if !t.guard c then t.skip s.clock c
  else
    match f t with
    | .error e => t.trap (s.trapIds t) e c.len.bytes t.pc
    | .ok o =>
      let t1 := ((t.issued s.clock (o.pc.getD (t.nextPc c))).land s.clock lat c o.regs o.preds)
      let t2 := { t1 with sticky := t1.sticky ||| o.sticky }
      match dataCause (o.sticky &&& s.trapen t) with
      | some e => { t2.trap (s.trapIds t) e c.len.bytes t.pc (s.clock + lat * Config.ac) with retired := t.retired }
      | none => t2

/-- The threads of the issue. -/
def State.issueUids (s : State) : List Nat := (s.issue.map (·.uids)).getD []

/-- The threads of the issue whose guard is true, in its order. -/
def State.onUids (s : State) (c : Ctl) : List Nat :=
  s.issueUids.filter fun u => match s.thread? u with | some t => t.guard c | none => false

/-- The threads of the issue, in its order. -/
def State.group (s : State) : List Thread := s.issueUids.filterMap s.thread?

/-- A thread as its next instruction reads it (R27): of every register and predicate that an earlier fixed-latency instruction has still to
write, that instruction may read the new value already; which one is a free value (log 40). -/
def Thread.early (t : Thread) (free : Nat) : Thread :=
  let ps := t.pend.filter (!·.answer)
  let rs := ps.flatMap (·.regs)
  let bs := ps.flatMap (·.preds)
  let seen (k : Nat) : Bool := (Config.freeWord (free + k)).getLsbD 0
  { t with v := writeRegs t.v (((List.range rs.length).zip rs).filterMap fun x => if seen x.1 then some x.2 else none)
           preds := writePreds t.preds (((List.range bs.length).zip bs).filterMap fun x => if seen (rs.length + x.1) then some x.2 else none) }

/-- The registers and predicates that a thread's fixed-latency instructions have still to write. -/
def Thread.unwritten (t : Thread) : Nat :=
  (t.pend.filter (!·.answer)).foldl (fun n p => n + p.regs.length + p.preds.length) 0

/-- The threads of the issue as they read their registers (R27); in a deterministic launch no thread reads early (R271). -/
def State.earlyReads (s : State) : State :=
  s.group.foldl (fun s t => if t.unwritten == 0 || s.isDet t then s
    else { s with free := s.free + t.unwritten }.modThread t.uid (·.early s.free)) s

/-- The issue is over. -/
def State.issueDone (s : State) : State := { s with issue := none }

/-- A fixed-latency instruction over the issue group (R79): every lane on its own. -/
def State.issueAll (s : State) (c : Ctl) (lat : Nat) (f : Thread → LaneRes) : State :=
  { s with issue := none
           threads := s.threads.map fun t => if s.issueUids.contains t.uid then s.issueLane c lat f t else t }

/-! Wave-collective instructions (R106). -/

/-- Inserts into a list sorted by a key, after equal keys. -/
def insertBy {α : Type} (key : α → Nat) (x : α) : List α → List α
  | [] => [x]
  | y :: ys => if key x < key y then x :: y :: ys else y :: insertBy key x ys

/-- A list sorted by a key; equal keys keep their order. -/
def sortBy {α : Type} (key : α → Nat) (xs : List α) : List α := xs.foldl (fun acc x => insertBy key x acc) []

/-- The live threads of a wave, in ascending lane order. -/
def State.liveOf (s : State) (wid : Nat) : List Thread :=
  sortBy (·.loc.lane) (s.threads.filter fun t => t.wid == wid && t.status != .exited)

/-- Arrival at the collective point: the threads are held there. One in a landing slot traps (R106, R207), or passes the
instruction when it is guarded off, since such a thread takes no trap but those R29 names (log 105). -/
def State.arrive (s : State) (c : Ctl) : State :=
  let mig := s.group.filter (·.home.isSome)
  let on := mig.filter (·.guard c)
  let off := mig.filter fun t => !t.guard c
  let s1 := (s.trapAll (on.map (·.uid)) cCollMigrated c.len.bytes).modThreads (off.map (·.uid)) (·.skip s.clock c)
  let rest := s.issueUids.filter fun u => !mig.any (·.uid == u)
  { s1.modThreads rest (fun t => { t with hold := .collective, setf := c.setf, ilen := c.len.bytes }) with issue := none }

/-- A wave-collective instruction: the group arrives, or, when the collective issues for the whole wave, acts by `f` on the
arrived threads in lane order. -/
def State.collective (s : State) (c : Ctl) (f : List Thread → State → State) : State :=
  match s.issue with
  | none => s
  | some g =>
    match g.kind with
    | .wave => (f s.group { s with issue := none })
    | _ => s.arrive c

/-- Threads whose guard is true (R106). -/
def participants (c : Ctl) (ts : List Thread) : List Thread := ts.filter (·.guard c)

/-- The scalar lane: the lowest-numbered participant (R114). -/
def scalarLane (c : Ctl) (ts : List Thread) : Option Thread := (participants c ts).head?

/-- Ends a collective for its threads with per-lane results, or traps every participant (R106, R107, R400). The sticky bits
are set in every live thread of the wave (R51), and a data trap stops each participant in which a condition arose; a guarded-off
thread takes none (R29, log 105). -/
def State.collectiveEnd (s : State) (c : Ctl) (lat : Nat) (ts : List Thread) (r : Except Cause (Thread → LaneOut))
    (sticky : Word) : State :=
  let uids := ts.map (·.uid)
  { s with threads := s.threads.map fun t =>
      if !uids.contains t.uid then t
      else if !t.guard c then
        let t1 := t.skip s.clock c
        { t1 with sticky := t1.sticky ||| sticky }
      else
        match r with
        | .error e => t.trap (s.trapIds t) e c.len.bytes t.pc
        | .ok f => s.issueLane c lat (fun x => .ok { f x with sticky := (f x).sticky ||| sticky }) t }

/-! Landings. -/

/-- Lands the results of a thread that are due (R27, R79). -/
def Thread.landDue (t : Thread) (now : Nat) : Thread :=
  let due := t.pend.filter (·.due ≤ now)
  let t1 := due.foldl (fun t p => { t with v := writeRegs t.v p.regs, preds := writePreds t.preds p.preds
                                           flags := match p.flag with
                                             | some f => t.flags.modify f (· - 1)
                                             | none => t.flags }) t
  { t1 with pend := t.pend.filter fun p => now < p.due }

end Sys2Proof.Machine
end

