-- ==== Sys2Proof/Machine/Special.lean ====
section
/-! DEFINITION. The correctly rounded functions of R99 and the logarithms and powers of the directional class (R119, R122,
R124, R126). A value is enclosed in fixed point at growing precisions until its rounding is decided; where no precision
tried decides it, the result is a free value (log 7). Fixed point: an integer v at precision p stands for v times 2^-p. -/

namespace Sys2Proof.Machine

/-- An enclosure lo ≤ y times 2^p ≤ hi. -/
structure Encl where
  p : Nat
  lo : Int
  hi : Int
  deriving DecidableEq, Repr

/-- Sum of the odd-power series z + z^3/3 + z^5/5 ... at this precision, with alternating signs when `alt`. -/
def oddSeries (p : Nat) (z2 : Nat) (alt : Bool) : Nat → Nat → Nat → Int → Int
  | 0, _, _, acc => acc
  | fuel + 1, pw, k, acc =>
    let t : Int := (pw / (2 * k + 1) : Nat)
    let acc1 := if alt && k % 2 == 1 then acc - t else acc + t
    oddSeries p z2 alt fuel (pw * z2 / 2 ^ p) (k + 1) acc1

/-- atanh or atan of z, given in fixed point at precision p. -/
def oddSum (p : Nat) (z : Nat) (alt : Bool) (fuel : Nat) : Int := oddSeries p (z * z / 2 ^ p) alt fuel z 0 0

/-- ln 2 at precision p, within 2p + 8 units. -/
def ln2Fix (p : Nat) : Nat := (2 * oddSum p (2 ^ p / 3) false (p / 3 + 4)).toNat

/-- pi at precision p, within 40p units (Machin). -/
def piFix (p : Nat) : Nat :=
  (16 * oddSum p (2 ^ p / 5) true (p / 4 + 4) - 4 * oddSum p (2 ^ p / 239) true (p / 15 + 4)).toNat

/-- Sum of r^n / n! from the given term on. -/
def expSeries (p r : Nat) : Nat → Nat → Nat → Nat → Nat
  | 0, _, _, acc => acc
  | fuel + 1, t, n, acc => expSeries p r fuel (t * r / 2 ^ p / (n + 1)) (n + 1) (acc + t)

/-- e^r for 0 ≤ r < 1, at precision p, within p + 64 units. -/
def expFix (p r : Nat) : Nat := expSeries p r (p / 4 + 40) (2 ^ p) 0 0

/-- Alternating series of cosine (from term 1, n = 0) and sine (from term r, n = 1). -/
def trigSeries (p r2 : Nat) : Nat → Nat → Nat → Int → Bool → Int
  | 0, _, _, acc, _ => acc
  | fuel + 1, t, n, acc, neg =>
    trigSeries p r2 fuel (t * r2 / 2 ^ p / ((n + 1) * (n + 2))) (n + 2) (if neg then acc - t else acc + t) (!neg)

/-- cos r for 0 ≤ r ≤ 1 at precision p. -/
def cosFix (p r : Nat) : Int := trigSeries p (r * r / 2 ^ p) (p / 6 + 20) (2 ^ p) 0 0 false
/-- sin r for 0 ≤ r ≤ 1 at precision p. -/
def sinFix (p r : Nat) : Int := trigSeries p (r * r / 2 ^ p) (p / 6 + 20) r 1 0 false

/-- An enclosure at precision p of a value computed at precision p + 64 with an error below 2^48 units. -/
def enclose (p : Nat) (v : Int) : Encl := { p := p, lo := v / 2 ^ 64 - 1, hi := v / 2 ^ 64 + 2 }

/-- 2^f for a fraction f = n / d with 0 ≤ n < d. -/
def enclExp2 (p n d : Nat) : Encl :=
  let q := p + 64
  enclose p (expFix q (ln2Fix q * n / d))

/-- e^-t for t = n / d > 0, t ≤ 400. -/
def expNeg (q n d : Nat) : Nat :=
  let l := ln2Fix q
  let t := n * 2 ^ q / d
  let j := t / l
  2 ^ q * 2 ^ q / expFix q (t - j * l) / 2 ^ j

/-- log2 of n / d > 0. -/
def enclLog2 (p n d : Nat) : Encl :=
  let q := p + 64
  let e := (magOf n d).e
  -- m = (n / d) / 2^e lies in [1, 2); z = (m - 1) / (m + 1)
  let a := if 0 ≤ e then n else n * 2 ^ (-e).toNat
  let b := if 0 ≤ e then d * 2 ^ e.toNat else d
  let z := (a - b) * 2 ^ q / (a + b)
  let l := 2 * oddSum q z false (q / 3 + 4)
  enclose p (e * 2 ^ q + l * 2 ^ q / (ln2Fix q : Int))

/-- Rounds a quotient of naturals to the nearest natural, ties away. -/
def nearest (a b : Nat) : Nat := (2 * a + b) / (2 * b)

/-- sin (sine true) or cos of plus or minus n / d. -/
def enclTrig (sine : Bool) (p : Nat) (neg : Bool) (n d : Nat) : Encl :=
  let q := p + 64
  let g := q + 160
  let pi := piFix g
  let x := n * 2 ^ g / d
  let k := nearest (2 * x) pi
  let r : Int := (x : Int) - (k * pi / 2 : Nat)
  let ra := r.natAbs / 2 ^ 160
  let rn := decide (r < 0)
  let s := if rn then -sinFix q ra else sinFix q ra
  let c := cosFix q ra
  -- sin (r + k pi/2), cos (r + k pi/2)
  let v := match (k + if sine then 0 else 1) % 4 with
    | 0 => s
    | 1 => c
    | 2 => -s
    | _ => -c
  enclose p (if sine && neg then -v else v)

/-- tanh of n / d > 0, at most 200. -/
def enclTanh (p n d : Nat) : Encl :=
  let q := p + 64
  let e := expNeg q (2 * n) d
  enclose p (((2 ^ q - e) * 2 ^ q / (2 ^ q + e) : Nat) : Int)

/-- 1 / (1 + e^-x) of plus or minus n / d, at most 200. -/
def enclSigm (p : Nat) (neg : Bool) (n d : Nat) : Encl :=
  let q := p + 64
  let e := expNeg q n d
  enclose p (((if neg then e * 2 ^ q / (2 ^ q + e) else 2 ^ q * 2 ^ q / (2 ^ q + e)) : Nat) : Int)

/-- The magnitude an enclosure of an irrational value gives, none where even its binade is open. -/
def Encl.mag (c : Encl) : Option (Bool × Mag) :=
  let neg := decide (c.hi < 0)
  let lo := if neg then (-c.hi).toNat else c.lo.toNat
  let hi := if neg then (-c.lo).toNat else c.hi.toNat
  if lo == 0 || Nat.log2 lo != Nat.log2 hi then none
  else some (neg,
    { e := (Nat.log2 lo : Int) - c.p
      fl := fun k =>
        let s := (c.p : Int) - k
        if s < 0 then none
        else
          let a := lo / 2 ^ s.toNat
          if a == hi / 2 ^ s.toNat then some (a, false) else none })

/-- A magnitude times 2^k. -/
def Mag.shift (y : Mag) (k : Int) : Mag := { e := y.e + k, fl := fun j => y.fl (j + k) }

/-- The precisions tried. -/
def precisions : List Nat := [96, 256, 700, 1400]

/-- The first precision that decides a rounding. -/
def decideAt {α : Type} (enc : Nat → Option (Bool × Mag)) (f : Bool → Mag → Option α) : Option α :=
  precisions.findSome? fun p => (enc p).bind fun (neg, y) => f neg y

/-- A value just below 1 or just above 0, whose distance no format of R56 resolves. -/
def magNearOne : Mag := { e := -1, fl := fun k => if 0 ≤ k then some (2 ^ k.toNat - 1, false) else some (0, false) }
/-- See `magNearOne`. -/
def magTiny : Mag := { e := -1000, fl := fun k => if k < 1000 then some (0, false) else some (2 ^ (k - 1000).toNat, false) }
/-- A value above every format's range. -/
def magHuge : Mag := { e := 1000, fl := fun k => if 0 ≤ 1000 + k then some (2 ^ (1000 + k).toNat, false) else some (0, false) }

/-- The special functions of R99. -/
inductive SFun where
  | rcp | rsq | sqrt | exp2 | log2 | sin | cos | tanh | sigm
  deriving DecidableEq, Repr

/-- The rounded result of a positive or negative magnitude; `Config.freeResult` where no precision decides it (log 7). -/
def FFmt.special (f : FFmt) (mode : Rm) (theta : Nat) (enc : Nat → Option (Bool × Mag)) (key : Nat) : Nat × Word :=
  match decideAt enc (fun neg y => f.roundMag y mode neg theta) with
  | some r => r
  | none => ((Config.freeResult key).toNat % 2 ^ f.width, stINX)

/-- A magnitude that is known outright. -/
def known (neg : Bool) (y : Mag) : Nat → Option (Bool × Mag) := fun _ => some (neg, y)

/-- Whether n / d ≤ k. -/
def atMost (n d k : Nat) : Bool := n ≤ k * d

/-- The function of a special instruction on one element (R99): the pattern and the conditions. -/
def FFmt.sfun (f : FFmt) (g : SFun) (x : XVal) (mode : Rm) (theta : Nat) (key : Nat) : Nat × Word :=
  let nan : Nat × Word := (f.nanPat, stINV)
  let zero (neg : Bool) : Nat × Word := (f.signed neg 0, 0)
  let infty (neg : Bool) : Nat := f.signed neg f.infPat
  let one : Nat × Word := f.round (.num false 1 1) mode theta
  match x with
  | .nan s => (f.nanPat, if s then stINV else 0)
  | .inf neg =>
    match g with
    | .rcp => zero neg
    | .rsq => if neg then nan else zero false
    | .sqrt => if neg then nan else (infty false, 0)
    | .exp2 => if neg then zero false else (infty false, 0)
    | .log2 => if neg then nan else (infty false, 0)
    | .sin => nan
    | .cos => nan
    | .tanh => f.round (.num neg 1 1) mode theta
    | .sigm => if neg then zero false else one
  | .num neg n d =>
    if n == 0 then
      match g with
      | .rcp => (infty neg, stDZE)
      | .rsq => (infty neg, stDZE)
      | .sqrt => zero neg
      | .exp2 => one
      | .log2 => (infty true, stDZE)
      | .sin => zero neg
      | .cos => one
      | .tanh => zero neg
      | .sigm => f.round (.num false 1 2) mode theta
    else
      match g with
      | .rcp => f.round (.num neg d n) mode theta
      | .rsq => if neg then nan else f.special mode theta (known false (magSqrt d n)) key
      | .sqrt => if neg then nan else f.special mode theta (known false (magSqrt n d)) key
      | .exp2 =>
        if !atMost n d 800 then f.special mode theta (known false (if neg then magTiny else magHuge)) key
        else
          let v : Int := if neg then -(n : Int) else n
          let i := v / (d : Int)
          let r := (v % (d : Int)).toNat
          if r == 0 then f.round (scaled false 1 i) mode theta
          else f.special mode theta (fun p => (enclExp2 p r d).mag.map fun (s, y) => (s, y.shift i)) key
      | .log2 =>
        if neg then nan
        else
          let e := (magOf n d).e
          if scaled false 1 e == .num false n d || (if 0 ≤ e then n == d * 2 ^ e.toNat else n * 2 ^ (-e).toNat == d) then
            f.round (.ofInt e) mode theta
          else f.special mode theta (fun p => (enclLog2 p n d).mag) key
      | .sin => f.special mode theta (fun p => (enclTrig true p neg n d).mag) key
      | .cos => f.special mode theta (fun p => (enclTrig false p neg n d).mag) key
      | .tanh =>
        if !atMost n d 200 then f.special mode theta (known neg magNearOne) key
        else f.special mode theta (fun p => (enclTanh p n d).mag.map fun (_, y) => (neg, y)) key
      | .sigm =>
        if !atMost n d 200 then f.special mode theta (known false (if neg then magTiny else magNearOne)) key
        else f.special mode theta (fun p => (enclSigm p neg n d).mag) key

/-- RNE of 2^22 times log2 s, for an integer or fraction s = n / d (R119). -/
def log2Units (n d : Nat) : Option Int :=
  let e := (magOf n d).e
  if (if 0 ≤ e then n == d * 2 ^ e.toNat else n * 2 ^ (-e).toNat == d) then some (e * 2 ^ 22)
  else precisions.findSome? fun p =>
    let c := enclLog2 p n d
    let half (v : Int) : Int := (v * 2 ^ 23 / 2 ^ p + 1) / 2
    if half c.lo == half c.hi then some (half c.lo) else none

/-- RNE of 2^16 times 2^-(k times 2^-23), for k ≥ 0 (R126). -/
def rhoUnits (k : Nat) : Option Nat :=
  let i := k / 2 ^ 23
  let r := k % 2 ^ 23
  if 40 ≤ i then some 0
  else if r == 0 then some (if i ≤ 16 then 2 ^ (16 - i) else 0)
  else precisions.findSome? fun p =>
    let c := enclExp2 p (2 ^ 23 - r) (2 ^ 23)
    let half (v : Int) : Int := (v * 2 ^ 17 / 2 ^ (p + i + 1) + 1) / 2
    if half c.lo == half c.hi then some (half c.lo).toNat else none

/-- RoundToFormat of 2^(k times 2^-23) times x (R122, R124). -/
def FFmt.roundPow (f : FFmt) (k : Int) (x : XVal) (mode : Rm) (theta : Nat) (key : Nat) : Nat × Word :=
  match x with
  | .num neg n d =>
    if n == 0 then (f.signed neg 0, 0)
    else
      let i := k / 2 ^ 23
      let r := (k % 2 ^ 23).toNat
      if r == 0 then f.round (x.shift i) mode theta
      else f.special mode theta (fun p =>
        let c := enclExp2 p r (2 ^ 23)
        -- times n / d, kept at precision p
        ({ p := p, lo := c.lo * n / d, hi := c.hi * n / d + 1 } : Encl).mag.map fun (_, y) => (neg, y.shift i)) key
  | _ => f.round x mode theta

end Sys2Proof.Machine
end

