-- ==== Sys2Proof/Machine/Operands.lean ====
section
/-! DEFINITION. Source operands: format tags and their resolution (R52 to R55), packed elements (R58, R59), second sources and
immediates (R75, R76, R94), dither coordinates (R78). -/

namespace Sys2Proof.Machine

/-! Tags (R52). -/

def tagRAW : Byte := 0x00
def tagINT : Byte := 0x01
def tagI16 : Byte := 0x02
def tagI8 : Byte := 0x03
def tagF32 : Byte := 0x10
def tagF16 : Byte := 0x11
def tagBF16 : Byte := 0x12
def tagE4M3 : Byte := 0x13
def tagE5M2 : Byte := 0x14

/-- A BFP tag (R52). -/
def tagIsBfp (t : Byte) : Bool := 0x22 ≤ t.toNat && t.toNat ≤ 0x28
/-- A reserved tag (R52). -/
def tagReserved (t : Byte) : Bool := !tagOk t.toNat

/-- Tag resolution (R53): RAW adopts, all RAW is the default, others must be equal, and the result must be accepted. -/
def resolveTags (dflt : Byte) (ok : Byte → Bool) (tags : List Byte) : Except Cause Byte :=
  if tags.any tagReserved then .error cTagMismatch
  else
    match tags.filter (· != tagRAW) with
    | [] => if ok dflt then .ok dflt else .error cTagMismatch
    | t :: ts => if ts.all (· == t) && ok t then .ok t else .error cTagMismatch

/-- The integer tags, INT alone with .64 (R88). -/
def okInt (w64 : Bool) (t : Byte) : Bool := t == tagINT || (!w64 && (t == tagI16 || t == tagI8))
/-- INT alone (R88, R92). -/
def okINT (t : Byte) : Bool := t == tagINT
/-- The tags of floating-point arithmetic (R94). -/
def okFloat (t : Byte) : Bool := t == tagF32 || t == tagF16 || t == tagBF16

/-- The tag of an operand, when it is a register. -/
def Thread.srcTags (t : Thread) (b : Src) : List Byte :=
  match b with
  | .reg r => [(t.reg r).tag]
  | .imm _ => []

/-! Elements (R58, R59). -/

/-- Width of an element of a tag, 64 with .64. -/
def elemWidth (tag : Byte) (w64 : Bool) : Nat :=
  if w64 then 64
  else if tag == tagI16 || tag == tagF16 || tag == tagBF16 then 16
  else if tag == tagI8 || tag == tagE4M3 || tag == tagE5M2 then 8
  else 32

/-- Elements of one register or pair. -/
def elemCount (tag : Byte) (w64 : Bool) : Nat := if w64 then 1 else 32 / elemWidth tag false

/-- The elements of a value. -/
def elems (w n : Nat) (v : DWord) : List Nat := (List.range n).map fun k => v.toNat / 2 ^ (w * k) % 2 ^ w

/-- Elements put together, element 0 lowest. -/
def packElems (w : Nat) (xs : List Nat) : DWord :=
  BitVec.ofNat 64 (xs.reverse.foldl (fun a x => a * 2 ^ w + x % 2 ^ w) 0)

/-- IMM20 sign-extended (R76). -/
def imm32 (v : BitVec 20) : Word := v.signExtend 32

/-- The elements of a second source under an integer tag (R76). -/
def Thread.srcElems (t : Thread) (b : Src) (tag : Byte) (w64 : Bool) : List Nat :=
  let w := elemWidth tag w64
  let n := elemCount tag w64
  match b with
  | .reg r => elems w n (t.opnd w64 r)
  | .imm v => List.replicate n ((v.signExtend 64).toNat % 2 ^ w)

/-- A second source as a bit pattern: a register or pair, or IMM20 sign-extended to the width (R76, R90). -/
def Thread.srcBits (t : Thread) (b : Src) (w64 : Bool) : DWord :=
  match b with
  | .reg r => t.opnd w64 r
  | .imm v => if w64 then v.signExtend 64 else (imm32 v).setWidth 64

/-- A 32-bit second source (R90, R109). -/
def Thread.srcWord (t : Thread) (b : Src) : Word :=
  match b with
  | .reg r => t.val r
  | .imm v => imm32 v

/-- The elements of a second source under a floating-point tag (R94): an F32 immediate is its low 16 bits in the upper half. -/
def Thread.srcFloat (t : Thread) (b : Src) (tag : Byte) : List Nat :=
  let w := elemWidth tag false
  let n := elemCount tag false
  match b with
  | .reg r => elems w n (t.opnd false r)
  | .imm v => if tag == tagF32 then [v.toNat % 2 ^ 16 * 2 ^ 16] else List.replicate n (v.toNat % 2 ^ 16)

/-- An element read signed or unsigned (R59). -/
def asInt (u : Bool) (w x : Nat) : Int := if u then (x % 2 ^ w : Nat) else signExt w x

/-- The format of a floating-point tag (R56). -/
def fmtOf (tag : Byte) : FFmt :=
  if tag == tagF16 then fmtF16 else if tag == tagBF16 then fmtBF16
  else if tag == tagE4M3 then fmtE4M3 else if tag == tagE5M2 then fmtE5M2 else fmtF32

/-- The dither coordinate of a coordinate register (R78). -/
def coord (c : Word) : Nat × Nat := (c.toNat % 16, c.toNat / 2 ^ 16 % 16)

/-- The dither threshold of element k at a coordinate register's value (R78). -/
def thetaAt (c : Word) (k : Nat) : Nat := dither (coord c).1 ((coord c).2 + k)

/-- The value of n consecutive registers, least significant first (R48); vz reads 0 in every width. -/
def Thread.wide (t : Thread) (r : Reg) (n : Nat) : Nat :=
  if r == 255 then 0
  else ((List.range n).reverse).foldl (fun a i => a * 2 ^ 32 + (t.v.getD (r.toNat + i) VReg.zero).val.toNat) 0

/-- A run of n registers shaped as R32 asks, by the thread's own register count: vz, or aligned and below NVREG. -/
def Thread.shapeOk (t : Thread) (r : Reg) (n : Nat) : Bool :=
  r == 255 || (r.toNat % n == 0 && r.toNat + n ≤ t.v.length)

/-- A run of n registers below NVREG, with no alignment (R103, R104, log 17). -/
def Thread.runOk (t : Thread) (r : Reg) (n : Nat) : Bool := r.toNat + n ≤ t.v.length

/-! Results. -/

/-- n consecutive registers with one tag and side scale (R48). -/
def wrn (d : Reg) (n v : Nat) (tag : Byte) (scale : Byte := 0) : List (Nat × VReg) :=
  if d == 255 then []
  else (List.range n).map fun i =>
    (d.toNat + i, { val := BitVec.ofNat 32 (v / 2 ^ (32 * i)), tag := tag, scale := scale })

/-- A result of one register or a pair, with its tag and side scale 0 (R54). -/
def outReg (w64 : Bool) (d : Reg) (v : DWord) (tag : Byte) : LaneOut := { regs := wrw w64 d v tag }

/-- Per-element results with their conditions, packed under a tag. -/
def outElems (d : Reg) (tag : Byte) (w64 : Bool) (xs : List (Nat × Word)) : LaneOut :=
  { regs := wrw w64 d (packElems (elemWidth tag w64) (xs.map (·.1))) tag
    sticky := xs.foldl (fun a x => a ||| x.2) 0 }

end Sys2Proof.Machine
end

