-- ==== Sys2Proof/Machine/Flags.lean ====
section
/-! DEFINITION. What instructions compute into predicates and THR.STICKY: integer and floating-point comparisons (R92, R96),
the class mask (R97), division conditions (R89), minimum and maximum (R95). -/

namespace Sys2Proof.Machine

/-- An integer comparison at width w (R92). -/
def icondHolds (c : ICond) (w x y : Nat) : Bool :=
  match c with
  | .eq => x == y
  | .ne => x != y
  | .lt => signExt w x < signExt w y
  | .le => signExt w x ≤ signExt w y
  | .gt => signExt w y < signExt w x
  | .ge => signExt w y ≤ signExt w x
  | .ltu => x < y
  | .leu => x ≤ y
  | .gtu => y < x
  | .geu => y ≤ x

/-- A floating-point comparison (R96): the predicate and INV. -/
def fcondHolds (c : FCond) (x y : XVal) : Bool × Word :=
  let nan := x.isNan || y.isNan
  let quiet : Word := if x.isSig || y.isSig then stINV else 0
  let loud : Word := if nan then stINV else 0
  match c with
  | .eq => (x.eqv y, quiet)
  | .ne => (nan || !x.eqv y, quiet)
  | .lt => (!nan && x.lt y, loud)
  | .le => (!nan && !y.lt x, loud)
  | .gt => (!nan && y.lt x, loud)
  | .ge => (!nan && !x.lt y, loud)
  | .num => (!nan, quiet)
  | .nan => (nan, quiet)

/-- FMIN and FMAX of two patterns (R95). -/
def FFmt.minmax (f : FFmt) (mx : Bool) (p q : Nat) : Nat × Word :=
  let x := f.decode p
  let y := f.decode q
  let st : Word := if x.isSig || y.isSig then stINV else 0
  let sp : Bool := p / 2 ^ (f.ebits + f.fbits) % 2 == 1
  -- x ranks below y; equal zeros by sign
  let below : Bool := x.lt y || (!y.lt x && sp)
  if x.isNan && y.isNan then (f.nanPat, st)
  else if x.isNan then (q, st)
  else if y.isNan then (p, st)
  else (if below != mx then p else q, st)

/-- The class mask of a pattern (R97). -/
def FFmt.classMask (f : FFmt) (p : Nat) : Nat :=
  let e := p / 2 ^ f.fbits % 2 ^ f.ebits
  match f.decode p with
  | .inf neg => if neg then 1 else 128
  | .nan s => if s then 256 else 512
  | .num neg n _ =>
    if n == 0 then (if neg then 8 else 16)
    else if e == 0 then (if neg then 4 else 32) else (if neg then 2 else 64)

/-- Quotient and remainder at width w with their condition (R89). -/
def idivrem (u : Bool) (w x y : Nat) : Nat × Nat × Word :=
  let a := asInt u w x
  let b := asInt u w y
  if b == 0 then (2 ^ w - 1, x, stDIVZ)
  else if !u && x == 2 ^ (w - 1) && b == -1 then (x, 0, stDIVOV)
  else (toBits w (a.tdiv b), toBits w (a.tmod b), 0)

end Sys2Proof.Machine
end

