-- ==== Sys2Proof/Machine/Convert.lean ====
section
/-! DEFINITION. Conversions, block formats and structured sparsity (R101 to R105). -/

namespace Sys2Proof.Machine

/-- Tag of an FCVT format (R101). -/
def cvtTag : CvtFmt → Byte
  | .f32 => tagF32
  | .f16 => tagF16
  | .bf16 => tagBF16
  | .e4m3 => tagE4M3
  | .e5m2 => tagE5M2
  | .s32 => tagINT
  | .u32 => tagINT
  | .s64 => tagINT
  | .u64 => tagINT
  | .s16 => tagI16
  | .u16 => tagI16
  | .s8 => tagI8
  | .u8 => tagI8

/-- Element width of an FCVT format (R101). -/
def cvtWidth : CvtFmt → Nat
  | .f32 => 32
  | .f16 => 16
  | .bf16 => 16
  | .e4m3 => 8
  | .e5m2 => 8
  | .s32 => 32
  | .u32 => 32
  | .s64 => 64
  | .u64 => 64
  | .s16 => 16
  | .u16 => 16
  | .s8 => 8
  | .u8 => 8

/-- Elements per register or pair (R101). -/
def cvtCount (f : CvtFmt) : Nat := if cvtWidth f == 64 then 1 else 32 / cvtWidth f

/-- The sign reading of an integer format: none for a floating-point one. -/
def cvtUnsigned : CvtFmt → Option Bool
  | .f32 => none
  | .f16 => none
  | .bf16 => none
  | .e4m3 => none
  | .e5m2 => none
  | .s32 => some false
  | .u32 => some true
  | .s64 => some false
  | .u64 => some true
  | .s16 => some false
  | .u16 => some true
  | .s8 => some false
  | .u8 => some true

/-- The source format a tag names (R101). -/
def cvtOfTag (t : Byte) : Option CvtFmt :=
  if t == tagRAW || t == tagF32 then some .f32
  else if t == tagF16 then some .f16
  else if t == tagBF16 then some .bf16
  else if t == tagE4M3 then some .e4m3
  else if t == tagE5M2 then some .e5m2
  else if t == tagINT then some .s32
  else if t == tagI16 then some .s16
  else if t == tagI8 then some .s8
  else none

/-- Decode of one element of an FCVT format (R73). -/
def cvtDecode (f : CvtFmt) (p : Nat) : XVal :=
  match cvtUnsigned f with
  | some u => .ofInt (asInt u (cvtWidth f) p)
  | none => (fmtOf (cvtTag f)).decode p

/-- One element written in an FCVT format (R102): rounded, narrowed with the bound, or saturated. -/
def cvtEncode (f : CvtFmt) (x : XVal) (rm : Rm) (theta : Nat) (bound : Word) : Nat × Word :=
  let w := cvtWidth f
  match cvtUnsigned f with
  | some u =>
    let lo : Int := if u then 0 else -((2 ^ (w - 1) : Nat) : Int)
    let hi : Int := if u then (2 ^ w : Nat) - 1 else (2 ^ (w - 1) : Nat) - 1
    let r := roundToInt x lo hi rm theta
    (toBits w r.1, r.2)
  | none =>
    let g := fmtOf (cvtTag f)
    if g.narrow then g.narrowTo x rm theta bound else g.round x rm theta

/-- A clamp bound R69 admits: finite, not negative but for -0.0, and at most the largest finite value given. -/
def boundOk (b : Word) (mx : Nat × Nat) : Bool :=
  match fmtF32.decode b.toNat with
  | .num neg n d => n == 0 || (!neg && fracLe n d mx.1 mx.2)
  | _ => false

/-- FCVT (R101, R102, R400). -/
def Thread.fcvt (t : Thread) (x : FCvt) : LaneRes :=
  let tag := (t.reg x.a).tag
  let src : Option CvtFmt := match x.sf with
    | none => cvtOfTag tag
    | some f => if tag == tagRAW || tag == cvtTag f then some f else none
  match src with
  | none => .error cTagMismatch
  | some sf =>
    let ns := cvtCount sf
    let nd := cvtCount x.df
    let k := min ns nd
    let e := x.e.toNat
    if max ns nd / k - 1 < e then .error cIllegalModifier
    else
      let bound := if x.cb then t.val x.b else 0
      if x.cb && !boundOk bound (fmtOf (cvtTag x.df)).maxFrac then .error cParamInvalid
      else
        let ws := cvtWidth sf
        let wd := cvtWidth x.df
        let xs := elems ws ns (t.opnd (ws == 64) x.a)
        let off := if nd < ns then e * k else 0
        let doff := if ns < nd then e * k else 0
        let rs := (List.range k).map fun j =>
          cvtEncode x.df (cvtDecode sf (xs.getD (off + j) 0)) x.rm (thetaAt (t.optVal x.c) (doff + j)) bound
        let old := elems wd nd (t.opnd (wd == 64) x.d)
        let new := old.zipIdx.map fun (o, i) => if doff ≤ i && i < doff + k then (rs.getD (i - doff) (0, 0)).1 else o
        .ok { regs := wrw (wd == 64) x.d (packElems wd new) (cvtTag x.df)
              sticky := rs.foldl (fun a r => a ||| r.2) 0 }

def execFcvt (c : Ctl) (x : FCvt) (s : State) : Host.Outcome State Fault Refusal :=
  .next (s.issueAll c 4 fun t => t.fcvt x)

/-- Elements of one register of a BFPm run (R61). -/
def bfpPer (m : Nat) : Nat := 32 / m

/-- A block's mantissas packed as the run of R61. -/
def bfpRun (d : Reg) (m e : Nat) (qs : List Int) : List (Nat × VReg) :=
  if d == 255 then []
  else (List.range ((32 + bfpPer m - 1) / bfpPer m)).map fun j =>
    let part := (qs.drop (j * bfpPer m)).take (bfpPer m)
    (d.toNat + j, { val := (packElems m (part.map (toBits m))).setWidth 32
                    tag := BitVec.ofNat 8 (0x20 + m), scale := BitVec.ofNat 8 e })

/-- The first n mantissas of a BFPm run (R61). -/
def Thread.bfpMants (t : Thread) (r : Reg) (m n : Nat) : List Int :=
  (List.range n).map fun i =>
    signExt m ((t.v.getD (r.toNat + i / bfpPer m) VReg.zero).val.toNat / 2 ^ (m * (i % bfpPer m)))

/-- BFPPACK (R103): the tag of va alone resolves. -/
def Thread.bfppack (t : Thread) (x : BfpPack) : LaneRes :=
  match resolveTags tagF32 okFloat [(t.reg x.a).tag] with
  | .error e => .error e
  | .ok tag =>
    let m := x.m.val + 2
    let per := elemCount tag false
    if !t.runOk x.a (32 / per) then .error cIllegalOperand
    else
      let bound := t.val x.b
      if !boundOk bound (bfpMax m) then .error cParamInvalid
      else
        let xs := (List.range 32).map fun i =>
          let r := (t.v.getD (x.a.toNat + i / per) VReg.zero).val.toNat
          let p := r / 2 ^ (elemWidth tag false * (i % per)) % 2 ^ elemWidth tag false
          ((fmtOf tag).decode p, thetaAt (t.optVal x.c) i)
        let r := bfpEncode xs m x.rm bound
        .ok { regs := bfpRun x.d m r.1 r.2.1, sticky := r.2.2 }

def execBfppack (c : Ctl) (x : BfpPack) (s : State) : Host.Outcome State Fault Refusal :=
  .next (s.issueAll c 16 fun t => t.bfppack x)

/-- Tag of a destination of DUNPK and BFPUNPK (R104, R113). -/
def f3Tag : F3 → Byte
  | .f32 => tagF32
  | .f16 => tagF16
  | .bf16 => tagBF16

/-- BFPUNPK (R104). The element -2^(m-1) with E = 0xFE is -2^128, which no F32 holds: it rounds as R70 rounds it (log 120). -/
def Thread.bfpunpk (t : Thread) (x : BfpUnpk) : LaneRes :=
  let a := t.reg x.a
  if !tagIsBfp a.tag then .error cTagMismatch
  else
    let m := a.tag.toNat - 0x20
    if !t.runOk x.a ((32 + bfpPer m - 1) / bfpPer m) then .error cIllegalOperand
    else
      let tag := f3Tag x.df
      let rs := ((t.bfpMants x.a m 32).zipIdx).map fun (q, i) =>
        (fmtOf tag).round (bfpValue q a.scale.toNat m) x.rm (thetaAt (t.optVal x.c) i)
      let w := elemWidth tag false
      let v := rs.reverse.foldl (fun acc r => acc * 2 ^ w + r.1 % 2 ^ w) 0
      .ok { regs := wrn x.d (32 / elemCount tag false) v tag, sticky := rs.foldl (fun s r => s ||| r.2) 0 }

def execBfpunpk (c : Ctl) (x : BfpUnpk) (s : State) : Host.Outcome State Fault Refusal :=
  .next (s.issueAll c 12 fun t => t.bfpunpk x)

/-! Structured sparsity (R105). -/

/-- Tags of COMPRESS and EXPAND (R105). -/
def okSparse (t : Byte) : Bool :=
  t == tagF32 || t == tagINT || t == tagF16 || t == tagBF16 || t == tagI16 || t == tagE4M3 || t == tagE5M2 || t == tagI8

/-- Rank of an element: its magnitude, a NaN above every number (R105). -/
def sparseRank (tag : Byte) (p : Nat) : Nat :=
  let w := elemWidth tag false
  if tag == tagINT || tag == tagI16 || tag == tagI8 then (signExt w p).natAbs
  else if ((fmtOf tag).decode p).isNan then 2 ^ w
  else p % 2 ^ (w - 1)

/-- The two kept indices of a group in increasing order: the greatest ranks, the lower index among equals (R105). -/
def sparseKeep (ranks : List Nat) : Nat × Nat :=
  let better (i j : Nat) : Bool := ranks.getD j 0 < ranks.getD i 0 || (ranks.getD i 0 == ranks.getD j 0 && i < j)
  let best (xs : List Nat) : Nat := xs.foldl (fun a i => if better i a then i else a) (xs.headD 0)
  let i := best (List.range 4)
  let j := best ((List.range 4).filter (· != i))
  (min i j, max i j)

/-- COMPRESS and EXPAND (R105, R400). -/
def Thread.sparse (t : Thread) (x : Un) (compress : Bool) : LaneRes :=
  match resolveTags tagF32 okSparse [(t.reg x.a).tag] with
  | .error e => .error e
  | .ok tag =>
    let w := elemWidth tag false
    let groups := if w == 8 then 2 else 1
    let wide := 4 * groups * w / 32
    let narrow := 2 * groups * w / 32
    let ns := if compress then wide else narrow
    let nd := if compress then narrow else wide
    if !t.shapeOk x.a ns || !t.shapeOk x.d nd then .error cIllegalOperand
    else
      let src := t.wide x.a ns
      let el (i : Nat) : Nat := src / 2 ^ (w * i) % 2 ^ w
      let pack (xs : List Nat) : Nat := xs.reverse.foldl (fun a p => a * 2 ^ w + p) 0
      if compress then
        let ks := (List.range groups).map fun g => sparseKeep ((List.range 4).map fun i => sparseRank tag (el (4 * g + i)))
        let xs := ks.zipIdx.flatMap fun (k, g) => [el (4 * g + k.1), el (4 * g + k.2)]
        let sc := ks.zipIdx.foldl (fun a (k, g) => a + (k.1 + 4 * k.2) * 16 ^ g) 0
        .ok { regs := wrn x.d nd (pack xs) tag (BitVec.ofNat 8 sc) }
      else
        let sc := (t.reg x.a).scale.toNat
        let xs := (List.range (4 * groups)).map fun i =>
          let g := i / 4
          if i % 4 == sc / 2 ^ (4 * g + 2) % 4 then el (2 * g + 1)
          else if i % 4 == sc / 2 ^ (4 * g) % 4 then el (2 * g)
          else 0
        .ok { regs := wrn x.d nd (pack xs) tag }

def execCompress (c : Ctl) (x : Un) (s : State) : Host.Outcome State Fault Refusal :=
  .next (s.issueAll c 4 fun t => t.sparse x true)

def execExpand (c : Ctl) (x : Un) (s : State) : Host.Outcome State Fault Refusal :=
  .next (s.issueAll c 4 fun t => t.sparse x false)

end Sys2Proof.Machine
end

