-- ==== Sys2Proof/Machine/Vector.lean ====
section
/-! DEFINITION. Wave-collective reductions, scans, shuffles and broadcasts (R106 to R109). -/

namespace Sys2Proof.Machine

/-- A list of results by thread, looked up by uid. -/
def byUid (rs : List (Nat × LaneOut)) (t : Thread) : LaneOut := ((rs.find? (·.1 == t.uid)).map (·.2)).getD {}

/-- One integer combination (R107). -/
def vIntOp (op : VOp) (u : Bool) (w a b : Nat) : Nat :=
  match op with
  | .add => (a + b) % 2 ^ w
  | .min => if asInt u w b < asInt u w a then b else a
  | .max => if asInt u w a < asInt u w b then b else a
  | .and => a &&& b
  | .or => a ||| b
  | .xor => a ^^^ b

/-- Integer identity (R108). -/
def vIntIdent (op : VOp) (u : Bool) (w : Nat) : Nat :=
  match op with
  | .add => 0
  | .min => if u then 2 ^ w - 1 else 2 ^ (w - 1) - 1
  | .max => if u then 0 else 2 ^ (w - 1)
  | .and => 2 ^ w - 1
  | .or => 0
  | .xor => 0

/-- FMIN or FMAX over a list of patterns (R95, R107): the canonical NaN when all are NaN. -/
def FFmt.minmaxAll (f : FFmt) (mx : Bool) (ps : List Nat) : Nat × Word :=
  let st : Word := if ps.any fun p => (f.decode p).isSig then stINV else 0
  match ps.filter fun p => !(f.decode p).isNan with
  | [] => (f.nanPat, st)
  | p :: rest => (rest.foldl (fun a q => (f.minmax mx a q).1) p, st)

/-- One rounded step of a floating-point sum (R107, R108). -/
def FFmt.addStep (f : FFmt) (a b : Nat × Word) : Nat × Word :=
  let x := (f.decode a.1).add (f.decode b.1) false
  let r := f.round x.1 .rne 0
  (r.1, a.2 ||| b.2 ||| x.2 ||| r.2)

/-- One level of the tree: neighbours are paired (R107). -/
def FFmt.treeLevel (f : FFmt) : List (Nat × Word) → List (Nat × Word)
  | a :: b :: rest => f.addStep a b :: f.treeLevel rest
  | rest => rest

/-- The fixed tree over 64 leaves (R107). -/
def FFmt.tree (f : FFmt) (leaves : List (Nat × Word)) : Nat × Word :=
  ((List.range 6).foldl (fun xs _ => f.treeLevel xs) leaves).headD (0, 0)

/-- A list's exact sum, rounded once (R70, R107). -/
def FFmt.exactSum (f : FFmt) (ps : List XVal) : Nat × Word := (ps.foldl LongAcc.add LongAcc.empty).round f

/-- The reduction of one element position over (lane, pattern) pairs in lane order (R107). -/
def vredElem (x : VRed) (tag : Byte) (w : Nat) (ps : List (Nat × Nat)) : Nat × Word :=
  if okFloat tag then
    let f := fmtOf tag
    match x.op with
    | .min => f.minmaxAll false (ps.map (·.2))
    | .max => f.minmaxAll true (ps.map (·.2))
    | _ =>
      if x.exact then f.exactSum (ps.map fun p => f.decode p.2)
      else f.tree ((List.range 64).map fun l => (((ps.find? (·.1 == l)).map (·.2)).getD (f.signed true 0), 0))
  else
    match ps.map (·.2) with
    | [] => (0, 0)
    | p :: rest => (rest.foldl (vIntOp x.op x.u w) p, 0)

/-- The combination of a prefix (R108). -/
def vscanElem (x : VRed) (tag : Byte) (w : Nat) (ps : List Nat) : Nat × Word :=
  if okFloat tag then
    let f := fmtOf tag
    match x.op with
    | .min => if ps.isEmpty then (f.infPat, 0) else f.minmaxAll false ps
    | .max => if ps.isEmpty then (f.signed true f.infPat, 0) else f.minmaxAll true ps
    | _ =>
      if ps.isEmpty then (f.signed true 0, 0)
      else if x.exact then f.exactSum (ps.map f.decode)
      else ps.foldl (fun a p => f.addStep a (p, 0)) (f.signed true 0, 0)
  else (ps.foldl (vIntOp x.op x.u w) (vIntIdent x.op x.u w), 0)

/-- The tag conditions of VRED and VSCAN (R53, R107, R108, R400). -/
def vredTag (x : VRed) (scan : Bool) (tags : List Byte) : Except Cause Byte :=
  match resolveTags tagF32 (fun _ => true) tags with
  | .error e => .error e
  | .ok tag =>
    if tagIsBfp tag then
      if scan || !x.exact || x.op != .add || x.w64 then .error cTagMismatch else .ok tag
    else if okFloat tag then
      if x.w64 || x.op == .and || x.op == .or || x.op == .xor then .error cTagMismatch else .ok tag
    else if okInt x.w64 tag then
      if x.exact then .error cIllegalModifier else .ok tag
    else .error cTagMismatch

/-- VRED's result over the participants (R107): value, tag and conditions. -/
def vredValue (x : VRed) (tag : Byte) (ps : List Thread) : DWord × Byte × Word :=
  if tagIsBfp tag then
    let m := tag.toNat - 0x20
    let r := fmtF32.exactSum (ps.flatMap fun t => (List.range (32 / m)).map fun i =>
      bfpValue (signExt m ((t.val x.a).toNat / 2 ^ (m * i))) (t.reg x.a).scale.toNat m)
    (BitVec.ofNat 64 r.1, tagF32, r.2)
  else
    let w := elemWidth tag x.w64
    let n := elemCount tag x.w64
    let rs := (List.range n).map fun k => vredElem x tag w (ps.map fun t =>
      (t.loc.lane, (elems w n (t.opnd x.w64 x.a)).getD k 0))
    (packElems w (rs.map (·.1)), tag, rs.foldl (fun a r => a ||| r.2) 0)

/-- VRED (R107). -/
def State.vred (s : State) (c : Ctl) (x : VRed) (ts : List Thread) : State :=
  let ps := participants c ts
  let lat := if x.exact then 16 else 12
  if ps.isEmpty then s.collectiveEnd c lat ts (.ok fun _ => {}) 0
  else
    match vredTag x false (ps.map fun t => (t.reg x.a).tag) with
    | .error e => s.collectiveEnd c lat ts (.error e) 0
    | .ok tag =>
      let r := vredValue x tag ps
      s.collectiveEnd c lat ts (.ok fun _ => outReg x.w64 x.d r.1 r.2.1) r.2.2

def execVred (c : Ctl) (x : VRed) (s : State) : Host.Outcome State Fault Refusal :=
  .next (s.collective c fun ts s => s.vred c x ts)

/-- VSCAN (R108): participant i takes the prefix up to i, or up to i - 1 with EXCL. -/
def State.vscan (s : State) (c : Ctl) (x : VRed) (ts : List Thread) : State :=
  let ps := participants c ts
  let lat := if x.exact then 16 else 12
  if ps.isEmpty then s.collectiveEnd c lat ts (.ok fun _ => {}) 0
  else
    match vredTag x true (ps.map fun t => (t.reg x.a).tag) with
    | .error e => s.collectiveEnd c lat ts (.error e) 0
    | .ok tag =>
      let w := elemWidth tag x.w64
      let n := elemCount tag x.w64
      let rs := ps.zipIdx.map fun (t, i) =>
        let es := (List.range n).map fun k => vscanElem x tag w
          ((ps.take (if x.excl then i else i + 1)).map fun p => (elems w n (p.opnd x.w64 x.a)).getD k 0)
        (t.uid, outElems x.d tag x.w64 es)
      let st := rs.foldl (fun a r => a ||| r.2.sticky) 0
      s.collectiveEnd c lat ts (.ok (byUid rs)) st

def execVscan (c : Ctl) (x : VRed) (s : State) : Host.Outcome State Fault Refusal :=
  .next (s.collective c fun ts s => s.vscan c x ts)

/-- The value of the participant in lane s, or the thread's own (R109), with its tag and side scale. -/
def shuffleFrom (ps : List Thread) (x : VSh) (lane : Int) (t : Thread) : LaneOut :=
  let p := (ps.find? fun p => (p.loc.lane : Int) == lane).getD t
  { regs := wrw x.w64 x.d (p.opnd x.w64 x.a) (p.reg x.a).tag (p.reg x.a).scale }

/-- VSHFL's source lane, computed exactly (R109). -/
def shuffleLane (x : VSh) (t : Thread) : Int :=
  let b : Int := (t.srcWord x.b).toNat
  let l : Int := t.loc.lane
  match x.mode with
  | .idx => b
  | .up => l - b
  | .down => l + b
  | .xor => ((t.loc.lane ^^^ (t.srcWord x.b).toNat : Nat) : Int)

def execVshfl (c : Ctl) (x : VSh) (s : State) : Host.Outcome State Fault Refusal :=
  .next (s.collective c fun ts s =>
    s.collectiveEnd c 8 ts (.ok fun t => shuffleFrom (participants c ts) x (shuffleLane x t) t) 0)

def execVbcast (c : Ctl) (x : VSh) (s : State) : Host.Outcome State Fault Refusal :=
  .next (s.collective c fun ts s =>
    let b : Int := ((scalarLane c ts).map fun t => ((t.srcWord x.b).toNat : Int)).getD 64
    s.collectiveEnd c 8 ts (.ok fun t => shuffleFrom (participants c ts) x b t) 0)

end Sys2Proof.Machine
end

