-- ==== Sys2Proof/Machine/Directional.lean ====
section
/-! DEFINITION. Directional instructions but for DLD and DST (R112 to R131): Renorm, SatNorm, and one definition per
instruction. -/

namespace Sys2Proof.Machine

/-- The zero-vector code (R63). -/
def zeroCode : Word := 0x80000000

/-- SatNorm (R119): the norm and NRANGE. -/
def satNorm (x : Int) : Word × Word :=
  if 2 ^ 31 - 1 < x then (0x7FFFFFFF, stNRANGE)
  else if x < -(2 ^ 31 - 1) then (0x80000001, stNRANGE)
  else (BitVec.ofInt 32 x, 0)

/-- RNE of y times 2^14 over the root of S (R119). -/
def unitComp (y : Int) (sq : Nat) : Int :=
  let a := (y.natAbs * 2 ^ 15) * (y.natAbs * 2 ^ 15)
  let h := isqrt (a / sq)
  let m := if h % 2 == 0 then h / 2 else if h * h * sq == a then (if h / 2 % 2 == 0 then h / 2 else h / 2 + 1) else h / 2 + 1
  if y < 0 then -(m : Int) else m

/-- What a directional instruction writes to its destination, and its conditions. -/
structure DirOut where
  comps : Option (List Half) := none
  norm : Option Word := none
  sticky : Word := 0
  deriving DecidableEq, Repr

/-- The zero-vector code with components 0 (R119). -/
def DirOut.zeroVec (sticky : Word := 0) : DirOut :=
  { comps := some (List.replicate 256 0), norm := some zeroCode, sticky := sticky }

/-- Renorm (R119) of y in units of 2^unit: base and k in the norm's sum. -/
def renorm (ys : List Int) (unit base : Int) (k : Int) : DirOut :=
  let sq : Nat := ys.foldl (fun a y => a + y.natAbs * y.natAbs) 0
  if sq == 0 then DirOut.zeroVec
  else
    let lg : Int := (log2Units sq 1).getD ((Config.freeResult sq).toInt)
    let r := satNorm (base + lg + 2 * unit * 2 ^ 22 - k * 2 ^ 23)
    { comps := some (ys.map fun y => BitVec.ofInt 16 (unitComp y sq)), norm := some r.1, sticky := r.2 }

/-- A directional register's components as integers. -/
def Wave.dComps (w : Wave) (r : Reg) : List Int := (w.d.getD r.toNat []).map (·.toInt)
/-- A norm register. -/
def Wave.norm (w : Wave) (r : Reg) : Word := w.n.getD r.toNat zeroCode
/-- Whether a register represents the zero vector. -/
def Wave.isZero (w : Wave) (r : Reg) : Bool := w.norm r == zeroCode

/-- Adds writes of the destination in flight: components at `tc` ac and norm at `tn` ac (R115, R117). -/
def Wave.dWrite (w : Wave) (now tc tn : Nat) (r : Reg) (o : DirOut) : Wave :=
  let q := w.dseq + 1
  let p1 : List DPend := match o.comps with
    | some cs => [{ due := now + tc * Config.ac, reg := r.toNat, comps := some cs, norm := none, seq := q }]
    | none => []
  let p2 : List DPend := match o.norm with
    | some v => [{ due := now + tn * Config.ac, reg := r.toNat, comps := none, norm := some v, seq := q }]
    | none => []
  { w with dseq := q, dpend := w.dpend ++ p1 ++ p2 }

/-- Lands one directional write unless a later-issued one has landed (R117). -/
def Wave.dLand (w : Wave) (p : DPend) : Wave :=
  let w1 := match p.comps with
    | some cs => if w.dlast.getD p.reg 0 ≤ p.seq then
        { w with d := w.d.set p.reg cs, dlast := w.dlast.set p.reg p.seq } else w
    | none => w
  match p.norm with
  | some v => if w1.nlast.getD p.reg 0 ≤ p.seq then
      { w1 with n := w1.n.set p.reg v, nlast := w1.nlast.set p.reg p.seq } else w1
  | none => w1

/-- A directional instruction that writes a d or n register (R114, R115). -/
def State.dirWrite (s : State) (c : Ctl) (ts : List Thread) (tc tn : Nat) (d : Reg)
    (f : Wave → List Thread → Except Cause DirOut) : State :=
  match ts.head?, participants c ts with
  | some t, p :: ps =>
    match s.waveOf t with
    | none => s
    | some w =>
      match f w (p :: ps) with
      | .error e => s.collectiveEnd c tn ts (.error e) 0
      | .ok o => (s.modWave w.wid fun w => w.dWrite s.clock tc tn d o).collectiveEnd c tn ts (.ok fun _ => {}) o.sticky
  | _, _ => s.collectiveEnd c tn ts (.ok fun _ => {}) 0

/-- A directional instruction that writes v or p registers (R114, R115). -/
def State.dirRead (s : State) (c : Ctl) (ts : List Thread) (lat : Nat)
    (f : Wave → List Thread → List (Nat × LaneOut) × Word) : State :=
  match ts.head?, participants c ts with
  | some t, p :: ps =>
    match s.waveOf t with
    | none => s
    | some w => s.collectiveEnd c lat ts (.ok (byUid (f w (p :: ps)).1)) (f w (p :: ps)).2
  | _, _ => s.collectiveEnd c lat ts (.ok fun _ => {}) 0

/-- A list of the same result for every participant. -/
def sameAll (ps : List Thread) (o : LaneOut) : List (Nat × LaneOut) := ps.map fun t => (t.uid, o)

/-- The exact value of component j of a lane (R121). -/
def dnormSource (x : DNorm) (t : Thread) (i : Nat) : XVal :=
  let at32 (r : Nat) : Nat := if x.a == 255 then 0 else (t.v.getD (x.a.toNat + r) VReg.zero).val.toNat
  match x.sf with
  | .f32 => fmtF32.decode (at32 i)
  | .f16 => fmtF16.decode (at32 (i / 2) / 2 ^ (16 * (i % 2)) % 2 ^ 16)
  | .bf16 => fmtBF16.decode (at32 (i / 2) / 2 ^ (16 * (i % 2)) % 2 ^ 16)

/-- An exact finite value in units of 2^-149. -/
def XVal.units (x : XVal) : Int :=
  match x with
  | .num neg n d => if neg then -((n * 2 ^ 149 / d : Nat) : Int) else (n * 2 ^ 149 / d : Nat)
  | _ => 0

/-- DNORM (R121). -/
def dnormOut (x : DNorm) (ps : List Thread) : Except Cause DirOut :=
  (resolveTags (f3Tag x.sf) (· == f3Tag x.sf) (ps.map fun t => (t.reg x.a).tag)).map fun _ =>
    let xs := (List.range 256).map fun j =>
      match ps.find? (·.loc.lane == j / 4) with
      | some t => dnormSource x t (j % 4)
      | none => .num false 0 1
    if xs.any fun v => match v with | .num .. => false | _ => true then DirOut.zeroVec stINV
    else renorm (xs.map XVal.units) (-149) 0 0

def execDnorm (c : Ctl) (x : DNorm) (s : State) : Host.Outcome State Fault Refusal :=
  .next (s.collective c fun ts s => s.dirWrite c ts 24 26 x.d fun _ ps => dnormOut x ps)

/-- DUNPK in one lane (R122). -/
def dunpkLane (x : DUnpk) (w : Wave) (coordReg : Word) (t : Thread) : LaneOut :=
  let tag := f3Tag x.df
  let f := fmtOf tag
  let k := (w.norm x.a).toInt
  let rs := (List.range 4).map fun j =>
    let v := (w.dComps x.a).getD (4 * t.loc.lane + j) 0
    let e := scaled (decide (v < 0)) v.natAbs (-14)
    let th := thetaAt coordReg j
    if w.isZero x.a then (0, stZDIR)
    else if x.n then f.roundPow k e x.rm th (v.natAbs + (w.norm x.a).toNat) else f.round e x.rm th
  let wd := elemWidth tag false
  let v := rs.reverse.foldl (fun a r => a * 2 ^ wd + r.1 % 2 ^ wd) 0
  { regs := wrn x.d (4 * wd / 32) v tag, sticky := rs.foldl (fun a r => a ||| r.2) 0 }

def execDunpk (c : Ctl) (x : DUnpk) (s : State) : Host.Outcome State Fault Refusal :=
  .next (s.collective c fun ts s => s.dirRead c ts (if x.n then 14 else 6) fun w ps =>
    let cr := ((ps.head?.map fun t => t.optVal x.c).getD 0)
    let rs := ps.map fun t => (t.uid, dunpkLane x w cr t)
    (rs, rs.foldl (fun a r => a ||| r.2.sticky) 0))

/-- The exact dot product of the components (R123). -/
def Wave.dot (w : Wave) (a b : Reg) : Int := ((w.dComps a).zip (w.dComps b)).foldl (fun s p => s + p.1 * p.2) 0

/-- P times 2^-28. -/
def Wave.dotVal (w : Wave) (a b : Reg) : XVal := scaled (decide (w.dot a b < 0)) (w.dot a b).natAbs (-28)

/-- DDOT (R123). -/
def ddotOut (x : DBin) (w : Wave) : LaneOut :=
  if w.isZero x.a || w.isZero x.b then { regs := wr1 x.d 0 tagF32, sticky := stZDIR }
  else
    let r := fmtF32.round (w.dotVal x.a x.b) .rne 0
    { regs := wr1 x.d (BitVec.ofNat 32 r.1) tagF32, sticky := r.2 }

def execDdot (c : Ctl) (x : DBin) (s : State) : Host.Outcome State Fault Refusal :=
  .next (s.collective c fun ts s => s.dirRead c ts 10 fun w ps => (sameAll ps (ddotOut x w), (ddotOut x w).sticky))

/-- DDOTR (R124). -/
def ddotrOut (x : DDotR) (w : Wave) (cr : Word) : LaneOut :=
  if w.isZero x.a || w.isZero x.b then { regs := wr1 x.d 0 tagF32, sticky := stZDIR }
  else
    let k := (w.norm x.a).toInt + (w.norm x.b).toInt
    let r := fmtF32.roundPow k (w.dotVal x.a x.b) x.rm (thetaAt cr 0) ((w.dot x.a x.b).natAbs + k.natAbs)
    { regs := wr1 x.d (BitVec.ofNat 32 r.1) tagF32, sticky := r.2 }

def execDdotr (c : Ctl) (x : DDotR) (s : State) : Host.Outcome State Fault Refusal :=
  .next (s.collective c fun ts s => s.dirRead c ts 14 fun w ps =>
    let o := ddotrOut x w ((ps.head?.map fun t => t.optVal x.c).getD 0)
    (sameAll ps o, o.sticky))

/-- The scalar operand of DSCL and DLERP, its tag resolving to INT (R125, R127). -/
def scalarInt (x : Scal) (ps : List Thread) (reg : Word → Int) (imm : BitVec 20 → Int) : Except Cause Int :=
  match x with
  | .imm v => .ok (imm v)
  | .reg r =>
    match ps.head? with
    | none => .ok 0
    | some t => (resolveTags tagINT okINT [(t.optReg r).tag]).map fun _ => reg (t.optVal r)

/-- DSCL (R125). -/
def dsclOut (x : DScl) (w : Wave) (ps : List Thread) : Except Cause DirOut :=
  (scalarInt x.s ps (fun v => v.toInt) (fun v => v.toInt * 2 ^ 11)).map fun delta =>
    if w.isZero x.a then DirOut.zeroVec stZDIR
    else
      let r := satNorm ((w.norm x.a).toInt + delta)
      { comps := some (w.d.getD x.a.toNat []), norm := some r.1, sticky := r.2 }

def execDscl (c : Ctl) (x : DScl) (s : State) : Host.Outcome State Fault Refusal :=
  .next (s.collective c fun ts s => s.dirWrite c ts 4 6 x.d fun w ps => dsclOut x w ps)

/-- DADD and DSUB (R126). -/
def daddOut (x : DBin) (sub : Bool) (w : Wave) : DirOut :=
  let zeros := List.replicate 256 (0 : Int)
  let a := if w.isZero x.a then zeros else w.dComps x.a
  let b0 := if w.isZero x.b then zeros else w.dComps x.b
  let b := if sub then b0.map (fun v => -v) else b0
  let na := (w.norm x.a).toInt
  let nb := (w.norm x.b).toInt
  let st : Word := if w.isZero x.a || w.isZero x.b then stZDIR else 0
  let bBig : Bool := decide (na < nb) || w.isZero x.a
  let big := if bBig then b else a
  let small := if bBig then a else b
  let nbig := if bBig then nb else na
  let nsm := if bBig then na else nb
  if nbig == -(2 ^ 31) then DirOut.zeroVec st
  else
    let d := (nbig - nsm).toNat
    let rho : Int := if nsm == -(2 ^ 31) then 0 else ((rhoUnits d).getD (Config.freeResult d).toNat : Nat)
    let o := renorm ((big.zip small).map fun p => p.1 * 2 ^ 16 + rho * p.2) 0 nbig 30
    { o with sticky := o.sticky ||| st }

def execDadd (c : Ctl) (x : DBin) (s : State) : Host.Outcome State Fault Refusal :=
  .next (s.collective c fun ts s => s.dirWrite c ts 28 30 x.d fun w _ => .ok (daddOut x false w))

def execDsub (c : Ctl) (x : DBin) (s : State) : Host.Outcome State Fault Refusal :=
  .next (s.collective c fun ts s => s.dirWrite c ts 28 30 x.d fun w _ => .ok (daddOut x true w))

/-- DLERP (R127). -/
def dlerpOut (x : DLerp) (w : Wave) (ps : List Thread) : Except Cause DirOut :=
  (scalarInt x.s ps (fun v => (min v.toNat 65536 : Nat)) (fun v => (v.toNat : Nat))).map fun wt =>
    if w.isZero x.a || w.isZero x.b then DirOut.zeroVec stZDIR
    else
      let ys := ((w.dComps x.a).zip (w.dComps x.b)).map fun p => (65536 - wt) * p.1 + wt * p.2
      let o := renorm ys 0 0 0
      if ys.all (· == 0) then { o with sticky := 0 }
      else
        let na := (w.norm x.a).toInt
        let step := ((w.norm x.b).toInt - na) * wt
        let r := roundInt (decide (step < 0)) step.natAbs 65536 .rne 0
        { o with norm := some (BitVec.ofInt 32 (na + r.1)), sticky := 0 }

def execDlerp (c : Ctl) (x : DLerp) (s : State) : Host.Outcome State Fault Refusal :=
  .next (s.collective c fun ts s => s.dirWrite c ts 28 30 x.d fun w ps => dlerpOut x w ps)

/-- DREJ (R128). -/
def drejOut (x : DBin) (w : Wave) : DirOut :=
  if w.isZero x.b then
    { comps := some (w.d.getD x.a.toNat []), norm := some (w.norm x.a), sticky := stZDIR }
  else if w.isZero x.a then DirOut.zeroVec stZDIR
  else
    let d := w.dot x.a x.b
    renorm (((w.dComps x.a).zip (w.dComps x.b)).map fun p => p.1 * 2 ^ 28 - d * p.2) 0 (w.norm x.a).toInt 42

def execDrej (c : Ctl) (x : DBin) (s : State) : Host.Outcome State Fault Refusal :=
  .next (s.collective c fun ts s => s.dirWrite c ts 32 34 x.d fun w _ => .ok (drejOut x w))

def execDmov (c : Ctl) (x : Un) (s : State) : Host.Outcome State Fault Refusal :=
  .next (s.collective c fun ts s => s.dirWrite c ts 4 6 x.d fun w _ =>
    .ok { comps := some (w.d.getD x.a.toNat []), norm := some (w.norm x.a) })

def execDzero (c : Ctl) (d : Reg) (s : State) : Host.Outcome State Fault Refusal :=
  .next (s.collective c fun ts s => s.dirWrite c ts 2 4 d fun _ _ => .ok DirOut.zeroVec)

def execDtest (c : Ctl) (x : Un) (s : State) : Host.Outcome State Fault Refusal :=
  .next (s.collective c fun ts s => s.dirRead c ts 4 fun w ps =>
    (sameAll ps { preds := wrp x.d (w.isZero x.a) }, 0))

/-- NMOV.W (R129): the scalar lane's value, its tag resolving to INT. -/
def nmovOut (x : NMov) (ps : List Thread) : Except Cause DirOut :=
  (scalarInt (.reg (some x.a)) ps (fun v => v.toInt) (fun _ => 0)).map fun v =>
    { norm := some (BitVec.ofInt 32 v) }

def execNmov (c : Ctl) (x : NMov) (s : State) : Host.Outcome State Fault Refusal :=
  .next (s.collective c fun ts s =>
    if x.w then s.dirWrite c ts 4 4 x.d fun _ ps => nmovOut x ps
    else s.dirRead c ts 4 fun w ps => (sameAll ps { regs := wr1 x.d (w.norm x.a) tagINT }, 0))

end Sys2Proof.Machine
end

