-- ==== Sys2Proof/Machine/Memory.lean ====
section
/-! DEFINITION. Memory: the canonical list of cells, address spaces (R293), translation (R297 to R304), reads and writes at
the home (R317), step tags and forced saves (R344 to R347), poison (R354), persistence (R334, R342). -/

namespace Sys2Proof.Machine

/-! Cells. A key is a DPA, or a vault window address. An unlisted key reads 0 (log 4). -/

/-- What an unlisted key reads as (log 4; R360 for vaults after a reset). -/
def memDefault : Byte := 0

/-- Reads a cell. -/
def memGet (m : List Host.Cell) (a : Nat) : Byte := ((m.find? (·.1 == a)).map (·.2)).getD memDefault

/-- Puts a cell where the list rises. -/
def memInsert (c : Host.Cell) : List Host.Cell → List Host.Cell
  | [] => [c]
  | x :: rest => if c.1 < x.1 then c :: x :: rest else x :: memInsert c rest

/-- Writes a cell, keeping the list rising and without default entries. -/
def memSet (m : List Host.Cell) (a : Nat) (b : Byte) : List Host.Cell :=
  if b == memDefault then m.filter (·.1 != a) else memInsert (a, b) (m.filter (·.1 != a))

/-- The canonical form: keys strictly rising above lo, no default entry. -/
def memWfFrom (lo : Option Nat) : List Host.Cell → Bool
  | [] => true
  | (k, v) :: rest => (match lo with | some l => l < k | none => true) && v != memDefault && memWfFrom (some k) rest

/-- The canonical form of memory. -/
def Memory.wf (m : List Host.Cell) : Bool := memWfFrom none m

/-- Writes bytes in order. -/
def memSets (m : List Host.Cell) (bs : List (Nat × Byte)) : List Host.Cell := bs.foldl (fun m b => memSet m b.1 b.2) m

/-- n bytes from a key, little-endian (R5). -/
def memNat (m : List Host.Cell) (a n : Nat) : Nat :=
  ((List.range n).reverse).foldl (fun v i => v * 256 + (memGet m (a + i)).toNat) 0

/-- A value's n bytes from a key, little-endian. -/
def bytesAt (a n v : Nat) : List (Nat × Byte) := (List.range n).map fun i => (a + i, BitVec.ofNat 8 (v / 256 ^ i))

/-- n bytes of a value, little-endian. -/
def bytesOf (n v : Nat) : List Byte := (bytesAt 0 n v).map (·.2)

/-- The value of bytes, little-endian. -/
def natOfBytes (bs : List Byte) : Nat := bs.reverse.foldl (fun v b => v * 256 + b.toNat) 0

/-- n rounded up to 64. -/
def up64 (n : Nat) : Nat := (n + 63) / 64 * 64

/-! Address spaces (R293, R298). -/

/-- What a key names. -/
inductive Space where
  | vault | hbm | scm | host | absent
  deriving DecidableEq, Repr

/-- The HBM DPAs that are present: below NCH GiB, or in a re-homed block (R293, R358). -/
def State.hbmPresent (s : State) (a : Nat) : Bool :=
  a < s.mmu.nch * 2 ^ 30 || s.mmu.rehome.any (·.1 == a / 2 ^ 21)

/-- The space of a key. -/
def State.spaceOf (s : State) (a : Nat) : Space :=
  if Config.vwin ≤ a then .vault
  else if a < 0x8000000000 then (if s.hbmPresent a then .hbm else .absent)
  else if 0x100000000000 ≤ a && a < 0x140000000000 then .scm
  else if 0x400000000000 ≤ a && a < 0x800000000000 then .host
  else .absent

/-- Reads n bytes at the home. -/
def State.readHome (s : State) (a n : Nat) : Nat := memNat s.mem a n

/-- Whether any byte of a range lies in poisoned data (R354), whose unit is 64 bytes. -/
def State.poisoned (s : State) (a n : Nat) : Bool :=
  (List.range (n / 64 + 2)).any fun i => s.poison.contains (a / 64 + i) && (a / 64 + i) * 64 < a + n

/-! Writes at the home. -/

/-- The distinct 64-byte lines of a set of keys. -/
def linesOf (bs : List (Nat × Byte)) (unit : Nat) : List Nat := (bs.map fun b => b.1 / unit).eraseDups

/-- Where the home slice keeps a DPA: a re-homed block at its destination (R358). -/
def State.homed (s : State) (a : Nat) : Nat :=
  match s.mmu.rehome.find? (·.1 == a / 2 ^ 21) with
  | some r => r.2 + a % 2 ^ 21
  | none => a

/-- The DPA whose contents the home slice keeps at a key. -/
def State.dpaOf (s : State) (key : Nat) : Nat :=
  match s.mmu.rehome.find? fun r => r.2 ≤ key && key < r.2 + 2 ^ 21 with
  | some r => r.1 * 2 ^ 21 + (key - r.2)
  | none => key

/-- The region a key lies in, if any (R341). -/
def State.regionOf (s : State) (key : Nat) : Option Nat :=
  let a := s.dpaOf key
  (List.range s.ckpt.nreg).find? fun i =>
    (s.ckpt.rbase.getD i 0).toNat ≤ a && a < (s.ckpt.rbase.getD i 0).toNat + (s.ckpt.rsize.getD i 0).toNat

/-- The tag of a 64-byte line (R344). -/
def State.tagOf (s : State) (line : Nat) : Byte := ((s.tags.find? (·.1 == line)).map (·.2)).getD 0

/-- Sets the tag of a 64-byte line. -/
def State.setTag (s : State) (line : Nat) (t : Byte) : State :=
  { s with tags := if t == 0 then s.tags.filter (·.1 != line)
                   else insertBy (·.1) (line, t) (s.tags.filter (·.1 != line)) }

/-- A line's tag satisfies the test of R346 for the sweep of step st. -/
def State.oldLine (s : State) (st : Word) (line : Nat) : Bool :=
  let now := s.ckpt.step.toNat % 256
  (s.ckpt.step - st).toNat ≤ (now + 256 - (s.tagOf line).toNat) % 256

/-- A line lies ahead of the sweep's cursor (R346, R347). -/
def State.aheadOfSweep (s : State) (w : Sweep) (line : Nat) : Bool :=
  match s.regionOf (line * 64) with
  | none => false
  | some r => w.region < r || (w.region == r && (s.ckpt.rbase.getD r 0).toNat + w.offset ≤ s.dpaOf (line * 64))

/-- A write to this line is held for a forced save (R347): the line is ahead of the cursor, its tag is old, and the image does not have
it yet. -/
def State.needsSave (s : State) (w : Sweep) (line : Nat) : Bool :=
  s.aheadOfSweep w line && s.oldLine w.step line && !w.image.any (·.1 == line)

/-- Entries of the staging buffer: 16 MiB of 64-byte lines (R347). -/
def stagingLines : Nat := 0x40000

/-- A forced save (R347): the line's 64 bytes enter the image before a write to it performs. One that finds the buffer full has waited for
an entry to drain. -/
def State.forceLine (s : State) (line : Nat) : State :=
  match s.ckpt.sweep with
  | none => s
  | some w =>
    if s.needsSave w line then
      let bs := (List.range 64).map fun i => memGet s.mem (line * 64 + i)
      let s1 := s.setTag line (w.step.setWidth 8)
      { s1 with ckpt := { s1.ckpt with sweep := some { w with
                                         image := w.image ++ [(line, bs, s.poison.contains line)], staged := min stagingLines (w.staged + 1) }
                                       forced := min 0xFFFF (s1.ckpt.forced + 1) } }
    else s

/-- A write to this line waits for room in the staging buffer (R347): it needs a forced save and the buffer is full. -/
def State.stagingFull (s : State) (line : Nat) : Bool :=
  match s.ckpt.sweep with
  | none => false
  | some w => s.spaceOf (s.dpaOf (line * 64)) == .hbm && s.needsSave w line && stagingLines ≤ w.staged

/-- Bytes of the persist queue: 64 MiB (R342). -/
def pqCap : Nat := 0x4000000

/-- The persist queue has room for n more bytes (R342). -/
def State.pqRoom (s : State) (n : Nat) : Bool := s.pq.length + n ≤ pqCap

/-- Adds to a wear counter, by unit and counter (R398). -/
def Power.bump (p : Power) (unit counter n : Nat) : Power :=
  let key := unit * 16 + counter
  let old := ((p.wear.find? (·.1 == key)).map (·.2)).getD 0
  if n == 0 then p else { p with wear := (key, old + n) :: p.wear.filter (·.1 != key) }

/-- n bytes reach an SCM stack: SCMWR counts them in units of 64 KiB (R398), its remainder kept as a counter 14 that no instruction
reads. -/
def Power.scmWrote (p : Power) (stack n : Nat) : Power :=
  let left := ((p.wear.find? (·.1 == (16 + stack) * 16 + 14)).map (·.2)).getD 0
  let q := p.bump (16 + stack) 4 ((left + n) / 65536)
  { q with wear := ((16 + stack) * 16 + 14, (left + n) % 65536) :: q.wear.filter (·.1 != (16 + stack) * 16 + 14) }

/-- The SCM stack of a key. -/
def scmStack (k : Nat) : Nat := (k - 0x100000000000) / 2 ^ 39

/-- n bytes from an SCM key on reach their stacks. -/
def Power.scmRange (p : Power) (k n : Nat) : Power :=
  (List.range 8).foldl (fun p i =>
    let a := max k (0x100000000000 + i * 2 ^ 39)
    let b := min (k + n) (0x100000000000 + (i + 1) * 2 ^ 39)
    if a < b then p.scmWrote i (b - a) else p) p

/-- Bytes reach the SCM media (R334, R342, R398). -/
def State.persisted (s : State) (bs : List PqEntry) : State :=
  let wear (p : Power) (stack : Nat) : Power := p.scmWrote stack (bs.filter fun b => scmStack b.1 == stack).length
  { s with media := memSets s.media bs
           power := if bs.isEmpty then s.power else (((bs.map fun b => scmStack b.1).eraseDups).foldl wear s.power) }

/-- The n oldest entries of the persist queue drain (R342). -/
def State.drainFirst (s : State) (n : Nat) : State := { s with pq := s.pq.drop n }.persisted (s.pq.take n)

/-- What exceeds the persist queue's 64 MiB drains, oldest first (R342). -/
def State.drainOver (s : State) : State := s.drainFirst (s.pq.length - pqCap)

/-- Bytes join the persist queue; with READY_OFF asserted, which an entry there would break, they drain at once (R395). -/
def State.pqPut (s : State) (bs : List PqEntry) : State :=
  if s.power.readyOff then State.drainFirst { s with pq := s.pq ++ bs } (s.pq.length + bs.length) else { s with pq := s.pq ++ bs }

/-- Bytes enter the persistence domain (R334): they queue for SCM behind the earlier entries (R342). -/
def State.persistBytes (s : State) (bs : List PqEntry) : State := (s.pqPut bs).drainOver

/-- A dirty SCM line enters the persist queue (R168, R334). -/
def State.flushDirty (s : State) (line : Nat) : State :=
  if s.dirty.contains line then
    { s with dirty := s.dirty.filter (· != line) }.persistBytes
      ((List.range 256).map fun i => (line * 256 + i, memGet s.mem (line * 256 + i)))
  else s

/-- Lines of the ridge cache: 768 MiB of 256 bytes (R2). -/
def ridgeLines : Nat := 0x300000

/-- How soon the ridge cache replaces a line (R31): one marked last first, one marked keep after every other. -/
def State.replaceRank (s : State) (line : Nat) : Nat :=
  match s.marks.find? (·.1 == line) with
  | some (_, true) => 0
  | some (_, false) => 2
  | none => 1

/-- The marks after an access with this CHINT to these lines (R31). -/
def State.marksAfter (s : State) (hint : Nat) (lines : List Nat) : List (Nat × Bool) :=
  if hint == 1 || hint == 2 then
    (s.marks.filter fun m => !lines.contains m.1) ++ (lines.eraseDups.map fun l => (l, hint == 1))
  else s.marks

/-- SCM bytes reach the ridge cache (R294): their lines become dirty. Past its capacity a line not just written is evicted, of those that
the marks of R31 name first the lowest, and enters the persistence domain (R334, log 110). -/
def State.markDirty (s : State) (scm : List (Nat × Byte)) : State :=
  let ls := linesOf scm 256
  let s1 := { s with dirty := ls.foldl (fun ds l => if ds.contains l then ds else insertBy id l ds) s.dirty }
  let old := s1.dirty.filter fun l => !ls.contains l
  let order := old.filter (s.replaceRank · == 0) ++ old.filter (s.replaceRank · == 1) ++ old.filter (s.replaceRank · == 2)
  (order.take (s1.dirty.length - ridgeLines)).foldl State.flushDirty s1

/-- A `.nt` store's SCM bytes (R162): those of a line that the ridge cache already holds dirty join it, the others allocate none and
go on to the SCM (log 110). -/
def State.storeNt (s : State) (scm : List (Nat × Byte)) : State :=
  s.persistBytes (scm.filter fun b => !s.dirty.contains (b.1 / 256))

/-- The home slice of a DPA (R294): the exclusive or of its seven 6-bit groups. -/
def homeSlice (a : Nat) : Nat := (List.range 7).foldl (fun x i => x ^^^ (a / 2 ^ (8 + 6 * i) % (if i == 6 then 16 else 64))) 0

/-- A byte for host memory (R381): an RDMA WRITE on the aperture's queue pair, at its remote base plus the offset. -/
def State.hostOut (s : State) (b : Nat × Byte) : Option Out :=
  let off := b.1 - 0x400000000000
  (s.cmd.apertures.find? (·.num == off / 2 ^ 42)).map fun p => .hostWrite p.qp p.rkey (p.base.toNat + off % 2 ^ 42) b.2

/-- Reads of host memory leave as RDMA READs on the aperture's queue pair (R381, log 155). -/
def State.hostReads (s : State) (rs : List (Nat × Nat)) : State :=
  let out := (rs.filter fun r => s.spaceOf r.1 == .host).filterMap fun r =>
    let off := r.1 - 0x400000000000
    (s.cmd.apertures.find? (·.num == off / 2 ^ 42)).map fun p => Out.hostRead p.qp p.rkey (p.base.toNat + off % 2 ^ 42) r.2
  if out.isEmpty then s else { s with cmd := { s.cmd with outbox := s.cmd.outbox ++ out } }

/-- The vault port re-examines an object's waiters when its STATUS is written (R180): a thread at a BWAIT whose phase has changed, and
whose own earlier accesses to the object have performed, is released, whatever STATUS becomes later. -/
def State.portWake (s : State) (bs : List (Nat × Byte)) : State :=
  if bs.all (·.1 < Config.vwin) then s
  else
    let placed (t : Thread) : Bool := s.waves.any fun w => w.wid == t.wid &&
      s.wgs.any fun g => g.lnum == w.lnum && g.idx == w.wg && g.state == .placed
    let own (t : Thread) (k : Nat) : Bool := s.inflight.any fun a =>
      a.uids.contains t.uid && (a.reads ++ a.writes).any fun r => r.1 < k + 32 && k < r.1 + r.2
    { s with woken := s.woken ++ s.threads.filterMap fun t =>
        match t.hold with
        | .barrier k parity _ =>
          if t.status == .live && (bs.any fun b => b.1 == k + 16 || b.1 == k + 17) && placed t && !own t k &&
              !s.woken.any (·.1 == t.uid) && !s.poisoned k 32 && (s.readHome (k + 16) 2 % 2 == 1) != parity then
            some (t.uid, s.readHome (k + 18) 2 / 2 % 2 == 1)
          else none
        | _ => none }

/-- Bytes are written at the home: forced saves, the bytes, step tags, poison cleared by a whole line, the host's bytes (R160, R344, R347,
R354, R381). -/
def State.writeBytes (s : State) (bs : List (Nat × Byte)) : State :=
  let lines := linesOf bs 64
  let hbm := lines.filter fun l => s.spaceOf (s.dpaOf (l * 64)) == .hbm
  let s1 := hbm.foldl (fun s l => s.forceLine l) s
  let s2 := { s1 with mem := memSets s1.mem bs }
  let s3 := hbm.foldl (fun s l => s.setTag l (s.ckpt.step.setWidth 8)) s2
  let whole := lines.filter fun l => (List.range 64).all fun i => bs.any (·.1 == l * 64 + i)
  { s3 with
    poison := s3.poison.filter fun p => !whole.contains p
    cmd := { s3.cmd with outbox := s3.cmd.outbox ++ (bs.filter fun (b : Nat × Byte) => s.spaceOf b.1 == .host).filterMap s.hostOut } }

/-- SCM bytes that are written: to the persist queue from a PERSIST page (R334, R342), else to the ridge cache (R294), but for a `.nt`
store's (R162). -/
def State.writeScm (s : State) (scm : List (Nat × Byte)) (persist nt : Bool) : State :=
  if scm.isEmpty then s
  else if persist then s.pqPut scm
  else if nt then s.storeNt scm
  else s.markDirty scm

/-- Writes at the home; a barrier's waiters are re-examined (R180). -/
def State.writeHome (s : State) (bs : List (Nat × Byte)) (persist : Bool) (nt : Bool := false) : State :=
  ((s.writeBytes bs).writeScm (bs.filter fun b => s.spaceOf b.1 == .scm) persist nt).portWake bs

/-- A write by the device's own agents, which a full persist queue makes wait for its oldest entries to drain (R342). -/
def State.putHome (s : State) (bs : List (Nat × Byte)) (persist : Bool) (nt : Bool := false) : State :=
  if persist then (s.writeHome bs true).drainOver else s.writeHome bs false nt

/-! Translation (R297 to R304). -/

/-- The kind of an access (R307, ACC). -/
inductive AccKind where
  | read | write | atomic | fetch | home
  deriving DecidableEq, Repr

/-- Its ACC code (R307). -/
def AccKind.code : AccKind → Nat
  | .read => 1
  | .write => 2
  | .atomic => 3
  | .fetch => 4
  | .home => 5

/-- Whether the access needs W (R302). -/
def AccKind.writes : AccKind → Bool
  | .write => true
  | .atomic => true
  | _ => false

/-- How an address resolves. -/
inductive Xlate where
  /-- BAD_ADDRESS (R297, R298). -/
  | bad
  | vault (key : Nat)
  /-- A DPA with the page's PERSIST and TSO, and the descriptor of the yealm it lies in. -/
  | dpa (a : Nat) (persist tso : Bool) (yealm : Option (Nat × Nat))
  /-- A read of a yealm that is not resident (R315). -/
  | swap (desc yealm : Nat)
  /-- A translation fault of this KIND (R303). -/
  | fault (kind : Nat)
  /-- The heap names a DPA where nothing is present (log 15). -/
  | absent (a : Nat)
  /-- A walker read of uncorrectable data (R354). -/
  | ue
  /-- The walker's reads of HBM wait for the end of an edit of the interleave table (R296). -/
  | held
  deriving DecidableEq, Repr

/-- Bits 63 to 56 are equal (R297). -/
def canonical (va : DWord) : Bool := va.toNat < 2 ^ 56 || 2 ^ 64 - 2 ^ 56 ≤ va.toNat

/-- Size of a residency-window slot (R300). -/
def State.slotSize (s : State) : Nat := s.mmu.wincfg.toNat % 2 ^ 16 * 2 ^ 16

/-- A range of DPAs meets the residency window (R311). -/
def State.meetsWindow (s : State) (a n : Nat) : Bool :=
  let w := s.mmu.winbase.toNat
  s.slotSize != 0 && a < w + s.thatches.slots.length * s.slotSize && w < a + n

/-- The held thatch whose yealm range holds an address (R312). -/
def State.thatchAt (s : State) (va : Nat) : Option Thatch :=
  s.thatches.held.find? fun t => t.vbase ≤ va && va < t.vbase + t.nyealm * t.ysize

/-- The slot that holds a yealm. -/
def State.slotOf (s : State) (desc yealm : Nat) : Option Nat :=
  (List.range s.thatches.slots.length).find? fun i => s.thatches.slots.getD i .empty == .resident desc yealm

/-- A page-table level (R301): lowest VA bit indexed, entries, page size of a leaf. -/
structure PtLevel where
  low : Nat
  entries : Nat
  leaf : Option Nat
  deriving DecidableEq, Repr

/-- The five levels (R301), level 4 first. -/
def ptLevels : List PtLevel :=
  [{ low := 48, entries := 512, leaf := none }, { low := 39, entries := 512, leaf := none },
   { low := 30, entries := 512, leaf := some (2 ^ 30) }, { low := 21, entries := 512, leaf := some (2 ^ 21) },
   { low := 16, entries := 32, leaf := some (2 ^ 16) }]

/-- A page lies wholly within one space, and outside the residency window (R303, R311). -/
def State.pageOk (s : State) (a n : Nat) (persist : Bool) : Bool :=
  let blocks := (List.range ((n + 2 ^ 21 - 1) / 2 ^ 21)).map fun i => a + i * 2 ^ 21
  let sp := s.spaceOf a
  sp != .absent && sp != .vault && blocks.all (fun b => s.spaceOf b == sp) && s.spaceOf (a + n - 1) == sp &&
  (!persist || sp == .scm) && !(sp == .hbm && s.meetsWindow a n)

/-- Walks the levels from a table at `table` (R301 to R303): a leaf, or a KIND; none where the walker read uncorrectable
data. -/
def State.walkFrom (s : State) (ctx va : Nat) : List PtLevel → (table : Nat) → Option (Except Nat TlbEntry)
  | [], _ => some (.error 5)
  | l :: rest, table =>
    if s.spaceOf table != .hbm || s.spaceOf (table + l.entries * 8 - 1) != .hbm then some (.error 5)
    else
      let pa := s.homed (table + 8 * (va / 2 ^ l.low % l.entries))
      if s.poisoned pa 8 then none
      else
        let e := s.readHome pa 8
        let bit (i : Nat) : Bool := e / 2 ^ i % 2 == 1
        let addr := e / 2 ^ 8 % 2 ^ 40 * 2 ^ 8
        if !bit 0 then some (.error 1)
        else if e / 2 ^ 48 != 0 || bit 7 then some (.error 5)
        else if bit 1 then
          match l.leaf with
          | none => some (.error 5)
          | some size =>
            if addr % size != 0 || !s.pageOk addr size (bit 5) then some (.error 5)
            else some (.ok { ctx := ctx, va := va / size * size, size := size, dpa := addr, x := bit 3, w := bit 2
                             priv := bit 4, persist := bit 5, tso := bit 6 })
        else
          match rest with
          | [] => some (.error 5)
          | n :: _ =>
            if addr % (8 * n.entries) != 0 || s.spaceOf addr != .hbm then some (.error 5)
            else s.walkFrom ctx va rest addr

/-- The walk of a context's tables (R300, R301). -/
def State.walk (s : State) (ctx va : Nat) : Option (Except Nat TlbEntry) :=
  let root := (s.mmu.ptroot.getD ctx 0).toNat
  if root % 2 == 0 then some (.error 1) else s.walkFrom ctx (va % 2 ^ 57) ptLevels (root / 2 ^ 12 % 2 ^ 36 * 2 ^ 12)

/-- A TLB entry that holds an address. -/
def tlbFind (t : List TlbEntry) (ctx va : Nat) : Option TlbEntry :=
  t.find? fun e => e.ctx == ctx && e.va ≤ va && va < e.va + e.size

/-- The leaf for a paged address: first-level TLB, second-level TLB, walk (R304). -/
def State.leaf (s : State) (core : Option Nat) (ctx va : Nat) : Option (Except Nat TlbEntry) :=
  let v := va % 2 ^ 57
  match core.bind fun c => tlbFind (s.core c).tlb ctx v with
  | some e => some (.ok e)
  | none =>
    match tlbFind s.mmu.tlb2 ctx v with
    | some e => some (.ok e)
    | none => s.walk ctx v

/-- A paged address that no TLB holds, under a root that is valid: the walker reads HBM. -/
def State.mustWalk (s : State) (core : Option Nat) (ctx va : Nat) : Bool :=
  let v := va % 2 ^ 57
  (core.bind fun c => tlbFind (s.core c).tlb ctx v).isNone && (tlbFind s.mmu.tlb2 ctx v).isNone &&
    (s.mmu.ptroot.getD ctx 0).toNat % 2 == 1

/-- An access to any of these keys waits while the interleave table is edited, since it reaches HBM (R296). -/
def State.editHolds (s : State) (keys : List Nat) : Bool := s.mmu.ilvEdit && keys.any fun k => s.spaceOf (s.dpaOf k) == .hbm

/-- Whether an address lies in a context's heap (R299). -/
def State.inHeap (s : State) (ctx va : Nat) : Bool :=
  (s.mmu.hbase.getD ctx 0).toNat ≤ va && va < (s.mmu.hlimit.getD ctx 0).toNat

/-- A host DPA lies within its aperture's configured size (R381). -/
def State.apertureOk (s : State) (a : Nat) : Bool :=
  match s.cmd.apertures.find? (·.num == (a - 0x400000000000) / 2 ^ 42) with
  | some p => (a - 0x400000000000) % 2 ^ 42 < p.size
  | none => false

/-- The key of a host DPA (R381): apertures of one queue pair and R_Key that name the same remote page share its bytes, which stand under
the lowest of them (log 155). -/
def State.hostKey (s : State) (a : Nat) : Nat :=
  let off := (a - 0x400000000000) % 2 ^ 42
  match s.cmd.apertures.find? (·.num == (a - 0x400000000000) / 2 ^ 42) with
  | none => a
  | some p =>
    let page := p.base.toNat + off / 4096 * 4096
    let same (q : Aperture) : Bool := q.num < p.num && q.qp == p.qp && q.rkey == p.rkey && q.base.toNat ≤ page && page + 4096 ≤ q.base.toNat + q.size
    if off / 4096 * 4096 + 4096 ≤ p.size then
      (s.cmd.apertures.filter same).foldl (fun k q => min k (0x400000000000 + q.num * 2 ^ 42 + (p.base.toNat + off - q.base.toNat))) a
    else a

/-- The key of a DPA: a re-homed block's at its destination (R358), a host page's (R381). -/
def State.dpaKey (s : State) (a : Nat) : Nat := if s.spaceOf a == .host then s.hostKey a else s.homed a

/-- Resolves an address (R297). -/
def State.xlate (s : State) (core : Option Nat) (ctx : Nat) (priv : Bool) (acc : AccKind) (va : DWord) : Xlate :=
  let v := va.toNat
  if !canonical va then .bad
  else if Config.vwin ≤ v && v < Config.vwinEnd then
    if v < Config.vwin + s.enabled.length * Config.vaultBytes then .vault v else .bad
  else if core == some 688 && Config.trapqBase ≤ v && v < Config.trapqBase + 4096 * 32 then .vault v  -- R378, log 14
  else if s.inHeap ctx v then
    let a := (va + s.mmu.hoff.getD ctx 0).toNat
    if s.spaceOf a == .hbm then .dpa (s.homed a) false false none else .absent a
  else
    match s.thatchAt v with
    | some t =>
      let y := (v - t.vbase) / t.ysize
      if acc.writes then .fault 2
      else
        match s.slotOf t.desc y with
        | some n =>
          .dpa (s.homed (s.mmu.winbase.toNat + n * s.slotSize + (v - t.vbase) % t.ysize)) false false (some (t.desc, y))
        | none => .swap t.desc y
    | none =>
      if s.mmu.ilvEdit && s.mustWalk core ctx v then .held
      else
      match s.leaf core ctx v with
      | none => .ue
      | some (.error k) => .fault k
      | some (.ok e) =>
        if e.priv && !priv then .fault 4
        else if acc.writes && !e.w then .fault 2
        else if acc == .fetch && !e.x then .fault 3
        else if s.spaceOf (e.dpa + v % 2 ^ 57 % e.size) == .host && !s.apertureOk (e.dpa + v % 2 ^ 57 % e.size) then .fault 5
        else .dpa (s.dpaKey (e.dpa + v % 2 ^ 57 % e.size)) e.persist e.tso none

/-- The TLBs keep the leaf of a paged address once it was walked (R304): up to 512 and 32,768 entries. -/
def State.fillTlb (s : State) (core : Option Nat) (ctx : Nat) (va : DWord) : State :=
  let v := va.toNat % 2 ^ 57
  if (Config.vwin ≤ va.toNat && va.toNat < Config.vwinEnd) || s.inHeap ctx va.toNat || (s.thatchAt va.toNat).isSome then s
  else
    match s.leaf core ctx v with
    | some (.ok e) =>
      let s1 := if (tlbFind s.mmu.tlb2 ctx v).isSome then s
        else { s with mmu := { s.mmu with tlb2 := e :: s.mmu.tlb2.take 32767 } }
      match core with
      | none => s1
      | some c => if (tlbFind (s1.core c).tlb ctx v).isSome then s1
                  else s1.modCore c fun k => { k with tlb := e :: k.tlb.take 511 }
    | _ => s

/-! Places of a core (R2, R4, R215). -/

/-- The physical number of a logical core; a control core's is its own (R215). -/
def State.physCore (s : State) (c : Nat) : Nat := if isControl c then c else s.enabled.getD c c

/-- Physical rafter dies that have an enabled core, in order (R4). -/
def State.diesInUse (s : State) : List Nat := (s.enabled.map (· / 84)).eraseDups

/-- The logical die of a logical core (R4, R217). -/
def State.dieOf (s : State) (c : Nat) : Nat := s.diesInUse.findIdx (· == s.physCore c / 84)

/-- The logical cluster of a logical core: eight neighbouring cores of one die (R2, R4). With cores disabled, each die's enabled cores
form clusters by eights in logical order, the last one short (log 118). -/
def State.clusterOf (s : State) (c : Nat) : Nat :=
  let dies := s.diesInUse
  let count (p : Nat) : Nat := (s.enabled.filter (· / 84 == p)).length
  let d := s.physCore c / 84
  let before := (dies.takeWhile (· != d)).foldl (fun a p => a + (count p + 7) / 8) 0
  let start := s.enabled.findIdx (· / 84 == d)
  before + (c - start) / 8

/-- HANDLE (R215). -/
def State.handleOf (s : State) (l : Loc) : Word :=
  BitVec.ofNat 32 (s.physCore l.core * 2 ^ 22 + l.quad * 2 ^ 20 + l.lane * 2 ^ 14 + l.slot * 2 ^ 9)

/-- The vault window address of byte 0 of a core's vault (R298). -/
def vaultBase (core : Nat) : Nat := Config.vwin + core * Config.vaultBytes

/-! Faults (R305 to R308). -/

/-- A fault attaches to an open record that matches, or takes a new one (R308): the record's id. -/
def State.newFault (s : State) (va : DWord) (ctx kind : Nat) (acc : AccKind) (src : Nat) (unit : Word) (lnum : Nat) :
    Nat × State :=
  match s.mmu.recs.find? fun r => !r.closed && r.ctx == ctx && r.va.toNat / 2 ^ 16 == va.toNat / 2 ^ 16 &&
      r.kind == kind && r.acc == acc.code with
  | some r =>
    let j := min 0xFFFF (r.joined + 1)
    let s1 := { s with mmu := { s.mmu with recs := s.mmu.recs.map fun q => if q.id == r.id then { q with joined := j } else q } }
    match r.seq with
    | none => (r.id, s1)
    | some n =>
      -- the posted record's JOINED is rewritten as one 2-byte write
      let nrec := s.mmu.fctl.toNat % 2 ^ 16
      -- during an edit of the interleave table the rewrite waits for its end (R296)
      let at_ := s.homed (s.mmu.fbase.toNat + 64 + 32 * (n % nrec)) + 0x14
      (r.id, if s.editHolds [at_] then
          { s1 with mmu := { s1.mmu with recs := s1.mmu.recs.map fun q => if q.id == r.id then { q with late := true } else q } }
        else s1.writeHome (bytesAt at_ 2 j) false)
  | none =>
    (s.nextId, { s with
      nextId := s.nextId + 1
      mmu := { s.mmu with recs := s.mmu.recs ++
        [{ id := s.nextId, va := va, ctx := ctx, kind := kind, acc := acc.code, src := src, unit := unit, launch := lnum
           joined := 0, seq := none, closed := false }] } })

/-- The rewrites of posted records' JOINED fields that an edit of the interleave table held (R296, R308). -/
def State.joinedWrite (s : State) : State :=
  let s1 := (s.mmu.recs.filter (·.late)).foldl (fun s r => match r.seq with
    | none => s
    | some n => s.writeHome (bytesAt (s.homed (s.mmu.fbase.toNat + 64 + 32 * (n % (s.mmu.fctl.toNat % 2 ^ 16))) + 0x14) 2 r.joined) false) s
  { s1 with mmu := { s1.mmu with recs := s1.mmu.recs.map fun r => { r with late := false } } }

end Sys2Proof.Machine
end

