-- ==== Sys2Proof/Machine/Access.lean ====
section
/-! DEFINITION. Accesses in flight: the order R320 to R326 keeps, what loads, stores and atomics do when they perform
(R160, R161, R192 to R197, R317, R318), the write-combining buffer (R162), deterministic views (R208, R209). -/

namespace Sys2Proof.Machine

/-- Whether an access loads (R320). A barrier port operation reads and writes its object (R177). -/
def AccOp.loads : AccOp → Bool
  | .load .. => true
  | .ldv .. => true
  | .dld .. => true
  | .atomic (d := d) .. => d.isSome
  | .barrier .. => true
  | .qtry .. => true
  | _ => false

/-- Whether an access stores (R320). -/
def AccOp.stores : AccOp → Bool
  | .store .. => true
  | .atomic .. => true
  | .barrier .. => true
  | .emit .. => true
  | .unlock .. => true
  | .qtry .. => true
  | _ => false

/-- Two lists of ranges share a byte. -/
def rangesMeet (xs ys : List (Nat × Nat)) : Bool :=
  xs.any fun x => ys.any fun y => x.1 < y.1 + y.2 && y.1 < x.1 + x.2

/-- Whether a fence, PBAR or release at y waits for x, or one at x holds y (R166, R167, R323, R325, R326). -/
def fenceOrder (x y : Access) : Bool :=
  let xm := x.op.loads || x.op.stores
  let ym := y.op.loads || y.op.stores
  let later : Bool := match y.op with
    | .fence .acq => x.op.loads
    | .fence _ => xm && !(x.weak && !y.wide)
    | .pbar _ => x.op.stores && x.persist
    | _ => false
  let earlier : Bool := match x.op with
    | .fence .rel => y.op.stores || y.rel
    | .fence _ => ym || y.rel
    | .pbar _ => y.op.stores && y.persist
    | _ => false
  later || earlier || x.acq || (y.rel && xm && !(x.weak && !y.wide))

/-- The pairs of R320 that are kept; a load that hits the L1 cache does not read the home (R318). -/
def keptOrder (x y : Access) (yHome : Bool) : Bool :=
  (x.op.loads && y.op.stores) ||
  (x.op.loads && y.op.loads && (rangesMeet x.reads y.reads || (x.tso && y.tso))) ||
  (x.op.stores && y.op.stores && (rangesMeet x.writes y.writes || (x.tso && y.tso))) ||
  (x.op.stores && y.op.loads && yHome && rangesMeet x.writes y.reads)

/-- x, issued earlier, performs before y: both of one thread, in a kept order; or the replays of one instruction's atomic lanes at one
address, which a quadrant's log applies in ascending lane order (R197, R276). -/
def mustPrecede (x y : Access) (yHome : Bool) : Bool :=
  (x.uids.any (y.uids.contains ·) && (fenceOrder x y || keptOrder x y yHome)) ||
  (x.again.isSome && x.again == y.again && x.pc == y.pc && rangesMeet x.writes y.writes)

/-- A line of the core's L1, which tags lines by DPA (R318), for a home key. -/
def State.l1Line (s : State) (core key : Nat) : Option (Nat × List Byte) :=
  (s.core core).l1.find? (·.1 == s.dpaOf key / 256)

/-- A load that would hit the core's L1 does not read the home (R318). -/
def State.readsHome (s : State) (a : Access) : Bool :=
  match a.op with
  | .load (fresh := fresh) (key := key) .. =>
    fresh || a.acq || Config.vwin ≤ key ||
      !(match (a.uids.head?.bind s.thread?) with
        | some t => (s.l1Line t.loc.core key).isSome
        | none => false)
  | .ldv (fresh := fresh) .. =>
    fresh || !(match (a.uids.head?.bind s.thread?) with
      | some t => a.reads.all fun r => (s.l1Line t.loc.core r.1).isSome
      | none => false)
  | _ => true

/-- Bytes of the access's writes that go to PERSIST pages. -/
def Access.persistBytes (a : Access) : Nat := if a.persist then a.writes.foldl (fun n r => n + r.2) 0 else 0

/-- A key may be reached: no vault window of a die whose cores are in reset (R360). -/
def State.vaultUp (s : State) (key : Nat) : Bool :=
  !(Config.vwin ≤ key) || s.power.dieState.getD (s.physCore ((key - Config.vwin) / Config.vaultBytes) / 84) 0 == 0

/-- The home serves a device agent's access to these keys: no edit of the interleave table holds them (R296), their dies' cores are up
(R360), and a write finds room for its forced saves (R347) and, from a PERSIST page, in the persist queue (R342). -/
def State.homeFree (s : State) (ks : List Nat) (write persist : Bool) : Bool :=
  !s.editHolds ks && ks.all s.vaultUp &&
  (!write || (!(ks.any fun k => s.stagingFull (k / 64)) && (!persist || s.pqRoom ks.length)))

/-- Lines of 64 bytes that ranges touch. -/
def rangeLines (rs : List (Nat × Nat)) : List Nat :=
  (rs.flatMap fun r => (List.range ((r.1 % 64 + r.2 + 63) / 64)).map fun i => r.1 / 64 + i).eraseDups

/-- An HBM access waits while the interleave table is edited (R296), and a write while its forced save has no room (R347); a vault
access waits while its die's cores are in reset (R360); a store to a PERSIST page waits for room (R342). -/
def State.homeReady (s : State) (a : Access) : Bool :=
  let keys := (a.reads ++ a.writes).map (·.1)
  !s.editHolds keys && s.pqRoom a.persistBytes && keys.all s.vaultUp &&
  (s.ckpt.sweep.isNone || (rangeLines a.writes).all fun l => !s.stagingFull l)

/-- Adds an access in flight, after those issued earlier. -/
def State.enqueue (s : State) (a : Access) : State :=
  { s with nextId := s.nextId + 1, inflight := s.inflight ++ [{ a with id := s.nextId }] }

/-- An access with nothing set. -/
def Access.blank (uids : List Nat) (op : AccOp) (setf : BitVec 4) (pc : DWord) (ilen : Nat) : Access :=
  { id := 0, uids := uids, op := op, reads := [], writes := [], acq := false, rel := false, weak := false, tso := false
    persist := false, wide := true, setf := setf, also := [], pc := pc, ilen := ilen }

/-- An access leaves the log entry that it replays; an entry whose accesses have all completed leaves the log (R276). -/
def LogEntry.doneWith (id : Nat) (e : LogEntry) : Option LogEntry :=
  if e.acts.contains id then
    (let r := e.acts.filter (· != id); if r.isEmpty then none else some { e with acts := r })
  else some e

/-- An access leaves, with the log entry that it was the replay of, its lines are marked as its CHINT says (R31), and its flags
fall. -/
def State.finish (s : State) (a : Access) : State :=
  { s with inflight := s.inflight.filter (·.id != a.id)
           marks := s.marksAfter a.hint ((a.reads ++ a.writes).map fun (r : Nat × Nat) => r.1 / 256)
           mmu := { s.mmu with log := s.mmu.log.filterMap (LogEntry.doneWith a.id) } }.flagFall (a.uids ++ a.also) a.setf

/-- MDRAINs of a core whose stores are not in flight: in the queue, executing, or copied and held by a fault (R153). -/
def CoreSt.drainsLeft (c : CoreSt) : List MCmd :=
  (match c.drain with | some d => if d.acc.isNone then [d.cmd] else [] | none => []) ++
    (c.mexec.toList.map (·.cmd) ++ c.mqueue).filter fun m => match m.kind with | .drain .. => true | _ => false

/-- The MDRAINs whose stores these threads still owe: those of the scalar lane's thread (R153). -/
def State.drainsOf (s : State) (uids : List Nat) : List MCmd :=
  s.cores.flatMap fun p => p.2.drainsLeft.filter fun m => (m.uids.take 1).any (uids.contains ·)

/-! Machine checks (R147, R354). -/

/-- Clears the arrivals of these threads (R106, R139). -/
def CoreSt.kUnarrive (c : CoreSt) (uids : List Nat) : CoreSt :=
  { c with k := c.k.map fun k => { k with arrived := k.arrived.filter fun u => !uids.contains u } }

/-- Clears collective and convergence arrivals of threads (R106, R139): they arrive again on resumption. -/
def State.clearArrivals (s : State) (uids : List Nat) : State :=
  { s with
    threads := s.threads.map fun t => if uids.contains t.uid then
      (match t.hold with | .collective => { t with hold := .free } | .converge _ => { t with hold := .free } | _ => t) else t
    cores := s.cores.map fun p => (p.1, p.2.kUnarrive uids) }

/-- A machine check in these threads: the live ones trap, and their workgroups stop as at a halt, with every arrival cleared (R147,
R273). Where none is live, one record carries the first one's handle (log 113). One raised `late`, after its instruction issued, takes
that instruction out of RETIRED (R218). -/
def State.machineCheck (s : State) (uids : List Nat) (c : Cause) (ilen : Nat) (pc : DWord) (late : Bool := false) :
    State :=
  let ts := uids.filterMap s.thread?
  let wgs := ts.filterMap s.wgOf |>.map fun g => (g.lnum, g.idx)
  let mine (t : Thread) : Bool := match s.wgOf t with | some g => wgs.contains (g.lnum, g.idx) | none => false
  let rest := match ts.head? with
    | some t => if ts.any (·.status == .live) then [] else [(s.handleOf t.loc, t.record (s.trapIds t) c ilen pc)]
    | none => []
  let s1 := s.clearArrivals ((s.threads.filter mine).map (·.uid))
  { s1 with
    threads := s1.threads.map fun t => if uids.contains t.uid && t.status == .live then
      { t.trap (s.trapIds t) c ilen pc with retired := if late then t.retired - 1 else t.retired } else t
    cmd := { s.cmd with trapWait := s.cmd.trapWait ++ rest }
    wgs := s.wgs.map fun g => if wgs.contains (g.lnum, g.idx) then { g with mcheck := true } else g }

/-- The machine check of uncorrectable data at a key (R354). -/
def ueCause (key : Nat) : Cause := if Config.vwin ≤ key then cVaultUe else cMemUe

/-! Deterministic views (R208, R209, R335). -/

/-- The launch of a thread in a deterministic kernel. -/
def State.detLaunch (s : State) (t : Thread) : Option Launch :=
  (s.wgOf t).bind fun g => if g.hdr.det then s.launch? g.lnum else none

/-- Whether a global line is private to a workgroup in this superstep. -/
def Launch.privateTo (l : Launch) (wg key : Nat) : Bool := l.owned.contains (key / 256, wg)

/-- A byte of global memory as the core's L1 or the home gives it (R161, R318). -/
def State.l1Byte (s : State) (t : Thread) (home : Bool) (key : Nat) : Byte :=
  if home then memGet s.mem key
  else
    match s.l1Line t.loc.core key with
    | some ln => ln.2.getD (key % 256) 0
    | none => memGet s.mem key

/-- A byte as a thread's load sees it: the L1's copy, the superstep's start, or the home. A private line follows the ordinary rules
(R335). -/
def State.viewByte (s : State) (t : Thread) (home : Bool) (key : Nat) : Byte :=
  if Config.vwin ≤ key then memGet s.mem key
  else
    match s.detLaunch t, s.wgOf t with
    | some l, some g => if l.privateTo g.idx key then s.l1Byte t home key else memGet l.start key
    | _, _ => s.l1Byte t home key

/-- The lines of these keys enter the core's L1 under their DPAs, as they stand at home: those missing, or all for a fresh read
(R161, R318). With CHINT 1 they are marked first for replacement: they stand last (R31). -/
def State.fillL1 (s : State) (core : Nat) (refill : Bool) (keys : List Nat) (last : Bool := false) : State :=
  let lines := ((keys.filter fun k => s.spaceOf k == .hbm || s.spaceOf k == .scm).map fun k => s.dpaOf k / 256).eraseDups
  lines.foldl (fun s ln =>
    let old := (s.core core).l1.find? (·.1 == ln)
    let home := (ln, (List.range 256).map fun i => memGet s.mem (s.homed (ln * 256) + i))
    let put (x : Nat × List Byte) : State := s.modCore core fun k =>
      let rest := (k.l1.filter (·.1 != ln)).take 1279
      { k with l1 := if last then rest ++ [x] else x :: rest }
    match old with
    | some x => if refill then put home else if last then put x else s
    | none => put home) s

/-! Loads. -/

/-- The value an LD writes (R159). -/
def loadRegs (sz : Sz) (d : Reg) (v : Nat) (tag : Byte) : List (Nat × VReg) :=
  match sz with
  | .b8s => wr1 d (BitVec.ofInt 32 (signExt 8 v)) tag
  | .h16s => wr1 d (BitVec.ofInt 32 (signExt 16 v)) tag
  | .d64 => wrn d 2 v tag
  | .q128 => wrn d 4 v tag
  | _ => wrn d 1 v tag

/-- Writes registers of a live thread; those of an exited one are discarded (R82). -/
def State.writeRegs (s : State) (uid : Nat) (ws : List (Nat × VReg)) : State :=
  s.modThread uid fun t => if t.status == .exited then t else { t with v := Machine.writeRegs t.v ws }

/-- The registers of an LDV run (R164): perReg elements of elemBits each, and the block exponent as side scale. -/
def ldvRegs (d perReg elemBits : Nat) (tag scale : Byte) (es : List Nat) : List (Nat × VReg) :=
  (List.range ((es.length + perReg - 1) / perReg)).map fun j =>
    let part := (es.drop (j * perReg)).take perReg
    (d + j, { val := BitVec.ofNat 32 (part.reverse.foldl (fun a e => a * 2 ^ elemBits + e) 0), tag := tag, scale := scale })

/-- A load performs: its bytes are read, its lines fill the L1, its registers are written, its flag falls. A DLD reads the home and
leaves the L1 as it is (log 138). -/
def State.performLoad (s : State) (a : Access) : State :=
  let s := s.hostReads a.reads
  match a.uids.head?.bind s.thread? with
  | none => s.finish a
  | some t =>
    match a.reads.find? fun r => s.poisoned r.1 r.2 with
    | some r => (s.finish a).machineCheck [t.uid] (ueCause r.1) a.ilen a.pc true
    | none =>
      match a.op with
      | .load key size sz d tag fresh nt =>
        let home := fresh || a.acq
        let v := natOfBytes ((List.range size).map fun i => s.viewByte t home (key + i))
        let s1 := s.writeRegs t.uid (loadRegs sz (BitVec.ofNat 8 d) v tag)
        -- a `.nt` load allocates no line (R162); a fresh one refills a line that is held (R161), an acquire does not (R318)
        let held := (s1.l1Line t.loc.core key).isSome
        (if nt && !(fresh && held) then s1 else s1.fillL1 t.loc.core fresh [key] (a.hint == 1)).finish a
      | .ldv d tag elemBits perReg bits scale fresh =>
        let byte (k : Nat) : Nat := (s.viewByte t fresh k).toNat
        let es := bits.map fun b =>
          (b.1.reverse.foldl (fun v k => v * 256 + byte k) 0) / 2 ^ b.2 % 2 ^ elemBits
        let sc : Byte := match scale with | some k => s.viewByte t fresh k | none => 0
        let s1 := if d == 255 then s else s.writeRegs t.uid (ldvRegs d perReg elemBits tag sc es)
        (s1.fillL1 t.loc.core fresh (a.reads.map (·.1)) (a.hint == 1)).finish a
      | .dld reg wid seq =>
        let bs := a.reads.flatMap fun r => (List.range r.2).map fun i => s.viewByte t true (r.1 + i)
        let comps := (List.range 256).map fun j => (BitVec.ofNat 16 (natOfBytes ((bs.drop (2 * j)).take 2)) : Half)
        (s.modWave wid fun w => w.dLand { due := s.clock, reg := reg, comps := some comps
                                          norm := some (BitVec.ofNat 32 (natOfBytes ((bs.drop 512).take 4))), seq := seq }).finish a
      | _ => s

/-! Atomics (R191 to R197). -/

/-- One atomic step on a w-bit value (R193): the new value. -/
def atomicStep (op : AOp) (u : Bool) (w m b : Nat) : Nat :=
  match op with
  | .add => (m + b) % 2 ^ w
  | .min => if asInt u w b < asInt u w m then b else m
  | .max => if asInt u w m < asInt u w b then b else m
  | .and => m &&& b
  | .or => m ||| b
  | .xor => m ^^^ b
  | .xchg => b
  | .inc => if b ≤ m then 0 else m + 1
  | .dec => if m == 0 || b < m then b else m - 1
  | .fadd => (fmtF32.round ((fmtF32.decode m).add (fmtF32.decode b) false).1 .rne 0).1

/-- The lanes of one request in ascending order (R194): the final value and each lane's old value. -/
def atomicLanes (op : AOp) (cas u : Bool) (w m : Nat) : List ALane → Nat × List (ALane × Nat)
  | [] => (m, [])
  | l :: ls =>
    let b := l.b.toNat % 2 ^ w
    let m1 := if cas then (if m == b then l.c.toNat % 2 ^ w else m) else atomicStep op u w m b
    let r := atomicLanes op cas u w m1 ls
    (r.1, (l, m) :: r.2)

/-- An atomic request performs at its home (R193 to R196). -/
def State.performAtomic (s : State) (a : Access) : State :=
  match a.op with
  | .atomic key op cas w64 u lanes d tag =>
    let size := if w64 then 8 else 4
    if s.poisoned key size then (s.finish a).machineCheck a.uids (ueCause key) a.ilen a.pc true
    else
      let r := atomicLanes op cas u (8 * size) (s.readHome key size) lanes
      let s1 := s.writeHome (bytesAt key size r.1) a.persist a.nt
      let s2 := match d with
        | none => s1
        | some d => (r.2.filter fun (p : ALane × Nat) => !p.1.quiet).foldl (fun (s : State) (p : ALane × Nat) => s.writeRegs p.1.uid (wrw w64 (BitVec.ofNat 8 d) (BitVec.ofNat 64 p.2) tag)) s1
      s2.finish a
  | _ => s

/-! The write-combining buffer (R162, R326). -/

/-- Lines of a core's buffer that one of these threads stored to leave it, each as a store in flight. -/
def State.flushWc (s : State) (core : Nat) (sel : WcLine → Bool) : State :=
  let ls := (s.core core).wcb.filter sel
  let s1 := s.modCore core fun k => { k with wcb := k.wcb.filter fun l => !sel l }
  ls.foldl (fun s l =>
    let a := Access.blank ((l.owners.map (·.1)).eraseDups) (.store l.bytes) 15 0 0
    -- each owner's flag falls when the line has performed: one access per flag-carrying store, the bytes in the first
    let s2 := s.enqueue { a with writes := l.bytes.map fun b => (b.1, 1), weak := true, persist := l.persist, nt := l.nt, hint := l.hint }
    l.owners.foldl (fun s o => if o.2 == 15 then s
      else s.enqueue { Access.blank [o.1] (.store []) o.2 0 0 with writes := l.bytes.map fun b => (b.1, 1), weak := true }) s2) s1

/-- A thread's lines leave the buffer at a release, FENCE or WAITF.MEM (R162). -/
def State.flushOwn (s : State) (t : Thread) : State :=
  s.flushWc t.loc.core fun l => l.owners.any (·.1 == t.uid)

/-- A `.wc` store merges into its lines; the oldest line leaves a full buffer of 64 (R162). -/
def State.wcStore (s : State) (core : Nat) (bs : List (Nat × Byte)) (owners : List (Nat × BitVec 4)) (persist nt : Bool)
    (hint : Nat) : State :=
  (linesOf bs 256).foldl (fun s ln =>
    let mine := bs.filter fun b => b.1 / 256 == ln
    match (s.core core).wcb.find? (·.line == ln) with
    | some l =>
      s.modCore core fun k => { k with wcb := k.wcb.map fun x => if x.line == ln then
        { l with bytes := (l.bytes.filter fun b => !mine.any (·.1 == b.1)) ++ mine, owners := l.owners ++ owners
                 persist := l.persist || persist, nt := l.nt && nt, hint := hint } else x }
    | none =>
      let s1 := if (s.core core).wcb.length < 64 then s
        else match (s.core core).wcb.head? with
          | some o => s.flushWc core fun l => l.line == o.line
          | none => s
      s1.modCore core fun k => { k with wcb := k.wcb ++
        [{ line := ln, bytes := mine, owners := owners, persist := persist, since := s.clock, nt := nt, hint := hint }] }) s

/-! Other accesses that perform as stores or fences. -/

/-- L1 invalidation by mode (R219). -/
def State.l1Invalidate (s : State) (core mode : Nat) : State :=
  let f (k : CoreSt) : CoreSt := { k with l1 := if mode == 1 then k.l1 else [], l1i := if mode == 0 then k.l1i else [] }
  if mode == 3 then { s with cores := s.cores.map fun p => (p.1, f p.2) } else s.modCore core f

/-- TLB invalidation by mode (R219): 0 all, 1 the context, 2 and 3 a range of 64 KiB pages from va. -/
def State.tlbInvalidate (s : State) (mode ctx va count : Nat) : State :=
  let hit (e : TlbEntry) : Bool :=
    if mode == 0 then true
    else if mode == 1 then e.ctx == ctx
    else
      let lo := va % 2 ^ 57 / 2 ^ 16 * 2 ^ 16
      let n := if mode == 3 then 1 else count
      e.va < lo + n * 2 ^ 16 && lo < e.va + e.size
  { s with cores := s.cores.map fun p => (p.1, { p.2 with tlb := p.2.tlb.filter fun e => !hit e })
           mmu := { s.mmu with tlb2 := s.mmu.tlb2.filter fun e => !hit e } }

/-- TLBINV at its place (R219, R304): first the matching entries leave every TLB and the write-combining buffers empty; it completes when
the accesses then in flight, which may have used the entries, have performed. -/
def State.performTlbinv (s : State) (a : Access) (mode ctx va count : Nat) (waits : Option (List Nat)) : State :=
  match waits with
  | some _ => s.finish a
  | none =>
    let s1 := s.cores.foldl (fun s p => s.flushWc p.1 fun _ => true) (s.tlbInvalidate mode ctx va count)
    let ws := (s1.inflight.filter fun x => x.op.loads || x.op.stores).map (·.id)
    if ws.isEmpty then s1.finish a
    else { s1 with inflight := s1.inflight.map fun x => if x.id == a.id then { x with op := .tlbinv mode ctx va count (some ws) } else x }

end Sys2Proof.Machine
end

