-- ==== Sys2Proof/Machine/BarrierObj.lean ====
section
/-! DEFINITION. Barrier objects and stage rings at the vault port (R176 to R183), party lists (R262, R263). -/

namespace Sys2Proof.Machine

/-- A barrier object (R176). -/
structure BarObj where
  expect : Nat
  count : Nat
  baseexp : Nat
  parties : Nat
  arrived : Nat
  status : Nat
  last : Nat
  inflight : Nat
  flips : Nat
  deriving DecidableEq, Repr

/-- The object at a key. -/
def State.barGet (s : State) (k : Nat) : BarObj :=
  { expect := s.readHome k 4, count := s.readHome (k + 4) 4, baseexp := s.readHome (k + 8) 4
    parties := s.readHome (k + 12) 2, arrived := s.readHome (k + 14) 2, status := s.readHome (k + 16) 2
    last := s.readHome (k + 18) 2, inflight := s.readHome (k + 20) 2, flips := s.readHome (k + 24) 4 }

/-- Writes the object. -/
def State.barPut (s : State) (k : Nat) (b : BarObj) : State :=
  s.writeHome (bytesAt k 4 b.expect ++ bytesAt (k + 4) 4 b.count ++ bytesAt (k + 8) 4 b.baseexp ++
    bytesAt (k + 12) 2 b.parties ++ bytesAt (k + 14) 2 b.arrived ++ bytesAt (k + 16) 2 b.status ++
    bytesAt (k + 18) 2 b.last ++ bytesAt (k + 20) 2 b.inflight ++ bytesAt (k + 24) 4 b.flips) false

/-- STATUS.PHASE. -/
def BarObj.phase (b : BarObj) : Bool := b.status % 2 == 1

/-- STATUS with ERR set. -/
def setErr (st : Nat) : Nat := if st / 2 % 2 == 1 then st else st + 2

/-- A saturating addition (R178): the sum, and whether it saturated. -/
def satAdd (mx a n : Nat) : Nat × Bool := if mx < a + n then (mx, true) else (a + n, false)

/-- Evaluate (R178). -/
def BarObj.evaluate (b : BarObj) : BarObj :=
  if b.parties == 0 && b.expect == 0 then b
  else if b.parties ≤ b.arrived && b.expect ≤ b.count then
    let st := if b.parties < b.arrived || b.expect < b.count then setErr b.status else b.status
    { b with last := st / 2 % 64 * 2, status := if st % 2 == 1 then 0 else 1, count := 0, arrived := 0
             expect := b.baseexp, flips := (b.flips + 1) % 2 ^ 32 }
  else b

/-- Credit (R178): n bytes, status bits [6:2], poisoned or not. -/
def BarObj.credit (b : BarObj) (n cond : Nat) (poisoned : Bool) : BarObj :=
  let c := satAdd (2 ^ 32 - 1) b.count n
  let st := (b.status ||| (cond % 32 * 4))
  { b with count := c.1, status := if poisoned || c.2 then setErr st else st }.evaluate

/-- Arrive (R178). -/
def BarObj.arrive (b : BarObj) (n : Nat) : BarObj :=
  let e := satAdd (2 ^ 32 - 1) b.expect n
  let a := satAdd (2 ^ 16 - 1) b.arrived 1
  { b with expect := e.1, arrived := a.1, status := if e.2 || a.2 then setErr b.status else b.status }.evaluate

/-- BEXP (R179). -/
def BarObj.expectMore (b : BarObj) (n : Nat) : BarObj :=
  let e := satAdd (2 ^ 32 - 1) b.expect n
  { b with expect := e.1, status := if e.2 then setErr b.status else b.status }.evaluate

/-- BDROP (R179). -/
def BarObj.drop (b : BarObj) : BarObj := { b with parties := b.parties - 1 }.evaluate

/-- BINIT (R179): INFLIGHT is kept. -/
def BarObj.init (b : BarObj) (parties bytes : Nat) : BarObj :=
  { b with parties := parties, baseexp := bytes, expect := bytes, count := 0, arrived := 0, status := 0, last := 0, flips := 0 }

/-- Credits an object (R170, R178) when it lies in a vault. A credit to uncorrectable data writes nothing and is a machine check of
the thread that issued the command (R354, log 114). -/
def State.creditBar (s : State) (uid k n cond : Nat) (poisoned : Bool) : State :=
  if k < Config.vwin then s
  else if s.poisoned k 32 then s.machineCheck [uid] cVaultUe 0 (((s.thread? uid).map (·.pc)).getD 0)
  else s.barPut k ((s.barGet k).credit n cond poisoned)

/-- INFLIGHT rises when a command is queued and falls with its last credit (R178). -/
def State.barInflight (s : State) (k : Nat) (up : Bool) : State :=
  let b := s.barGet k
  if k < Config.vwin || s.poisoned k 32 then s else s.barPut k { b with inflight := if up then min 0xFFFF (b.inflight + 1) else b.inflight - 1 }

/-- The unit of a drop has arrived in the open phase (R263). -/
def dropAt (b : BarObj) (p : Party) : BarObj :=
  let b1 := if p.flips.toNat == b.flips && p.arrived then { b with arrived := b.arrived - 1 } else b
  b1.drop

/-- The threads of a party's unit. -/
def State.unitUids (s : State) : PUnit → List Nat
  | .wave wid => (s.threads.filter (·.wid == wid)).map (·.uid)
  | .thread uid => [uid]

/-- One party entry is dropped at its object (R263); uncorrectable data there is written by nothing, and is a machine check (R354). -/
def State.dropParty (s : State) (p : Party) : State :=
  if s.poisoned p.key 32 then
    s.machineCheck (s.unitUids p.unit) cVaultUe 0 ((((s.unitUids p.unit).head?.bind s.thread?).map (·.pc)).getD 0)
  else s.barPut p.key (dropAt (s.barGet p.key) p)

/-- Drops these party entries of a workgroup at their objects (R263). -/
def State.dropParties (s : State) (lnum idx : Nat) (sel : PUnit → Bool) : State :=
  match s.wg? lnum idx with
  | none => s
  | some g =>
    let ps := g.party.filter fun p => sel p.unit
    let s1 := ps.foldl State.dropParty s
    s1.modWg lnum idx fun g => { g with party := g.party.filter fun p => !sel p.unit }

/-- A unit's arrival in its workgroup's list (R262); none when it would need a 1,025th entry. -/
def partyArrive (ps : List Party) (key : Nat) (u : PUnit) (flips : Nat) : Option (List Party) :=
  let e : Party := { key := key, unit := u, flips := BitVec.ofNat 32 flips, arrived := true }
  if ps.any fun p => p.key == key && p.unit == u then
    some (ps.map fun p => if p.key == key && p.unit == u then e else p)
  else if 1024 ≤ ps.length then none
  else some (ps ++ [e])

/-- Whether a party unit still lives. -/
def State.unitLives (s : State) : PUnit → Bool
  | .wave wid => s.threads.any fun t => t.wid == wid && t.status != .exited
  | .thread uid => match s.thread? uid with | some t => t.status != .exited | none => false

/-- One arrival at the port (R178, R262). A unit that has exited meanwhile is dropped at once, after it (R263). The entry's
FLIPS is the phase it arrived in. -/
def State.arriveAt (s : State) (lnum idx key : Nat) (u : PUnit) (n : Nat) : Option State :=
  match s.wg? lnum idx with
  | none => none
  | some g =>
    let b := s.barGet key
    (partyArrive g.party key u b.flips).map fun ps =>
      let s1 := (s.barPut key (b.arrive n)).modWg lnum idx fun g => { g with party := ps }
      if s.unitLives u then s1 else s1.dropParties lnum idx (· == u)

/-! Stage rings (R182, R183). -/

/-- BINIT.RING at the port: none where DEPTH lies outside 2 to 16. -/
def State.ringInit (s : State) (k : Nat) (full empty bytes : Nat) : Option State :=
  let depth := s.readHome k 1
  if depth < 2 || 16 < depth then none
  else
    let arm (s : State) (key parties bytes : Nat) : State := s.barPut key ((s.barGet key).init parties bytes)
    let s1 := (List.range depth).foldl (fun s i => arm (arm s (k + 0x40 + 32 * i) full bytes)
      (k + 0x40 + 32 * depth + 32 * i) empty 0) s
    some (s1.writeHome (bytesAt (k + 4) 4 0 ++ bytesAt (k + 8) 4 0) false)

/-- RINGNEXT at the port (R183): the value of vd. -/
def State.ringNext (s : State) (k : Nat) (consumer : Bool) : Word × State :=
  let at_ := if consumer then k + 8 else k + 4
  let cur := s.readHome at_ 4
  let slot := cur % 256
  let ph : Bool := cur / 256 % 2 == 1
  let out : Bool := if consumer then ph else !ph
  let next := (slot + 1) % 256
  let wrap : Bool := next == s.readHome k 1
  let slot1 := if wrap then 0 else next
  let ph1 : Bool := if wrap then !ph else ph
  (BitVec.ofNat 32 (slot * 256 + (if out then 1 else 0)),
   s.writeHome (bytesAt at_ 4 ((if ph1 then 256 else 0) + slot1)) false)

/-- An operation at the port meets uncorrectable data (R354): in its object, or in a ring's barriers, which BINIT.RING writes. -/
def State.portPoisoned (s : State) (key : Nat) (op : BarOp) : Bool :=
  s.poisoned key 32 ||
  match op with
  | .init true _ _ => let d := s.readHome key 1; 2 ≤ d && d ≤ 16 && s.poisoned (key + 0x40) (64 * d)
  | _ => false

/-- The keys a BINIT of the workgroup clears from the party list: the object's, or every barrier of a ring. -/
def State.ringKeys (s : State) (k : Nat) : List Nat :=
  let depth := s.readHome k 1
  (List.range (2 * depth)).map fun i => k + 0x40 + 32 * i

end Sys2Proof.Machine
end

