-- ==== Sys2Proof/Machine/LinkState.lean ====
section
/-! DEFINITION. The state of a link (R385 to R388): its wavelengths, whether it is in service, the links to a package, and whether the
package's own traffic may go (R351, R384). -/

namespace Sys2Proof.Machine

/-- A link as at reset (R385; log 5 for SEQ): it comes into service when it has trained (R391). -/
def Link.reset (n : Nat) : Link :=
  { num := n, state := List.replicate 8 0, req := List.replicate 8 0, woke := [], announced := 255, up := false, sendSeq := 0, recvSeq := 0
    queue := [], recent := [], inbuf := [], pausedIn := [], pausedOut := [], crcErrors := 0, replayWait := false }

/-- A link of the package. -/
def State.link (s : State) (l : Nat) : Link := (s.links.find? (·.num == l)).getD (Link.reset l)

/-- State of a wavelength. -/
def Link.st (l : Link) (w : Nat) : Nat := l.state.getD w 0

/-- The request in force for a wavelength: when REQ asks for none, the lowest that is not retraining is active (R386). -/
def Link.wants (l : Link) (w : Nat) : Nat :=
  let up := (List.range 8).filter fun i => l.st i != 3
  if up.any fun i => l.req.getD i 0 == 0 then l.req.getD w 0
  else if up.head? == some w then 0 else l.req.getD w 0

/-- A wavelength is waking (R387, R388). -/
def Link.waking (l : Link) (w : Nat) : Bool := l.wants w == 0 && (l.st w == 1 || l.st w == 2 || l.woke.contains w)

/-- The link is in service (R387). -/
def Link.inService (l : Link) : Bool := l.up && (List.range 8).any fun w => l.st w == 0 || l.waking w

/-- Since when a link is out of service, after a change (R351). -/
def Link.stamped (l0 l1 : Link) (now : Nat) : Link :=
  { l1 with downSince := if l1.inService then none else if l0.inService then some now else l1.downSince }

/-- Changes a link. -/
def State.modLink (s : State) (l : Nat) (f : Link → Link) : State :=
  let g (x : Link) : Link := x.stamped (f x) s.clock
  { s with links := if s.links.any (·.num == l) then s.links.map fun x => if x.num == l then g x else x
                    else s.links ++ [g (Link.reset l)] }

/-- The links whose wavelengths LNKHINT asks for: the direct ones, or the first hop (R386). -/
def State.hintLinks (s : State) (pkg : Nat) : List Nat :=
  let direct := (List.range s.cmd.links.length).filter fun l => s.cmd.links.getD l none == some pkg
  if direct.isEmpty then (s.cmd.hops.getD pkg none).toList else direct

/-- Traffic of a lane for a package may leave (R351, R384): some link to it is in service, and the far end has not paused the lane. -/
def State.laneOpen (s : State) (pkg vl : Nat) : Bool :=
  (s.hintLinks pkg).any fun l => (s.link l).inService && !(s.link l).pausedIn.contains vl

/-- Every link to a package has been out of service for 20 us (R351): the direct ones, or its first hop. -/
def State.cutOff (s : State) (pkg : Nat) : Bool :=
  let ls := s.hintLinks pkg
  !ls.isEmpty && ls.all fun l => match (s.link l).downSince with | some t => decide (t + 20 * Config.us ≤ s.clock) | none => false

/-- A package of the job that is lost by that, and not yet known to be (R351). -/
def State.newlyLost (s : State) : Option Nat :=
  (List.range s.cmd.npkg).find? fun p => p != s.cmd.rank && !s.cmd.lost.contains p && s.cutOff p

end Sys2Proof.Machine
end

