-- ==== Sys2Proof/Machine/Tensor.lean ====
section
/-! DEFINITION. Tensor parameter records (R71, R72): checks, elements, their places, values and dither coordinates. -/

namespace Sys2Proof.Machine

/-- A field of n bytes at an offset of a record's bytes. -/
def fieldAt (bs : List Byte) (off n : Nat) : Nat := natOfBytes ((bs.drop off).take n)

/-- The record in 64 bytes (R71). -/
def TRec.ofBytes (bs : List Byte) : TRec :=
  { base := BitVec.ofNat 64 (fieldAt bs 0 8), sbase := BitVec.ofNat 64 (fieldAt bs 8 8), fmt := fieldAt bs 0x38 1
    ndim := fieldAt bs 0x39 1, block := fieldAt bs 0x3A 1
    dims := (List.range 5).map fun i => fieldAt bs (0x10 + 4 * i) 4
    strides := (List.range 4).map fun i => fieldAt bs (0x24 + 4 * i) 4
    clamp := BitVec.ofNat 32 (fieldAt bs 0x34 4)
    ditherRow := fieldAt bs 0x3B 1 % 16, ditherCol := fieldAt bs 0x3B 1 / 16 }

/-- FMT as a tag. -/
def TRec.tag (r : TRec) : Byte := BitVec.ofNat 8 r.fmt
/-- Whether FMT is a BFP format. -/
def TRec.isBfp (r : TRec) : Bool := tagIsBfp r.tag
/-- m of BFPm. -/
def TRec.m (r : TRec) : Nat := r.fmt - 0x20
/-- Bits of one element (R71). -/
def TRec.bits (r : TRec) : Nat := if r.isBfp then r.m else elemWidth r.tag false
/-- A stride as a signed number. -/
def TRec.stride (r : TRec) (i : Nat) : Int := signExt 32 (r.strides.getD i 0)

/-- The checks of R72, given the reserved bytes. -/
def TRec.ok (r : TRec) (rsv : Nat) : Bool :=
  let narrow := r.isBfp || r.tag == tagE4M3 || r.tag == tagE5M2
  let mx := if r.isBfp then bfpMax r.m else (fmtOf r.tag).maxFrac
  tagOk r.fmt && 1 ≤ r.ndim && r.ndim ≤ 5 &&
  (List.range 5).all (fun i => if i < r.ndim then r.dims.getD i 0 != 0 else r.dims.getD i 0 == 0) &&
  (List.range 4).all (fun i => i + 1 < r.ndim || r.strides.getD i 0 == 0) &&
  canonical r.base && (r.isBfp || r.base.toNat % (r.bits / 8) == 0) &&
  (if r.isBfp then
     r.block == 5 && r.dims.getD 0 0 % 32 == 0 && canonical r.sbase &&
       (List.range 4).all fun i => decide (0 ≤ r.stride i) && r.strides.getD i 0 % 32 == 0
   else r.block == 0 && r.sbase == 0) &&
  (if narrow then boundOk r.clamp mx else r.clamp == 0) && rsv == 0

/-- The record in 64 bytes when it passes R72. -/
def TRec.read (bs : List Byte) : Option TRec :=
  if (TRec.ofBytes bs).ok (fieldAt bs 0x3C 4) then some (TRec.ofBytes bs) else none

/-- The number of elements: the product of the extents (R187). -/
def TRec.count (r : TRec) : Nat := (r.dims.take r.ndim).foldl (· * ·) 1

/-- The coordinates of the e-th element in element order, dimension 0 fastest. -/
def TRec.coordOf (r : TRec) (e : Nat) : List Nat :=
  ((List.range 5).foldl (fun (a : List Nat × Nat) i =>
    if i < r.ndim then (a.1 ++ [a.2 % r.dims.getD i 1], a.2 / r.dims.getD i 1) else (a.1 ++ [0], a.2)) ([], e)).1

/-- Whether coordinates name an element (R71). -/
def TRec.inBounds (r : TRec) (cs : List Nat) : Bool :=
  (List.range 5).all fun i => if i < r.ndim then cs.getD i 0 < r.dims.getD i 0 else cs.getD i 0 == 0

/-- The linear index (R71). -/
def TRec.linear (r : TRec) (cs : List Nat) : Int :=
  (cs.getD 0 0 : Nat) + ((List.range 4).foldl (fun a i => a + r.stride i * (cs.getD (i + 1) 0 : Nat)) 0)

/-- The byte address of an element that is no BFP element. -/
def TRec.addr (r : TRec) (cs : List Nat) : DWord :=
  BitVec.ofInt 64 ((r.base.toNat : Int) + r.linear cs * (r.bits / 8 : Nat))

/-- The address of the byte that holds stream bit b of the mantissa plane (R61). -/
def TRec.mantByte (r : TRec) (b : Nat) : DWord := r.base + BitVec.ofNat 64 (b / 8)

/-- The address of an element's E (R71). -/
def TRec.scaleAddr (r : TRec) (cs : List Nat) : DWord := r.sbase + BitVec.ofNat 64 ((r.linear cs).toNat / 32)

/-- The dither threshold of an element (R71). -/
def TRec.theta (r : TRec) (cs : List Nat) : Nat := dither (cs.getD 1 0 + r.ditherRow) (cs.getD 0 0 + r.ditherCol)

/-- The virtual bytes an element occupies, with its scale byte for BFP. -/
def TRec.elemBytes (r : TRec) (cs : List Nat) : List DWord :=
  if r.isBfp then
    let b := r.m * (r.linear cs).toNat
    ((List.range ((r.m + 14) / 8)).filter (fun i => b / 8 + i ≤ (b + r.m - 1) / 8)).map
      (fun i => r.mantByte (b + 8 * i)) ++ [r.scaleAddr cs]
  else (List.range (r.bits / 8)).map fun i => r.addr cs + BitVec.ofNat 64 i

/-- The pattern of an element given a byte reader. -/
def TRec.pattern (r : TRec) (rd : DWord → Byte) (cs : List Nat) : Nat :=
  if r.isBfp then
    let b := r.m * (r.linear cs).toNat
    ((rd (r.mantByte b)).toNat + 256 * (if b % 8 + r.m ≤ 8 then 0 else (rd (r.mantByte (b + 8))).toNat)) / 2 ^ (b % 8) % 2 ^ r.m
  else natOfBytes ((List.range (r.bits / 8)).map fun i => rd (r.addr cs + BitVec.ofNat 64 i))

/-- The exact value of an element (R60, R73). RAW and INT elements are integers (log 9). -/
def TRec.value (r : TRec) (rd : DWord → Byte) (cs : List Nat) : XVal :=
  let p := r.pattern rd cs
  if r.isBfp then bfpValue (signExt r.m p) (rd (r.scaleAddr cs)).toNat r.m
  else if r.tag == tagINT || r.tag == tagRAW then .ofInt (signExt 32 p)
  else if r.tag == tagI16 then .ofInt (signExt 16 p)
  else if r.tag == tagI8 then .ofInt (signExt 8 p)
  else (fmtOf r.tag).decode p

/-- Whether a format is one of those that TCOPY converts between (R175). -/
def TRec.isFloat (r : TRec) : Bool := okFloat r.tag || r.tag == tagE4M3 || r.tag == tagE5M2 || r.isBfp

/-- An element's pattern written in a format that is no BFP format (R102, R175). -/
def TRec.encode (r : TRec) (x : XVal) (rm : Rm) (theta : Nat) : Nat × Word :=
  let f := fmtOf r.tag
  if f.narrow then f.narrowTo x rm theta r.clamp else f.round x rm theta

/-- The written bytes of one element that is no BFP element. -/
def TRec.putElem (r : TRec) (cs : List Nat) (p : Nat) : List (DWord × Byte) :=
  (List.range (r.bits / 8)).map fun i => (r.addr cs + BitVec.ofNat 64 i, BitVec.ofNat 8 (p / 256 ^ i))

/-- The written bytes of one BFP block whose first element has these coordinates: 4m mantissa bytes and its E. -/
def TRec.putBlock (r : TRec) (cs : List Nat) (e : Nat) (qs : List Int) : List (DWord × Byte) :=
  let v := qs.reverse.foldl (fun a q => a * 2 ^ r.m + toBits r.m q) 0
  (List.range (4 * r.m)).map (fun i => (r.mantByte (r.m * (r.linear cs).toNat + 8 * i), BitVec.ofNat 8 (v / 256 ^ i))) ++
    [(r.scaleAddr cs, BitVec.ofNat 8 e)]

end Sys2Proof.Machine
end

