-- ==== Sys2Proof/Machine/Window.lean ====
section
/-! DEFINITION. The residency window (R289, R311 to R315): slots, requests, eviction, swap faults; and the resolution of the
ranges of an access. -/

namespace Sys2Proof.Machine

/-! Slots. -/

/-- The yealm a slot is given to, if any. -/
def Slot.holds : Slot → Option (Nat × Nat)
  | .empty => none
  | .reserved d y => some (d, y)
  | .filling d y => some (d, y)
  | .resident d y => some (d, y)
  | .lost => none

/-- Whether a yealm is resident, being filled, or has a reserved slot. -/
def State.inSlots (s : State) (desc yealm : Nat) : Bool := s.thatches.slots.any fun x => x.holds == some (desc, yealm)

/-- Changes a slot. -/
def State.setSlot (s : State) (n : Nat) (x : Slot) : State :=
  { s with thatches := { s.thatches with slots := s.thatches.slots.set n x } }

/-- The held thatch of a descriptor. -/
def State.thatch? (s : State) (desc : Nat) : Option Thatch := s.thatches.held.find? (·.desc == desc)

/-- Changes a held thatch. -/
def State.modThatch (s : State) (desc : Nat) (f : Thatch → Thatch) : State :=
  { s with thatches := { s.thatches with held := s.thatches.held.map fun t => if t.desc == desc then f t else t } }

/-- The pin count of a yealm. -/
def Thatch.pinsOf (t : Thatch) (yealm : Nat) : Nat := ((t.pins.find? (·.1 == yealm)).map (·.2)).getD 0

/-- The slot's memory. -/
def State.slotBase (s : State) (n : Nat) : Nat := s.mmu.winbase.toNat + n * s.slotSize

/-- The keys of the slot's memory, by its 2 MiB blocks, each of which may have been re-homed (R358). -/
def State.slotKeys (s : State) (n : Nat) : List (Nat × Nat) :=
  let a := s.slotBase n
  (List.range ((a + s.slotSize + 2 ^ 21 - 1) / 2 ^ 21 - a / 2 ^ 21)).map fun i =>
    let lo := max a ((a / 2 ^ 21 + i) * 2 ^ 21)
    (s.homed lo, min (a + s.slotSize) ((a / 2 ^ 21 + i + 1) * 2 ^ 21) - lo)

/-- A load that translated to the slot has not returned its data (R289). -/
def State.slotRead (s : State) (n : Nat) : Bool := s.inflight.any fun a => rangesMeet a.reads (s.slotKeys n)

/-- The resident, unpinned yealms in slots, with their thatch's place among those held. -/
def State.unpinned (s : State) : List (Nat × Nat × Thatch × Nat) :=
  (List.range s.thatches.slots.length).filterMap fun n =>
    match s.thatches.slots.getD n .empty with
    | .resident d y =>
      match s.thatch? d with
      | some t => if t.pinsOf y == 0 then some (n, s.thatches.held.findIdx (·.desc == d), t, y) else none
      | none => none
    | _ => none

/-- The order of R314 as a number, least first: PRIO, then the thatch held earliest, then the largest distance. -/
def evictKey (order : Nat) (t : Thatch) (y : Nat) : Nat :=
  (t.prio * 512 + order) * 65536 + (65535 - (y + t.nyealm - t.lastAcq % t.nyealm) % t.nyealm)

/-- The slot that eviction takes among the candidates of some thatches (R314). -/
def State.victim (s : State) (ok : Thatch → Bool) : Option Nat :=
  ((s.unpinned.filter fun c => ok c.2.2.1 && !s.slotRead c.1).foldl
    (fun (best : Option (Nat × Nat)) c =>
      let k := evictKey c.2.1 c.2.2.1 c.2.2.2
      match best with
      | some b => if k < b.1 then some (k, c.1) else best
      | none => some (k, c.1)) none).map (·.2)

/-- A free slot. -/
def State.freeSlot (s : State) : Option Nat :=
  (List.range s.thatches.slots.length).find? fun n => s.thatches.slots.getD n .empty == .empty

/-- A slot is reserved for a yealm and its stream joins the tail of the queue (R313). -/
def State.reserveSlot (s : State) (n desc yealm : Nat) : State :=
  let s1 := s.setSlot n (.reserved desc yealm)
  { s1 with thatches := { s1.thatches with queue := s1.thatches.queue ++ [(desc, yealm)] } }

/-- A yealm is requested (R313): none when there is neither a free slot nor a candidate. -/
def State.requestYealm (s : State) (desc yealm : Nat) : Option State :=
  if s.inSlots desc yealm then some s
  else
    match s.freeSlot with
    | some n => some (s.reserveSlot n desc yealm)
    | none => (s.victim fun _ => true).map fun n => s.reserveSlot n desc yealm

/-- A workgroup other than this one holds a pin (R315). -/
def State.otherPins (s : State) (lnum wg : Nat) : Bool :=
  s.waves.any fun w => !(w.lnum == lnum && w.wg == wg) && !w.pins.isEmpty &&
    match s.wg? w.lnum w.wg with | some g => g.state == .placed | none => false

/-- A request that finds no candidate is refused for good: no eviction waits for a load, and no other workgroup holds a pin. -/
def State.windowShut (s : State) (lnum wg : Nat) : Bool :=
  !(s.unpinned.any fun c => s.slotRead c.1) && !s.otherPins lnum wg

/-! The resolution of ranges. -/

/-- A part of a range that resolves to consecutive keys. -/
structure Part where
  va : Nat
  n : Nat
  key : Nat
  persist : Bool
  tso : Bool
  deriving DecidableEq, Repr

/-- Why an access cannot proceed. -/
inductive Stop where
  | bad
  | fault (va : DWord) (kind : Nat)
  | swap (desc yealm : Nat)
  | absent (dpa : Nat)
  | ue
  /-- The walk waits for the end of an edit of the interleave table (R296). -/
  | held
  deriving DecidableEq, Repr

/-- One address resolved. -/
def Xlate.toPart (x : Xlate) (va : DWord) (n : Nat) : Except Stop Part :=
  match x with
  | .vault k => .ok { va := va.toNat, n := n, key := k, persist := false, tso := false }
  | .dpa a p o _ => .ok { va := va.toNat, n := n, key := a, persist := p, tso := o }
  | .bad => .error .bad
  | .fault k => .error (.fault va k)
  | .swap d y => .error (.swap d y)
  | .absent a => .error (.absent a)
  | .ue => .error .ue
  | .held => .error .held

/-- The parts of a range between multiples of 4,096 bytes, within which every path of R297 resolves to consecutive keys. -/
def pageParts (r : Nat × Nat) : List (Nat × Nat) :=
  (List.range (if r.2 == 0 then 0 else (r.1 % 4096 + r.2 + 4095) / 4096)).map fun i =>
    let lo := if i == 0 then 0 else 4096 * i - r.1 % 4096
    (r.1 + lo, min r.2 (4096 * (i + 1) - r.1 % 4096) - lo)

/-- Resolves ranges in order, to the first that cannot. -/
def State.mapParts (s : State) (core : Option Nat) (ctx : Nat) (priv : Bool) (k : AccKind) :
    List (Nat × Nat) → Except Stop (List Part)
  | [] => .ok []
  | r :: rs =>
    let va : DWord := BitVec.ofNat 64 r.1
    match (s.xlate core ctx priv k va).toPart va r.2 with
    | .error e => .error e
    | .ok p =>
      if s.spaceOf p.key == .host && !s.apertureOk (p.key + r.2 - 1) then .error (.fault va 5)
      else (s.mapParts core ctx priv k rs).map (p :: ·)

/-- Resolves virtual ranges. -/
def State.mapRanges (s : State) (core : Option Nat) (ctx : Nat) (priv : Bool) (k : AccKind) (rs : List (Nat × Nat)) :
    Except Stop (List Part) :=
  s.mapParts core ctx priv k (rs.flatMap pageParts)

/-- The key of a virtual address among resolved parts. -/
def keyIn (ps : List Part) (va : Nat) : Nat :=
  match ps.find? fun p => p.va ≤ va && va < p.va + p.n with
  | some p => p.key + (va - p.va)
  | none => 0

/-- An operation with keys in place of its virtual addresses. -/
def AccOp.target (op : AccOp) (ps : List Part) : AccOp :=
  let f := keyIn ps
  match op with
  | .load va size sz d tag fresh nt => .load (f va) size sz d tag fresh nt
  | .ldv d tag eb pr bits scale fresh => .ldv d tag eb pr (bits.map fun b => (b.1.map f, b.2)) (scale.map f) fresh
  | .store bytes => .store (bytes.map fun b => (f b.1, b.2))
  | .atomic va op cas w64 u lanes d tag => .atomic (f va) op cas w64 u lanes d tag
  | .pflush line => .pflush (f (line * 256) / 256)
  | o => o

/-- The keys of virtual ranges, by parts. -/
def targetRanges (ps : List Part) (rs : List (Nat × Nat)) : List (Nat × Nat) :=
  (rs.flatMap pageParts).map fun r => (keyIn ps r.1, r.2)

/-- An access with keys in place of its virtual addresses, PERSIST or TSO if a page is: an access that lies on a TSO page in part keeps
program order whole (R332, log 111). -/
def Access.target (a : Access) (ps : List Part) : Access :=
  { a with op := a.op.target ps, reads := targetRanges ps a.reads, writes := targetRanges ps a.writes
           persist := ps.any (·.persist), tso := ps.any (·.tso) }

/-- The TLBs keep the leaves of resolved ranges (R304). -/
def State.fillTlbs (s : State) (core : Option Nat) (ctx : Nat) (ps : List Part) : State :=
  ps.foldl (fun s p => s.fillTlb core ctx (BitVec.ofNat 64 p.va)) s

end Sys2Proof.Machine
end

