-- ==== Sys2Proof/Machine/Engine.lean ====
section
/-! DEFINITION. Engine commands (R169 to R175, R186 to R189): queues, chunks, reads and writes, credits, faults and
cancellation; ENGINE_CHUNK_WRITE. -/

namespace Sys2Proof.Machine

/-- Why an engine cannot read or write an address. -/
inductive EngFail where
  | fault (va : DWord) (kind : Nat) (acc : AccKind)
  | swap (desc yealm : Nat)
  /-- Uncorrectable data, a row address that is not canonical, an address outside every window (R172, R354). -/
  | cancel
  | absent (dpa : Nat)
  /-- The home does not serve it yet: an edit of the interleave table (R296) or a die's core reset (R360). -/
  | held
  deriving DecidableEq, Repr

/-- The key of one byte for an engine's access. -/
def State.engKey (s : State) (ctx : Nat) (priv : Bool) (acc : AccKind) (va : DWord) : Except EngFail (Nat × Bool) :=
  match s.xlate none ctx priv acc va with
  | .vault k => if s.vaultUp k then .ok (k, false) else .error .held
  | .dpa a p _ _ => if s.editHolds [a] then .error .held else .ok (a, p)
  | .held => .error .held
  | .swap d y => .error (.swap d y)
  | .fault k => .error (.fault va k acc)
  | .absent a => .error (.absent a)
  | .bad => .error .cancel
  | .ue => .error .cancel

/-- The deterministic launch of a command's workgroup, if it has one (R209). -/
def State.cmdLaunch (s : State) (c : EngCmd) : Option Launch :=
  (s.wg? c.lnum c.wg).bind fun g => if g.hdr.det then s.launch? g.lnum else none

/-- A byte as a command reads it: at its home (R317, R330), but for a deterministic workgroup's shared global lines, which read as they
stood when the superstep began (R209, log 152). -/
def State.cmdByte (s : State) (c : EngCmd) (key : Nat) : Byte :=
  match s.cmdLaunch c with
  | some l => if Config.vwin ≤ key || l.privateTo c.wg key then memGet s.mem key else memGet l.start key
  | none => memGet s.mem key

/-- Reads bytes for a command. -/
def State.engRead (s : State) (c : EngCmd) : List DWord → Except EngFail (List Byte)
  | [] => .ok []
  | va :: vs =>
    match s.engKey c.ctx c.priv .read va, s.engRead c vs with
    | .ok (k, _), .ok bs => if s.poisoned k 1 then .error .cancel else .ok (s.cmdByte c k :: bs)
    | .error e, _ => .error e
    | _, .error e => .error e

/-- The keys of bytes to write, with whether each lies on a PERSIST page. -/
def State.engKeys (s : State) (ctx : Nat) (priv : Bool) : List DWord → Except EngFail (List (Nat × Bool))
  | [] => .ok []
  | va :: vs =>
    match s.engKey ctx priv .write va, s.engKeys ctx priv vs with
    | .ok k, .ok ks => .ok (k :: ks)
    | .error e, _ => .error e
    | _, .error e => .error e

/-- n addresses from va. -/
def vaRange (va : DWord) (n : Nat) : List DWord := (List.range n).map fun i => va + BitVec.ofNat 64 i

/-- The parts of a range that lie in aligned 256-byte lines, in increasing address (R170): offset and size. -/
def lineParts (va : DWord) (n : Nat) : List (Nat × Nat) :=
  let a := va.toNat
  (List.range (if n == 0 then 0 else (a % 256 + n + 255) / 256)).map fun i =>
    let lo := if i == 0 then 0 else 256 * i - a % 256
    let hi := min n (256 * (i + 1) - a % 256)
    (lo, hi - lo)

/-- TCOPY's chunks (R170): a BFP block with its scale byte, or the elements of one 256-byte line in element order. Each chunk lists
its element numbers. -/
def TRec.chunks (r : TRec) : List (List Nat) :=
  if r.isBfp then (List.range (r.count / 32)).map fun b => [32 * b]
  else
    let es := (List.range r.count).map fun e => (e, (r.addr (r.coordOf e)).toNat / 256)
    ((es.map (·.2)).eraseDups).map fun ln => (es.filter (·.2 == ln)).map (·.1)

/-- The addresses written for these elements of a tensor; for BFP, of the blocks that begin with them. -/
def TRec.chunkAddrs (r : TRec) (es : List Nat) : List DWord :=
  if r.isBfp then es.flatMap fun e => (r.putBlock (r.coordOf e) 0 (List.replicate 32 0)).map (·.1)
  else es.flatMap fun e => (r.putElem (r.coordOf e) 0).map (·.1)

/-- The addresses of a tensor's bytes in element order, BFP blocks each with their scale byte. -/
def TRec.destAddrs (r : TRec) : List DWord :=
  r.chunkAddrs (if r.isBfp then (List.range (r.count / 32)).map (32 * ·) else List.range r.count)

/-- A collective's chunks (R170): the places, among `destAddrs`, of the bytes in one 256-byte line, lines in element order. -/
def TRec.lineChunks (r : TRec) : List (List Nat) :=
  let as := r.destAddrs.map (·.toNat / 256)
  let es := (List.range as.length).zip as
  (as.eraseDups).map fun ln => (es.filter (·.2 == ln)).map (·.1)

/-- Destination bytes of a tensor (R175). -/
def TRec.destBytes (r : TRec) : Nat := if r.isBfp then r.count / 32 * (4 * r.m + 1) else r.count * (r.bits / 8)

/-- Entry i of an index list (R174). -/
def State.indexAt (s : State) (c : EngCmd) (idx : DWord) (idx64 : Bool) (i : Nat) : Except EngFail Nat :=
  let n := if idx64 then 8 else 4
  (s.engRead c (vaRange (idx + BitVec.ofNat 64 (n * i)) n)).map natOfBytes

/-- A range of addresses touches a vault window other than a core's (R209). -/
def foreignRange (core : Nat) (va : DWord) (n : Nat) : Bool :=
  let own := vaultBase core
  let meets (a b : Nat) : Bool := max va.toNat a < min (va.toNat + n) b
  meets Config.vwin own || meets (own + Config.vaultBytes) Config.vwinEnd

/-- The row of list position i, refused where its address is not canonical (R172, R174), or in a vault window that a deterministic
workgroup may not access (R209, log 152). -/
def State.rowAt (s : State) (c : EngCmd) (base idx : DWord) (idx64 : Bool) (rowb i : Nat) : Except EngFail DWord :=
  match s.indexAt c idx idx64 i with
  | .error e => .error e
  | .ok x =>
    let a := base + BitVec.ofNat 64 (x * rowb)
    if canonical a && canonical (a + BitVec.ofNat 64 (rowb - 1)) && !((s.cmdLaunch c).isSome && foreignRange c.core a rowb) then .ok a
    else .error .cancel

/-- One chunk's work: addresses to write with their bytes, and status conditions. -/
abbrev ChunkOut := List (DWord × Byte) × Word

/-- Conditions of R175 in STATUS order: INV, OVF, UNF, INX, CLAMP. -/
def statusCond (st : Word) : Word :=
  (if st &&& stINV != 0 then 1 else 0) ||| (if st &&& stOVF != 0 then 2 else 0) ||| (if st &&& stUNF != 0 then 4 else 0) |||
  (if st &&& stINX != 0 then 8 else 0) ||| (if st &&& stCLAMP != 0 then 16 else 0)

/-- A reader of bytes for pure element functions, from a list of address and byte. -/
def readerOf (m : List (DWord × Byte)) (va : DWord) : Byte := ((m.find? (·.1 == va)).map (·.2)).getD 0

/-- One chunk of TCOPY (R175): its elements are read, converted when the formats differ, and placed. -/
def State.tcopyChunk (s : State) (c : EngCmd) (d r : TRec) (rm : Rm) (es : List Nat) : Except EngFail ChunkOut :=
  let all := if d.isBfp then es.flatMap fun e => (List.range 32).map (e + ·) else es
  let vas := all.flatMap fun e => r.elemBytes (d.coordOf e)
  (s.engRead c vas).map fun bs =>
    let rd := readerOf (vas.zip bs)
    if d.fmt == r.fmt then
      if d.isBfp then
        (es.flatMap fun e => d.putBlock (d.coordOf e) (rd (r.scaleAddr (d.coordOf e))).toNat
          ((List.range 32).map fun i => signExt d.m (r.pattern rd (d.coordOf (e + i)))), 0)
      else (es.flatMap fun e => d.putElem (d.coordOf e) (r.pattern rd (d.coordOf e)), 0)
    else if d.isBfp then
      let outs := es.map fun e =>
        let xs := (List.range 32).map fun i => (r.value rd (d.coordOf (e + i)), d.theta (d.coordOf (e + i)))
        (e, bfpEncode xs d.m rm d.clamp)
      (outs.flatMap fun o => d.putBlock (d.coordOf o.1) o.2.1 o.2.2.1, statusCond (outs.foldl (fun a o => a ||| o.2.2.2) 0))
    else
      let outs := es.map fun e => (e, d.encode (r.value rd (d.coordOf e)) rm (d.theta (d.coordOf e)))
      (outs.flatMap fun o => d.putElem (d.coordOf o.1) o.2.1, statusCond (outs.foldl (fun a o => a ||| o.2.2) 0))

/-- SCATTER's next chunk (R170, R171, R174): the bytes of the row at the resume point, as far as the line goes that its index now
names. Credited bytes are not written again, so every byte is credited once (log 115). The row, its address, the bytes' place. -/
def State.scatterPart (s : State) (c : EngCmd) (base idx : DWord) (idx64 : Bool) (rowb : Nat) :
    Except EngFail (Nat × DWord × Nat × Nat) :=
  let row := c.bytes / rowb
  let lo := c.bytes % rowb
  (s.rowAt c base idx idx64 rowb row).map fun a => (row, a, lo, min (rowb - lo) (256 - (a.toNat + lo) % 256))

/-- The work of chunk i of a command (R170 to R175, R186). `remote` are the bytes a peer package returned. -/
def State.chunkWork (s : State) (c : EngCmd) (i : Nat) (remote : List Byte) : Except EngFail ChunkOut :=
  let read (vas : List DWord) : Except EngFail (List Byte) := s.engRead c vas
  match c.op with
  | .copy d r n =>
    let p := (lineParts d n).getD i (0, 0)
    (read (vaRange (r + BitVec.ofNat 64 p.1) p.2)).map fun bs => ((vaRange (d + BitVec.ofNat 64 p.1) p.2).zip bs, 0)
  | .gather d base idx rows idx64 rowb =>
    let p := (lineParts d (rows * rowb)).getD i (0, 0)
    ((List.range p.2).foldl (fun (acc : Except EngFail (List (DWord × Byte))) j =>
      match acc with
      | .error e => .error e
      | .ok out =>
        let o := p.1 + j
        match s.rowAt c base idx idx64 rowb (o / rowb) with
        | .error e => .error e
        | .ok a =>
          match read [a + BitVec.ofNat 64 (o % rowb)] with
          | .error e => .error e
          | .ok bs => .ok (out ++ [(d + BitVec.ofNat 64 o, bs.headD 0)])) (.ok [])).map fun o => (o, 0)
  | .scatter base r idx _ idx64 rowb =>
    match s.scatterPart c base idx idx64 rowb with
    | .error e => .error e
    | .ok (row, a, lo, n) =>
      (read (vaRange (r + BitVec.ofNat 64 (row * rowb + lo)) n)).map fun bs =>
        ((vaRange (a + BitVec.ofNat 64 lo) n).zip bs, 0)
  | .tcopy d r rm => s.tcopyChunk c d r rm (d.chunks.getD i [])
  | .rget l _ n _ =>
    let p := (lineParts l n).getD i (0, 0)
    if remote.length == p.2 then .ok ((vaRange (l + BitVec.ofNat 64 p.1) p.2).zip remote, 0) else .error .cancel
  | .rput r l n _ =>
    let p := (lineParts r n).getD i (0, 0)
    (read (vaRange (l + BitVec.ofNat 64 p.1) p.2)).map fun bs => ((vaRange (r + BitVec.ofNat 64 p.1) p.2).zip bs, 0)
  | .coll _ d _ _ _ _ _ =>
    let vas := d.destAddrs
    .ok ((d.lineChunks.getD i []).map fun p => (vas.getD p 0, (c.data.getD []).getD p 0), 0)
  | .record va bs _ => .ok ((vaRange va bs.length).zip bs, 0)

/-- The source addresses of chunk i of a command that reads here (R170). -/
def State.chunkSources (s : State) (c : EngCmd) (i : Nat) : List DWord :=
  match c.op with
  | .copy d r n => let p := (lineParts d n).getD i (0, 0); vaRange (r + BitVec.ofNat 64 p.1) p.2
  | .rput r l n _ => let p := (lineParts r n).getD i (0, 0); vaRange (l + BitVec.ofNat 64 p.1) p.2
  | .gather d base idx rows idx64 rowb =>
    let p := (lineParts d (rows * rowb)).getD i (0, 0)
    (List.range p.2).filterMap fun j => match s.rowAt c base idx idx64 rowb ((p.1 + j) / rowb) with
      | .ok a => some (a + BitVec.ofNat 64 ((p.1 + j) % rowb))
      | .error _ => none
  | .scatter base r idx _ idx64 rowb =>
    match s.scatterPart c base idx idx64 rowb with
    | .ok (row, _, lo, n) => vaRange (r + BitVec.ofNat 64 (row * rowb + lo)) n
    | .error _ => []
  | .tcopy d r _ =>
    let es := d.chunks.getD i []
    (if d.isBfp then es.flatMap fun e => (List.range 32).map (e + ·) else es).flatMap fun e => r.elemBytes (d.coordOf e)
  | _ => []

/-- An engine's reads of host memory leave as RDMA READs (R381). -/
def State.engOut (s : State) (c : EngCmd) (vas : List DWord) : State :=
  s.hostReads (vas.filterMap fun va => match s.engKey c.ctx c.priv .read va with | .ok k => some (k.1, 1) | .error _ => none)

/-- Byte counts of a command's chunks; none for SCATTER, whose chunks its indices give one by one. -/
def EngCmd.sizes (c : EngCmd) : List Nat :=
  match c.op with
  | .copy d _ n => (lineParts d n).map (·.2)
  | .gather d _ _ rows _ rowb => (lineParts d (rows * rowb)).map (·.2)
  | .scatter .. => []
  | .tcopy d _ _ => d.chunks.map fun es => (d.chunkAddrs es).length
  | .rget l _ n _ => (lineParts l n).map (·.2)
  | .rput r _ n _ => (lineParts r n).map (·.2)
  | .coll _ d _ _ _ _ _ => d.lineChunks.map (·.length)
  | .record _ bs _ => [bs.length]

/-- Destination bytes of a command (R170). -/
def EngCmd.total (c : EngCmd) : Nat :=
  match c.op with
  | .copy _ _ n => n
  | .gather _ _ _ rows _ rowb => rows * rowb
  | .scatter _ _ _ rows _ rowb => rows * rowb
  | .tcopy d _ _ => d.destBytes
  | .rget _ _ n _ => n
  | .rput _ _ n _ => n
  | .coll _ d _ _ _ _ _ => d.destBytes
  | .record _ bs _ => bs.length

/-- Whether a command's target is at a peer package. -/
def State.peerOf (s : State) (c : EngCmd) : Option Nat :=
  match c.op with
  | .rget _ _ _ k => if k == s.cmd.rank then none else some k
  | .rput _ _ _ k => if k == s.cmd.rank then none else some k
  | _ => none

/-- One credit of n bytes (R170); INFLIGHT falls with the last. -/
def State.creditOne (s : State) (c : EngCmd) (n : Nat) : State × EngCmd :=
  let s1 := if c.bytes + n == c.total then s.barInflight c.bar false else s
  (s1.creditBar c.uid c.bar n c.cond.toNat false, { c with credited := c.credited + 1, bytes := c.bytes + n, cond := 0 })

/-- Credits the leading run of written chunks, one credit each (R170). -/
def State.creditChunks (s : State) (c : EngCmd) (sizes : List Nat) : (fuel : Nat) → State × EngCmd
  | 0 => (s, c)
  | f + 1 =>
    if c.credited < sizes.length && c.written.contains c.credited then
      (s.creditOne c (sizes.getD c.credited 0)).1.creditChunks (s.creditOne c (sizes.getD c.credited 0)).2 sizes f
    else (s, c)

/-- A packet of a ring completes (R374). -/
def State.packetDone (s : State) (r : Option (Nat × Nat)) : State :=
  match r with
  | none => s
  | some (n, i) => { s with cmd := { s.cmd with rings := s.cmd.rings.map fun q =>
      if q.num == n then { q with outstanding := q.outstanding.filter (· != i) } else q } }

/-- Replaces or ends a command; with it, the packet it executes (R374). -/
def State.setCmd (s : State) (c : EngCmd) (done : Bool) : State :=
  let s1 := { s with cmds := if done then s.cmds.filter (·.id != c.id) else s.cmds.map fun x => if x.id == c.id then c else x }
  if done then s1.packetDone c.ring else s1

/-- A command's barrier lies in the vault of a saved workgroup, another than its own, which its restore writes back (R280): a credit waits
for that. -/
def State.barSaved (s : State) (c : EngCmd) : Bool :=
  let covers (g : Wg) : Bool := g.vaultBase ≤ c.bar && c.bar < g.vaultBase + g.hdr.vaultsz
  s.wgs.any (fun g => g.state == .saved && covers g && !(g.lnum == c.lnum && g.idx == c.wg)) &&
    !s.wgs.any fun g => g.state == .placed && covers g

/-- A credit to a command's barrier may land now: its vault is up (R360), and not a saved workgroup's (R280). -/
def State.barOpen (s : State) (c : EngCmd) : Bool := s.vaultUp c.bar && !s.barSaved c

/-- The command with only its credited chunks: what lies beyond its resume point is read and written again (R171, R172). -/
def EngCmd.rewound (c : EngCmd) : EngCmd :=
  { c with written := c.written.filter (· < c.credited), sent := []
           cond := match c.op with | .coll .. => c.cond | _ => 0 }

/-- Cancellation (R172): the uncredited bytes are credited as poisoned, and a collective's place is cancelled at every
member (R187), which hears of it unless the cancellation is the answer to its own notice. A record's barrier gets its 64 bytes
whatever was written (R220). A credit that may not land yet waits (R280, R360). -/
def State.cancelCmd (s : State) (c : EngCmd) (tell : Bool := true) : State :=
  let s2 := if s.barOpen c then
      ((s.setCmd c true).barInflight c.bar false).creditBar c.uid c.bar (c.total - c.bytes) 0 true
    else s.setCmd { c.rewound with dying := true, fault := none, swap := none } false
  match c.op with
  | .coll _ _ _ g _ _ place => if tell then { s2 with cmd := { s2.cmd with outbox := s2.cmd.outbox ++ [.cancel g place] } } else s2
  | _ => s2

/-- A command's chunks may land: it waits on no fault, no yealm, and is not saved, and its barrier's vault is up (R360) and not a saved
workgroup's (R220, R280). -/
def State.cmdLands (s : State) (c : EngCmd) : Bool :=
  s.barOpen c && !c.dying && c.fault.isNone && c.swap.isNone && (match s.wg? c.lnum c.wg with | some g => g.state != .saved | none => true)

/-- A command may start a chunk: everything its thread issued before it has performed (R169), the stores of an MDRAIN with it
(R153). -/
def State.cmdReady (s : State) (c : EngCmd) : Bool :=
  s.cmdLands c && c.after.all (fun id => !s.inflight.any (·.id == id) && !(s.drainsOf [c.uid]).any (·.id == id)) &&
  (match c.op with | .coll .. => c.data.isSome | _ => true) &&
  -- the command of a workgroup that is halted or being saved starts no chunk (R172); a DRAIN runs the commands out (R280)
  (match s.wg? c.lnum c.wg with
   | some g => (match g.stopping with | some (k, _) => k == 1 | none => !g.halted)
   | none => true)

/-- Whether chunk i may be started now: any chunk, but SCATTER's in list order (R170, R174). -/
def EngCmd.chunkOk (c : EngCmd) (i : Nat) : Bool :=
  match c.op with
  | .scatter .. => i == c.credited && c.bytes < c.total
  | _ => i < c.sizes.length && !c.written.contains i && !c.sent.contains i && c.credited ≤ i

/-- The unit of an engine's fault record (R307). -/
def State.engUnit (s : State) (c : EngCmd) : Word := BitVec.ofNat 32 (s.physCore c.core * 2 ^ 22)

/-- A chunk of n bytes is done: it and every earlier one are credited, and the command ends with its last byte (R170). -/
def State.chunkDone (s : State) (c : EngCmd) (i n : Nat) (cond : Word) : State :=
  let c1 := { c with written := c.written ++ [i], sent := c.sent.filter (· != i), cond := c.cond ||| cond }
  let r := match c.op with
    | .scatter .. => s.creditOne c1 n
    | _ => s.creditChunks c1 c.sizes c.sizes.length
  r.1.setCmd r.2 (r.2.bytes == r.2.total)

/-- Why a chunk stops its command (R171, R172, R315). -/
def State.chunkStop (s : State) (c : EngCmd) (e : EngFail) : Host.Outcome State Fault Refusal :=
  match e with
  | .cancel => .next (s.cancelCmd c)
  | .held => .next s
  | .absent a => .fault (.absentMemory a)
  | .swap d y =>
    -- R315: the yealm is requested; with no candidate and no pin of another workgroup the command is cancelled
    let wait (s : State) : State := s.setCmd { c.rewound with swap := some (d, y) } false
    match s.requestYealm d y with
    | some s1 => .next (wait s1)
    | none => .next (if s.windowShut c.lnum c.wg then s.cancelCmd c else wait s)
  | .fault va k acc =>
    let r := s.newFault va c.ctx k acc 1 (s.engUnit c) c.lnum
    .next (r.2.setCmd { c.rewound with fault := some r.1 } false)

/-- A chunk's bytes are written at their homes, and the chunk is credited with every earlier one (R170, R330). -/
def State.chunkPut (s : State) (c : EngCmd) (i : Nat) (w : ChunkOut) : Host.Outcome State Fault Refusal :=
  match s.engKeys c.ctx c.priv (w.1.map (·.1)) with
  | .error e => s.chunkStop c e
  | .ok ks =>
    let out := (ks.zip w.1).map fun p => (p.1.1, p.2.2, p.1.2)
    let per := (out.filter (·.2.2)).map fun p => (p.1, p.2.1)
    if !s.pqRoom per.length || (out.any fun p => s.stagingFull (p.1 / 64)) then .next s
    else
      .next (((s.writeHome ((out.filter fun p => !p.2.2).map fun p => (p.1, p.2.1)) false).writeHome per true).chunkDone c i
        w.1.length w.2)

/-- One chunk is started. A chunk to or from a peer package leaves as a message, with the privilege of the issuing thread, and is
done when the peer answers (R186, R401); any other is read and written, and a fault stops the command (R170, R171). -/
def State.chunkWrite (s : State) (c : EngCmd) (i : Nat) : Host.Outcome State Fault Refusal :=
  let send (s : State) (m : Out) : Host.Outcome State Fault Refusal :=
    .next ({ s with cmd := { s.cmd with outbox := s.cmd.outbox ++ [m] } }.setCmd { c with sent := c.sent ++ [i] } false)
  -- a request leaves on virtual lane 0 of a link in service; it is held meanwhile (R351, R384)
  if (s.peerOf c).any fun k => !s.laneOpen k 0 then .next s
  else
  match c.op, s.peerOf c with
  | .rget l r n _, some k =>
    let p := (lineParts l n).getD i (0, 0)
    send s (.remoteRead k (r + BitVec.ofNat 64 p.1) p.2 c.priv c.id i)
  | .rput .., some k =>
    match s.chunkWork c i [] with
    | .error e => s.chunkStop c e
    | .ok w => send (s.engOut c (s.chunkSources c i)) (.remoteWrite k ((w.1.headD (0, 0)).1) (w.1.map (·.2)) c.priv c.id i)
  | _, _ =>
    match s.chunkWork c i [] with
    | .error e => s.chunkStop c e
    | .ok w => (s.engOut c (s.chunkSources c i)).chunkPut c i w

/-- A peer's answer to a message that is on its way (R186): an RPUT's chunk has performed at its home there; an RGET's bytes are
written here. The peer's refusal, of a fault that its host declared fatal, cancels the command (R172): it is an RPUT's answer [0], and
data of another size than an RGET asked for (log 153). -/
def State.chunkAnswer (s : State) (c : EngCmd) (i : Nat) (remote : List Byte) : Host.Outcome State Fault Refusal :=
  match c.op with
  | .rput .. => .next (if remote == [0] then s.cancelCmd c else s.chunkDone c i (c.sizes.getD i 0) 0)
  | _ =>
    match s.chunkWork c i remote with
    | .error e => s.chunkStop c e
    | .ok w => s.chunkPut c i w

/-- ENGINE_CHUNK_WRITE (R170): a chunk is started, or a peer's answer to one arrives with bytes in `remote`. A record that ends
poisoned is credited so (R220). -/
def execEngineChunkWrite (id chunk : Nat) (remote : List Byte) (s : State) : Host.Outcome State Fault Refusal :=
  match s.cmds.find? (·.id == id) with
  | none => .next s
  | some c =>
    if !remote.isEmpty then
      (if c.sent.contains chunk && s.cmdLands c then s.chunkAnswer c chunk remote else .next s)
    else if !s.cmdReady c || !c.chunkOk chunk then .next s
    else
      match c.op with
      | .record va bs true =>
        match s.engKeys c.ctx c.priv (vaRange va bs.length) with
        | .ok ks =>
          .next (if s.homeFree (ks.map (·.1)) true (ks.any (·.2)) then
              (s.writeHome ((ks.zip bs).map fun p => (p.1.1, p.2)) (ks.any (·.2))).cancelCmd c else s)
        | .error _ => s.chunkWrite c chunk
      | _ => s.chunkWrite c chunk

/-- The queue of an engine on a core (R169): how many of its commands are not complete. -/
def State.engQueued (s : State) (core engine : Nat) : Nat := (s.cmds.filter fun c => c.core == core && c.engine == engine).length

/-- Queue capacity of an engine (R169): copy, gather, tensor copy, fabric, collective. -/
def engCapacity (engine : Nat) : Nat := if engine ≤ 1 then 32 else 16

/-- Whether a command names a lost package, itself or by its group (R186, R187, R353). -/
def State.namesLost (s : State) (c : EngCmd) : Bool :=
  match c.op with
  | .coll _ _ _ g _ _ _ => s.cmd.groups.any fun q => q.num == g && q.ranks.any (s.cmd.lost.contains ·)
  | _ => match s.peerOf c with | some k => s.cmd.lost.contains k | none => false

/-- A collective command whose place a member has cancelled already (R187). -/
def State.placeCancelled (s : State) (c : EngCmd) : Bool :=
  match c.op with
  | .coll _ _ _ g _ _ place => s.cmd.groups.any fun q => q.num == g && q.cancelled.contains place
  | _ => false

/-- Adds a command: INFLIGHT rises; one without destination bytes completes at once (R173, R174, R178); one that names a lost
package, or a place that a member has cancelled, is cancelled as poisoned (R353, R187). A barrier in uncorrectable data is a machine
check (R354). -/
def State.queueCmd (s : State) (c : EngCmd) : State :=
  let c1 := { c with id := s.nextId, after := (s.inflight.filter fun a => a.uids.contains c.uid).map (·.id) ++
                                              (s.drainsOf [c.uid]).map (·.id) }
  let s1 := { s with nextId := s.nextId + 1 }
  if c.total == 0 then s1.packetDone c.ring
  else
    let s0 := ({ s1 with cmds := s1.cmds ++ [c1] }).barInflight c.bar true
    let s2 := if Config.vwin ≤ c.bar && s1.poisoned c.bar 32 then
        s0.machineCheck [c.uid] cVaultUe 0 (((s.thread? c.uid).map (·.pc)).getD 0) else s0
    if s2.namesLost c1 then s2.cancelCmd c1
    else if s2.placeCancelled c1 then s2.cancelCmd c1 false else s2

end Sys2Proof.Machine
end

