-- ==== Sys2Proof/Machine/Lifecycle.lean ====
section
/-! DEFINITION. What follows when threads, waves and workgroups stop: exits (R82, R139, R200, R202, R206, R263), kills (R264),
locks (R198 to R200), tickets (R201, R202), halts (R283 to R285), convergence registers (R137, R138). -/

namespace Sys2Proof.Machine

/-- A held thread passes the instruction it was held at (R265). -/
def Thread.pass (t : Thread) (now : Nat) : Thread := t.issued now (t.pc + BitVec.ofNat 64 t.ilen)

/-- These threads pass the instruction they were held at. -/
def State.passAll (s : State) (uids : List Nat) : State := s.modThreads uids (·.pass s.clock)

/-! Queue locks (R198 to R200). -/

/-- The image of a lock word: OWNER and WAITERS (R198). -/
def State.lockPut (s : State) (dpa owner : Nat) (q : List Nat) : State :=
  let s1 := s.writeHome (bytesAt dpa 8 (owner + min 0xFFFF q.length * 2 ^ 32)) false
  let rest := s1.locks.filter (·.1 != dpa)
  { s1 with locks := if owner == 0 && q.isEmpty then rest else rest ++ [(dpa, q)] }

/-- OWNER of a lock word, from its stored image. -/
def State.lockOwner (s : State) (dpa : Nat) : Nat := s.readHome dpa 4

/-- The queue at a lock word. -/
def State.lockQueue (s : State) (dpa : Nat) : List Nat := ((s.locks.find? (·.1 == dpa)).map (·.2)).getD []

/-- OWNER for a thread: its handle plus 1. -/
def State.ownerCode (s : State) (t : Thread) : Nat := (s.handleOf t.loc).toNat + 1

/-- Hands a free word to the head of its queue, which passes its QLOCK. -/
def State.lockGrant (s : State) (dpa : Nat) : State :=
  if s.lockOwner dpa != 0 then s
  else
    match s.lockQueue dpa with
    | [] => s
    | u :: q =>
      match s.thread? u with
      | some t => (s.lockPut dpa (s.ownerCode t) q).modThread u (·.pass s.clock)
      | none => s.lockPut dpa 0 q

/-- Releases a word and hands it on. -/
def State.lockRelease (s : State) (dpa : Nat) : State := (s.lockPut dpa 0 (s.lockQueue dpa)).lockGrant dpa

/-- A word that a thread of a saved workgroup owns: its OWNER names that thread's old slot, where another thread may be (R200). -/
def State.lockAway (s : State) (dpa : Nat) : Bool :=
  s.wgs.any fun g => match g.saved with | some v => v.locks.any (·.1 == dpa) | none => false

/-- A thread's workgroup is saved: its places, which its handle names, may be another's (R280). -/
def State.away (s : State) (t : Thread) : Bool := ((s.wgOf t).map (·.state)) == some .saved

/-- A thread owns a word. The words of a saved workgroup's threads are those of its image (R200). -/
def State.ownsLock (s : State) (t : Thread) (dpa : Nat) : Bool :=
  s.lockOwner dpa == s.ownerCode t && !s.lockAway dpa && !s.away t

/-- A thread leaves every queue it stands in, and releases every word it owns when it ends (R200). -/
def State.lockLeave (s : State) (t : Thread) (release : Bool) : State :=
  s.locks.foldl (fun s l =>
    let q := l.2.filter (· != t.uid)
    let s1 := if q.length == l.2.length then s else s.lockPut l.1 (s.lockOwner l.1) q
    if release && s1.ownsLock t l.1 then s1.lockRelease l.1 else s1) s

/-- The words a thread owns follow its new handle (R200). -/
def State.lockRename (s : State) (old new : Nat) : State :=
  let s1 := s.locks.foldl (fun s l => if s.lockOwner l.1 == old && !s.lockAway l.1 then s.lockPut l.1 new (s.lockQueue l.1) else s) s
  { s1 with inflight := s1.inflight.map fun (a : Access) => match a.op with
      | .unlock d o => if o == old then { a with op := .unlock d new } else a
      | _ => a }

/-! Convergence registers (R137 to R139). -/

/-- Whether a register is in state complete. -/
def KReg.complete (k : KReg) : Bool := !k.members.isEmpty && k.members.all (k.arrived.contains ·)

/-- A thread leaves a core's convergence registers (R139). -/
def CoreSt.kLeave (c : CoreSt) (uid : Nat) : CoreSt :=
  { c with k := c.k.map fun k => { k with members := k.members.filter (· != uid), arrived := k.arrived.filter (· != uid) } }

/-! Tickets, batches, pins at the end of a wave. -/

/-- The live threads of a workgroup. -/
def State.wgThreads (s : State) (lnum idx : Nat) : List Thread :=
  s.threads.filter fun t => match s.waveOf t with
    | some w => w.lnum == lnum && w.wg == idx && t.status != .exited
    | none => false

/-- Whether a workgroup has a fault awaiting replay (R202): an entry of the operand log, a waiter of its own, a thread held at its fetch
or at a record read, an engine command, a drain copy. -/
def State.faultPending (s : State) (lnum idx : Nat) : Bool :=
  let mine (uid : Nat) : Bool := match s.thread? uid with
    | some t => (match s.waveOf t with | some w => w.lnum == lnum && w.wg == idx | none => false)
    | none => false
  s.mmu.log.any (fun e => mine e.uid) || s.mmu.waiters.any (fun w => mine w.uid) ||
  s.cmds.any (fun c => c.lnum == lnum && c.wg == idx && c.fault.isSome) ||
  s.threads.any (fun t => (match t.hold with | .retry (.fault _) => true | _ => false) && mine t.uid) ||
  s.cores.any fun p => match p.2.drain with
    | some d => d.cmd.lnum == lnum && d.cmd.wg == idx && d.fault.isSome
    | none => false

/-- The workgroup whose wave holds, or held, the identifier of a rank. -/
def State.rankOwner (s : State) (l : Launch) (rank : Nat) : Option Nat :=
  match l.voided.find? (·.1 == rank) with
  | some v => some v.2
  | none => (s.waves.find? fun w => w.lnum == l.lnum && (match w.cur with | some i => i.rank == rank | none => false)).map (·.wg)

/-- A ticket is advanced, or void (R201, R202); while its workgroup has a fault awaiting replay it is neither. -/
def State.ticketClear (s : State) (l : Launch) (rank seq : Nat) : Bool :=
  (l.tickets.contains (rank, seq) || l.voided.any (·.1 == rank)) &&
  match s.rankOwner l rank with | some g => !s.faultPending l.lnum g | none => true

/-- An identifier of a wave is given up: its tickets become void and its batch's slots are freed (R202, R205). -/
def State.voidIdent (s : State) (w : Wave) (i : Ident) : State :=
  s.modLaunch w.lnum fun l =>
    { l with voided := l.voided ++ [(i.rank, w.wg)]
             freed := match i.batch with | some b => l.freed ++ [b] | none => l.freed }

/-- A wave gives up its current identifier (R202, R205). -/
def State.dropIdent (s : State) (w : Wave) : State :=
  match w.cur with
  | none => s
  | some i => (s.voidIdent w i).modWave w.wid fun w => { w with cur := none, adv := [] }

/-- A wave's requests at the dispenser when its last thread has ended: one that held its threads never issued and is withdrawn, the others
are served still (R82, R204). -/
def State.dropFetches (s : State) (w : Wave) : State :=
  s.modWave w.wid fun w => { w with fetches := w.fetches.filter (!·.held) }

/-- An identifier that FLUSH reserved for a wave which will not ask for it again is given up (R202, R205). -/
def State.dropReserved (s : State) (w : Wave) : State :=
  match w.reserved with
  | none => s
  | some i => (s.voidIdent w i).modWave w.wid fun w => { w with reserved := none }

/-- A thatch without n(p) of its pins on each yealm p. -/
def Thatch.unpin (t : Thatch) (n : Nat → Nat) : Thatch :=
  { t with pins := (t.pins.map fun p => (p.1, p.2 - n p.1)).filter fun p => p.2 != 0 }

/-- The pins a wave holds on a yealm (R184). -/
def Wave.pinCount (w : Wave) (desc yealm : Nat) : Nat :=
  (w.pins.filter fun q => q.1 == desc && q.2.1 == yealm).foldl (fun a q => a + q.2.2) 0

/-- Releases a wave's pins (R184). The save of its workgroup has released them already. -/
def State.dropPins (s : State) (w : Wave) : State :=
  let away : Bool := match s.wg? w.lnum w.wg with | some g => g.state == .saved | none => false
  let held := if away then s.thatches.held else s.thatches.held.map fun (t : Thatch) => t.unpin (w.pinCount t.desc)
  { s with thatches := { s.thatches with held := held } }.modWave w.wid fun (w : Wave) => { w with pins := [] }

/-- The consequences for a wave whose last live thread has ended. -/
def State.waveOver (s : State) (w : Wave) : State :=
  if s.unitLives (.wave w.wid) then s
  else ((((s.dropParties w.lnum w.wg (· == .wave w.wid)).dropIdent w).dropReserved w).dropFetches w).dropPins w

/-- A stopped thread's record that has not been posted will be posted still, with the handle that the thread has now (R215). -/
def State.keepRecord (s : State) (t : Thread) : State :=
  match t.status, s.wgOf t with
  | .stopped r false, some g =>
    if g.state == .placed then { s with cmd := { s.cmd with trapWait := s.cmd.trapWait ++ [(s.handleOf t.loc, r)] } } else s
  | _, _ => s

/-- Threads end (R82): their results in flight are discarded, their accesses go on, and their slots stay taken until those complete. -/
def State.endThreads (s : State) (uids : List Nat) : State :=
  let ts := uids.filterMap s.thread?
  let s0 := ts.foldl (fun s t => s.keepRecord t) s
  let s1 := s0.modThreads uids fun t => { t with status := .exited, pend := [], hold := .free }
  let s2 := ts.foldl (fun s t => (s.lockLeave t true).modCore (t.home.getD t.loc).core (·.kLeave t.uid)) s1
  let s3 := ts.foldl (fun s t => match s.waveOf t with
    | some w => s.dropParties w.lnum w.wg (· == .thread t.uid)
    | none => s) s2
  ((ts.map (·.wid)).eraseDups).foldl (fun s wid => match s.wave? wid with | some w => s.waveOver w | none => s) s3

/-- The log without these threads' accesses; a merged store keeps the parts of other threads (R264, R280). -/
def cutEntries (uids : List Nat) (log : List LogEntry) : List LogEntry :=
  log.filterMap fun e =>
    let rest := e.parts.filter fun p => !uids.contains p.1
    if !uids.contains e.uid then some { e with parts := rest }
    else rest.head?.map fun p => { e with uid := p.1, parts := rest }

/-- The faulted accesses of a workgroup are discarded: those of its threads that have exited too, and its drain copies (R264). -/
def State.dropFaulted (s : State) (lnum idx : Nat) : State :=
  let uids := (s.threads.filter fun t => match s.waveOf t with | some w => w.lnum == lnum && w.wg == idx | none => false).map (·.uid)
  let waiters := s.mmu.waiters.filter fun w => !uids.contains w.uid
  let swaps := s.thatches.swaps.filter fun w => !uids.contains w.entry.uid
  { s with
    mmu := { s.mmu with log := cutEntries uids s.mmu.log, waiters := waiters }
    thatches := { s.thatches with swaps := swaps }
    cores := s.cores.map fun p => (p.1, { p.2 with drain := p.2.drain.filter fun d =>
      !(d.cmd.lnum == lnum && d.cmd.wg == idx && d.fault.isSome) }) }

/-- The words that a saved workgroup's threads own are released (R200, R264). -/
def State.savedRelease (s : State) (g : Wg) : State :=
  match g.saved with
  | none => s
  | some v => v.locks.foldl (fun s w => match s.thread? w.2 with
    | some t => if s.lockOwner w.1 == s.ownerCode t then s.lockRelease w.1 else s
    | none => s) s

/-- A kill of a workgroup (R264): its faulted accesses are discarded and its engine commands cancelled before its threads
end, so that poisoned credits precede the drops. Commands the matrix engine has taken complete (R133). -/
def State.killWg (s : State) (lnum idx : Nat) : State :=
  let uids := (s.wgThreads lnum idx).map (·.uid)
  let s1 := s.dropFaulted lnum idx
  let s2 := (s1.cmds.filter fun c => c.lnum == lnum && c.wg == idx).foldl (fun s c => s.cancelCmd c) s1
  let s3 := match s2.wg? lnum idx with | some g => s2.savedRelease g | none => s2
  (s3.endThreads uids).modWg lnum idx fun g => { g with killed := true }

/-- Whether a workgroup counts as released for a gate (R206, R260). -/
def State.gateOpen (s : State) (lnum idx gate : Nat) : Bool :=
  match s.wg? lnum idx with
  | none => false
  | some g => g.released.contains gate || g.killed || g.state == .ended ||
      (g.state != .waiting && g.state != .saved && (s.wgThreads lnum idx).isEmpty)

/-! Halt (R283 to R285). -/

/-- A workgroup halts and posts one record with cause HALTED (R283, R284). -/
def State.haltWg (s : State) (lnum idx : Nat) (handle : Word) (ilen : Nat) (pc : DWord) (ids : DWord × Word) (sticky : Word) :
    State :=
  let uids := (s.wgThreads lnum idx).map (·.uid)
  (s.clearArrivals uids).modWg lnum idx fun g => if g.halted then g else
    { g with halted := true, haltedAt := s.clock
             haltRec := some (handle, { cause := cHalted.cause, code := 0, ilen := ilen, pc := pc, workid := ids.1
                                        launch := ids.2, sticky := sticky }) }

/-- RESUME (R285): a HALTED record not yet posted stays to be posted (R283); stalls count as elapsed, and halted time counts toward no SLEEP and no FUSE hold (R284). -/
def State.resumeWg (s : State) (lnum idx : Nat) : State :=
  match s.wg? lnum idx with
  | none => s
  | some g =>
    if !g.halted then s
    else
      let d := s.clock - g.haltedAt
      let uids := (s.wgThreads lnum idx).map (·.uid)
      let rest := match g.haltRec with | some r => [r] | none => []
      let s1 := { s with cmd := { s.cmd with trapWait := s.cmd.trapWait ++ rest } }
      (s1.modThreads uids fun t =>
        { t with lastIssue := none, ready := none
                 hold := match t.hold with
                   | .asleep u => .asleep (u + d)
                   | .fuse u => .fuse (u + d)
                   | h => h }).modWg lnum idx fun g => { g with halted := false, haltRec := none }

/-- The threads of a group that halt their workgroup (R86, R221): they pass the instruction, and the first one's record
is posted. -/
def State.haltBy (s : State) (t : Thread) (c : Ctl) : State :=
  match s.waveOf t with
  | none => s
  | some w => s.haltWg w.lnum w.wg (s.handleOf t.loc) c.len.bytes t.pc (s.trapIds t) t.sticky

end Sys2Proof.Machine
end

