-- ==== Sys2Proof/Machine/MemIssue.lean ====
section
/-! DEFINITION. The issue of memory-class instructions: lanes one after another, traps, machine checks, operand-log entries,
swap waits (R158, R163, R274, R315), stores merged and deferred (R160, R209), record reads (R402). -/

namespace Sys2Proof.Machine

/-! When accesses perform (R320, R323). -/

/-- The virtual bytes that an MDRAIN stores to (R153). -/
def MCmd.drainVas (m : MCmd) : List Nat :=
  match m.kind with
  | .drain _ _ _ r row0 col0 _ _ => (List.range 4096).flatMap fun e =>
      (List.range (r.bits / 8)).map fun b => (r.addr [col0 + e % 64, row0 + e / 64, 0, 0, 0] + BitVec.ofNat 64 b).toNat
  | _ => []

/-- An MDRAIN's stores as an access of the scalar lane's thread in the place of its issue (R153): the bytes whose addresses resolve now.
While others fault it counts as on a TSO page; while a walk waits for an edit it precedes every later access (log 133). -/
def State.drainAccess (s : State) (m : MCmd) : Access :=
  let one (v : Nat) : Except Stop (List Part) := match m.kind with
    | .drain _ _ _ _ _ _ ctx priv => s.mapRanges none ctx priv .write [(v, 1)]
    | _ => .ok []
  let rs := m.drainVas.map fun v => (v, one v)
  let ps := rs.flatMap fun r => match r.2 with | .ok ps => ps | .error _ => []
  { Access.blank (m.uids.take 1) (.store []) 15 m.pc m.ilen with
    id := m.id, writes := rs.filterMap fun r => match r.2 with | .ok ps => some (keyIn ps r.1, 1) | .error _ => none
    acq := rs.any fun r => match r.2 with | .error .held => true | _ => false
    persist := ps.any (·.persist)
    tso := ps.any (·.tso) || rs.any fun r => match r.2 with | .error (.fault ..) => true | _ => false }

/-- Whether an access in flight may perform now. -/
def State.mayPerform (s : State) (a : Access) : Bool :=
  let h := s.readsHome a
  -- PBAR.persist.system waits for the thread's earlier RPUT commands (R167)
  let puts := match a.op with
    | .pbar true => s.cmds.any fun c => a.uids.contains c.uid && c.id < a.id && (match c.op with | .rput .. => true | _ => false)
    | _ => false
  -- the ridge pair accepts while it runs; TLBINV, once the entries are dropped, waits for the accesses that may have used them (R219)
  let held := match a.op with
    | .ack ridge => ridge && s.cmd.ridge != .running
    | .tlbinv _ _ _ _ (some ws) => s.inflight.any fun x => ws.contains x.id
    | _ => false
  !puts && !held && s.homeReady a &&
  ((s.inflight.takeWhile (·.id != a.id)).all fun x => !mustPrecede x a h) &&
  -- the stores of its thread's earlier MDRAINs stand before it (R153, R323)
  (s.drainsOf a.uids).all fun m => a.id ≤ m.id || !mustPrecede (s.drainAccess m) a h

/-- The access of an id, when it may perform. -/
def State.ready? (s : State) (id : Nat) : Option Access :=
  (s.inflight.find? (·.id == id)).bind fun a => if s.mayPerform a then some a else none

/-- Acts on threads one after another, stopping at a fault. -/
def foldLanes (f : State → Thread → Except Fault State) : List Thread → State → Except Fault State
  | [], s => .ok s
  | t :: ts, s =>
    match f s t with
    | .error e => .error e
    | .ok s1 => foldLanes f ts s1

/-- An outcome from a fold. -/
def outcomeOf (r : Except Fault State) : Host.Outcome State Fault Refusal :=
  match r with
  | .ok s => .next s
  | .error e => .fault e

/-- A memory instruction over the issue group: guarded-off threads pass, the others act in ascending lane order. -/
def State.memLanes (s : State) (c : Ctl) (f : State → Thread → Except Fault State) : Host.Outcome State Fault Refusal :=
  outcomeOf ((foldLanes (fun s t => if t.guard c then f s t else .ok (s.modThread t.uid (·.skip s.clock c)))
    s.group s).map State.issueDone)

/-- One thread traps at the instruction, which has no effect in it. -/
def State.trapLane (s : State) (t : Thread) (c : Ctl) (e : Cause) : State :=
  s.modThread t.uid fun x => x.trap (s.trapIds t) e c.len.bytes t.pc

/-- One thread issues a memory-class instruction; SETF stays raised until the access completes (R28). -/
def State.issueMem (s : State) (t : Thread) (c : Ctl) : State :=
  s.modThread t.uid fun x => (x.issued s.clock (t.nextPc c)).flagAdd c.setf

/-- One thread issues an instruction that is complete at its issue. -/
def State.passLane (s : State) (t : Thread) (c : Ctl) : State :=
  s.modThread t.uid fun x => x.issued s.clock (t.nextPc c)

/-- A thread is held at the instruction, which has not issued. -/
def State.holdAt (s : State) (uid : Nat) (h : Hold) : State := s.modThread uid fun x => { x with hold := h }

/-- The launch number of a thread. -/
def State.lnumOf (s : State) (t : Thread) : Nat := ((s.waveOf t).map (·.lnum)).getD 0

/-- The workgroup index of a thread. -/
def State.wgIdxOf (s : State) (t : Thread) : Nat := ((s.waveOf t).map (·.wg)).getD 0

/-- An entry of a thread's quadrant log, not yet in it. -/
def State.logEntry (s : State) (t : Thread) (c : Ctl) (i : Instr) (addr : DWord) (kind frec : Nat) (acc : Option Access)
    (wc : Bool) (parts : List (Nat × List (Nat × Byte))) : LogEntry :=
  { id := s.nextId, grp := s.nextId, core := t.loc.core, quad := t.loc.quad
    seq := (s.core t.loc.core).logSeq.getD t.loc.quad 0, uid := t.uid, pc := t.pc, ilen := c.len.bytes, addr := addr
    kind := kind, setf := c.setf, fcnt := 1, frec := frec, instr := i, acc := acc, wc := wc, parts := parts }

/-- Adds an entry to its quadrant's log (R274). -/
def State.pushLog (s : State) (e : LogEntry) : State :=
  let s1 := s.modCore e.core fun k => { k with logSeq := k.logSeq.set e.quad ((k.logSeq.getD e.quad 0 + 1) % 2 ^ 32) }
  { s1 with nextId := s1.nextId + 1, mmu := { s1.mmu with log := s1.mmu.log ++ [e] } }

/-- A lane's access takes a translation fault: a fault record and an entry of the operand log (R163, R274, R305). -/
def State.faultLane (s : State) (t : Thread) (c : Ctl) (i : Instr) (va : DWord) (fk : Nat) (ak : AccKind) (addr : DWord)
    (kind : Nat) (acc : Option Access) : State :=
  let r := s.newFault va t.ctx fk ak 0 (s.handleOf t.loc) (s.lnumOf t)
  r.2.pushLog (r.2.logEntry t c i addr kind r.1 acc false [])

/-- A read of a yealm that is not resident (R315): it waits, or traps its lane when the window is shut. -/
def State.swapLane (s : State) (t : Thread) (c : Ctl) (i : Instr) (desc yealm : Nat) (addr : DWord) (kind : Nat)
    (acc : Access) : State :=
  let wait (s : State) : State :=
    let s1 := s.issueMem t c
    { s1 with nextId := s1.nextId + 1
              thatches := { s1.thatches with swaps := s1.thatches.swaps ++
                [{ desc := desc, yealm := yealm, entry := s1.logEntry t c i addr kind 0 (some acc) false [] }] } }
  match s.requestYealm desc yealm with
  | some s1 => wait s1
  | none => if s.windowShut (s.lnumOf t) (s.wgIdxOf t) then s.trapLane t c cYealmWindow else wait s

/-- A thread of a deterministic launch names a vault window other than its own core's (R209). -/
def State.foreignVault (s : State) (t : Thread) (ps : List Part) : Bool :=
  s.isDet t && ps.any fun p => Config.vwin ≤ p.key &&
    !(vaultBase t.loc.core ≤ p.key && p.key < vaultBase t.loc.core + Config.vaultBytes)

/-- An access of an instruction with its CHINT (R31). -/
def Access.hinted (a : Access) (c : Ctl) : Access := { a with hint := c.chint.toNat, nt := a.nt || c.chint == 3 }

/-- One lane's access (R158, R163, R315, R354): its ranges are resolved, `chk` may refuse the resolved access, and `go` acts on
it once the thread has issued. -/
def State.accessLane (s : State) (t : Thread) (c : Ctl) (i : Instr) (ak : AccKind) (kind : Nat) (addr : DWord) (acc : Access)
    (go : State → Access → State) (chk : Access → Option Cause := fun _ => none) : Except Fault State :=
  let a := acc.hinted c
  match s.mapRanges (some t.loc.core) t.ctx t.priv ak (a.reads ++ a.writes) with
  | .error .bad => .ok (s.trapLane t c cBadAddress)
  | .error .ue => .ok (s.machineCheck [t.uid] cMemUe c.len.bytes t.pc)
  | .error .held => .ok (s.holdAt t.uid (.retry .edit))
  | .error (.absent d) => .error (.absentMemory d)
  | .error (.fault va k) => .ok ((s.issueMem t c).faultLane t c i va k ak addr kind (some a))
  | .error (.swap d y) => .ok (s.swapLane t c i d y addr kind a)
  | .ok ps =>
    if s.foreignVault t ps then .ok (s.trapLane t c (cDet 4))
    else
      match chk (a.target ps) with
      | some e => .ok (s.trapLane t c e)
      | none => .ok (go ((s.fillTlbs (some t.loc.core) t.ctx ps).issueMem t c) (a.target ps))

/-- An access in flight, after its threads' own lines of the write-combining buffer that it meets (R320). -/
def State.enqueueAfterWc (s : State) (core : Nat) (a : Access) : State :=
  (s.flushWc core fun l => l.owners.any (fun o => a.uids.contains o.1) &&
    rangesMeet (a.reads ++ a.writes) (l.bytes.map fun b => (b.1, 1))).enqueue a

/-! Stores (R160, R209). -/

/-- The bytes of a store that a deterministic launch defers: those of lines of global memory not private to the workgroup. -/
def State.deferred? (s : State) (t : Thread) (key : Nat) : Bool :=
  match s.detLaunch t, s.wgOf t with
  | some l, some g => !(Config.vwin ≤ key) && !l.privateTo g.idx key
  | _, _ => false

/-- The key of a thread's deferred entry (R209): rank, or 2^64 and the wave's index, and the count of retired instructions. -/
def State.deferKey (s : State) (t : Thread) : Nat × Nat :=
  match s.waveOf t with
  | some w => ((w.cur.map (·.rank)).getD (2 ^ 64 + w.idx), t.retired)
  | none => (2 ^ 64, t.retired)

/-- Entries in the commit queues and their overflow region, which is the device's (R209). -/
def State.deferredAll (s : State) : Nat := s.launches.foldl (fun n l => n + l.deferred.length) 0

/-- Room in the commit queues for n more entries (R209, log 6). -/
def State.deferRoom (s : State) (t : Thread) (n : Nat) : Bool :=
  match s.detLaunch t with
  | some _ => s.deferredAll + n ≤ Config.deferCapacity
  | none => true

/-- The key that a thread had when its access issued, by what a held access has kept (R209, R276). -/
def State.keyOf (s : State) (keys : List (Nat × (Nat × Nat))) (t : Thread) : Nat × Nat :=
  ((keys.find? (·.1 == t.uid)).map (·.2)).getD (s.deferKey t)

/-- Adds a deferred entry with this key; these threads' flags fall when it commits (R160, R196, log 112). -/
def State.defer (s : State) (t : Thread) (k : Nat × Nat) (bytes : List (Nat × Byte)) (red : Option (AOp × Bool × Bool × Nat × DWord))
    (persist : Bool) (falls : List (Nat × BitVec 4)) (pc : DWord := 0) (ilen : Nat := 0) (nt : Bool := false) : State :=
  s.modLaunch (s.lnumOf t) fun l => { l with deferred := l.deferred ++
    [{ rank := k.1, retired := k.2, lane := t.loc.lane, wg := s.wgIdxOf t, bytes := bytes, red := red, persist := persist
       falls := falls, pc := pc, ilen := ilen, nt := nt }] }

/-- What a store of an issue group carries besides its bytes; `also` are further threads whose flags fall with it, `keys` the keys
at its issue. -/
structure StoreAttr where
  rel : Bool := false
  weak : Bool := false
  wide : Bool := true
  wc : Bool := false
  nt : Bool := false
  hint : Nat := 0
  also : List Nat := []
  keys : List (Nat × (Nat × Nat)) := []
  deriving DecidableEq, Repr

/-- One lane's resolved bytes, and whether they lie on PERSIST and on TSO pages. -/
structure StoreLane where
  thread : Thread
  bytes : List (Nat × Byte)
  persist : Bool
  tso : Bool
  deriving DecidableEq, Repr

/-- A lane whose bytes resolved to these parts. -/
def StoreLane.make (t : Thread) (bytes : List (Nat × Byte)) (ps : List Part) : StoreLane :=
  { thread := t, bytes := bytes, persist := ps.any (·.persist), tso := ps.any (·.tso) }

/-- The 256-byte line of a lane's first byte. -/
def StoreLane.line (l : StoreLane) : Nat := (l.bytes.head?.map (·.1 / 256)).getD 0

/-- The lanes by the line they write, since a merged store is one access within a line (R319); one part when a lane writes
several lines. -/
def storeParts (ls : List StoreLane) : List (List StoreLane) :=
  if ls.all fun l => l.bytes.all (·.1 / 256 == l.line) then
    ((ls.map StoreLane.line).eraseDups).map fun n => ls.filter (·.line == n)
  else [ls]

/-- One part of a merged store leaves as an access of its threads, or enters the write-combining buffer (R160, R162). A later
lane's bytes stand later in the list, so that they remain (R329). A release and a store to a TSO page pass the buffer by (log 141). -/
def State.placePart (s : State) (setf : BitVec 4) (pc : DWord) (ilen : Nat) (m : StoreAttr) (ls : List StoreLane) : State :=
  match ls.head? with
  | none => s
  | some h =>
    let bytes := ls.flatMap (·.bytes)
    let core := h.thread.loc.core
    let uids := ls.map (·.thread.uid)
    let persist := ls.any (·.persist)
    let tso := ls.any (·.tso)
    if m.wc && !m.rel && !tso then
      (s.flushWc core fun l => l.owners.any (fun o => uids.contains o.1) && l.persist != persist).wcStore core bytes
        (uids.map fun u => (u, setf)) persist m.nt m.hint
    else
      s.enqueueAfterWc core { Access.blank uids (.store bytes) setf pc ilen with
        writes := bytes.map fun b => (b.1, 1), rel := m.rel, weak := m.weak, wide := m.wide, tso := tso, persist := persist
        nt := m.nt, hint := m.hint, also := m.also }

/-- Places the resolved bytes of one issue group's store: deferred entries per thread, and the rest line by line (R160, R162,
R209, R319). A lane's flag falls with its deferred entry, which performs last, or else with its part of the store; that of a lane
with no bytes left falls at once. -/
def State.placeStore (s : State) (setf : BitVec 4) (pc : DWord) (ilen : Nat) (m : StoreAttr) (lanes : List StoreLane) : State :=
  let late (l : StoreLane) : List (Nat × Byte) := l.bytes.filter fun b => s.deferred? l.thread b.1
  let s1 := lanes.foldl (fun s l =>
    let d := late l
    if d.isEmpty then s else s.defer l.thread (s.keyOf m.keys l.thread) d none l.persist ((l.thread.uid :: m.also).map fun u => (u, setf)) pc ilen m.nt) s
  let direct := lanes.filterMap fun l =>
    let d := l.bytes.filter fun b => !s.deferred? l.thread b.1
    if d.isEmpty then none else some { l with bytes := d }
  let done := (lanes.filter (·.bytes.isEmpty)).map (·.thread.uid)
  let s2 := s1.flagFall done setf
  let s3 := if m.rel then direct.foldl (fun s l => s.flushOwn l.thread) s2 else s2
  let split (u : Nat) : Bool := lanes.any fun l => l.thread.uid == u && !(late l).isEmpty
  (storeParts direct).foldl (fun s ls =>
    s.placePart (if ls.any fun l => split l.thread.uid then 15 else setf) pc ilen m ls) s3

/-- The resolved bytes of a store and its pages' attributes, or why not. -/
def State.mapBytes (s : State) (t : Thread) (bytes : List (Nat × Byte)) : Except Stop (List (Nat × Byte) × List Part) :=
  (s.mapRanges (some t.loc.core) t.ctx t.priv .write (bytes.map fun b => (b.1, 1))).map fun ps =>
    (bytes.map fun b => (keyIn ps b.1, b.2), ps)

/-- Lanes of a store that have been resolved, and those that fault. -/
structure StoreScan where
  good : List StoreLane
  parts : List Part
  faults : List (Thread × DWord × Nat)
  deriving DecidableEq, Repr

/-- Resolves the lanes of a store (R158, R163). Lanes that trap drop out, with the state that says so;
`n` counts the deferred lanes before them. -/
def State.scanStore (s : State) (c : Ctl) (n : Nat) : List (Thread × List (Nat × Byte)) → Except Fault (State × StoreScan)
  | [] => .ok (s, { good := [], parts := [], faults := [] })
  | l :: ls =>
    match s.mapBytes l.1 l.2 with
    | .error (.absent d) => .error (.absentMemory d)
    | .error .bad => (s.trapLane l.1 c cBadAddress).scanStore c n ls
    | .error .ue => (s.machineCheck [l.1.uid] cMemUe c.len.bytes l.1.pc).scanStore c n ls
    | .error .held => (s.holdAt l.1.uid (.retry .edit)).scanStore c n ls
    | .error (.swap ..) => (s.trapLane l.1 c cBadAddress).scanStore c n ls
    | .error (.fault va k) =>
      (s.scanStore c n ls).map fun r => (r.1, { r.2 with faults := (l.1, va, k) :: r.2.faults })
    | .ok (bs, ps) =>
      let d := bs.any fun b => s.deferred? l.1 b.1
      if s.foreignVault l.1 ps then (s.trapLane l.1 c (cDet 4)).scanStore c n ls
      else if d && !s.deferRoom l.1 (n + 1) then (s.trapLane l.1 c (cDet 6)).scanStore c n ls
      else (s.scanStore c (if d then n + 1 else n) ls).map fun r =>
        (r.1, { r.2 with good := StoreLane.make l.1 bs ps :: r.2.good, parts := ps ++ r.2.parts })

/-- What a store carries, with its instruction's CHINT (R31). -/
def StoreAttr.hinted (m : StoreAttr) (c : Ctl) : StoreAttr := { m with hint := c.chint.toNat, nt := m.nt || c.chint == 3 }

/-- A faulting lane of a store takes a fault record and a log entry with these parts of the store (R163, R274). -/
def State.holdStore (s : State) (c : Ctl) (i : Instr) (m : StoreAttr) (grp : Option Nat) (f : Thread × DWord × Nat)
    (parts : List (Thread × List (Nat × Byte))) : State :=
  let q := s.newFault f.2.1 f.1.ctx f.2.2 .write 0 (s.handleOf f.1.loc) (s.lnumOf f.1)
  let addr : DWord := BitVec.ofNat 64 ((((parts.find? (·.1.uid == f.1.uid)).bind (·.2.head?)).map (·.1)).getD 0)
  let acc : Access := { Access.blank (parts.map (·.1.uid)) (.store []) c.setf f.1.pc c.len.bytes with
    rel := m.rel, weak := m.weak, wide := m.wide, nt := m.nt, hint := m.hint
    keys := parts.map fun l => (l.1.uid, s.deferKey l.1) }
  let e := q.2.logEntry f.1 c i addr 2 q.1 (some acc) m.wc (parts.map fun l => (l.1.uid, l.2))
  q.2.pushLog { e with grp := grp.getD e.grp }

/-- A lane's bytes but for those that a later lane of the same store writes (R329). -/
def lastBytes (lanes : List (Thread × List (Nat × Byte))) (l : Thread × List (Nat × Byte)) : List (Nat × Byte) :=
  let above := (lanes.dropWhile (·.1.uid != l.1.uid)).drop 1
  l.2.filter fun b => !above.any fun x => x.2.any (·.1 == b.1)

/-- The store of an issue group (R160, R163, R164, R329): its lanes' bytes merge, the highest lane's remaining. It is performed whole, or
held whole when any lane faults; that of STV, `each`, holds the faulting lanes alone, each without the bytes that a higher lane writes.
`lanes` hold virtual bytes in ascending lane order. -/
def State.groupStore (s : State) (c : Ctl) (i : Instr) (attr : StoreAttr) (lanes : List (Thread × List (Nat × Byte)))
    (each : Bool := false) : Except Fault State :=
  let m := attr.hinted c
  (s.scanStore c 0 lanes).map fun r =>
    let good (l : Thread × List (Nat × Byte)) : Bool := r.2.good.any (·.thread.uid == l.1.uid)
    let live := lanes.filter fun l => good l || r.2.faults.any (·.1.uid == l.1.uid)
    let s1 := live.foldl (fun s l => s.issueMem l.1 c) r.1
    let place (s : State) : State :=
      ((live.filter good).foldl (fun s l => s.fillTlbs (some l.1.loc.core) l.1.ctx r.2.parts) s).placeStore c.setf
        ((live.head?.map (·.1.pc)).getD 0) c.len.bytes m r.2.good
    if r.2.faults.isEmpty then place s1
    else if each then
      r.2.faults.foldl (fun s f => s.holdStore c i m none f
        ((live.filter (·.1.uid == f.1.uid)).map fun l => (l.1, lastBytes live l))) (place s1)
    else
      let grp := s1.nextId
      r.2.faults.foldl (fun s f => s.holdStore c i m (some grp) f live) s1

/-! Record reads at issue (R72, R402). -/

/-- The threads are held at the instruction by a fault at a record read (R402). -/
def State.recFault (s : State) (t : Thread) (va : DWord) (k : Nat) : State :=
  let r := s.newFault va t.ctx k .read 6 (s.handleOf t.loc) (s.lnumOf t)
  r.2.holdAt t.uid (.retry (.fault r.1))

/-- What reading a tensor parameter record comes to. -/
inductive RecLook where
  | ok (r : TRec)
  /-- The instruction traps. -/
  | trap (c : Cause)
  | ue (c : Cause)
  | absent (dpa : Nat)
  | fault (va : DWord) (kind : Nat)
  | swap (desc yealm : Nat)
  /-- The walk, or the read, waits for the end of an edit of the interleave table (R296) or of a core reset (R360). -/
  | held (why : Retry)
  deriving DecidableEq, Repr

/-- Reads the record at va as a thread does (R72, R158, R209, R354). -/
def State.recLook (s : State) (t : Thread) (va : DWord) : RecLook :=
  match s.mapRanges (some t.loc.core) t.ctx t.priv .read [(va.toNat, 64)] with
  | .error .bad => .trap cBadAddress
  | .error .ue => .ue cMemUe
  | .error .held => .held .edit
  | .error (.absent d) => .absent d
  | .error (.fault v k) => .fault v k
  | .error (.swap d y) => .swap d y
  | .ok ps =>
    if s.foreignVault t ps then .trap (cDet 4)
    else
      let ks := (List.range 64).map fun i => keyIn ps (va.toNat + i)
      if s.editHolds ks then .held .edit
      else if !ks.all s.vaultUp then .held (.vault (ks.headD 0))
      else if ks.any fun k => s.poisoned k 1 then .ue (ueCause (ks.headD 0))
      else
        match TRec.read (ks.map fun k => s.viewByte t true k) with
        | some r => .ok r
        | none => .trap cParamInvalid

/-- Reads a tensor parameter record at issue for a thread: the record, or the state in which the thread has trapped or is
held. -/
def State.recRead (s : State) (t : Thread) (c : Ctl) (va : DWord) : Except (Except Fault State) TRec :=
  match s.recLook t va with
  | .ok r => .ok r
  | .trap e => .error (.ok (s.trapLane t c e))
  | .ue e => .error (.ok (s.machineCheck [t.uid] e c.len.bytes t.pc))
  | .absent d => .error (.error (.absentMemory d))
  | .fault v k => .error (.ok (s.recFault t v k))
  | .held w => .error (.ok (s.holdAt t.uid (.retry w)))
  | .swap d y =>
    .error (.ok (match s.requestYealm d y with
      | some s1 => s1.holdAt t.uid (.retry (.swap d y))
      | none => if s.windowShut (s.lnumOf t) (s.wgIdxOf t) then s.trapLane t c cYealmWindow
                else s.holdAt t.uid (.retry (.swap d y))))

end Sys2Proof.Machine
end

