-- ==== Sys2Proof/Machine/LoadStore.lean ====
section
/-! DEFINITION. LD, ST, LDV, STV, PREF, FENCE, PBAR, PFLUSH (R156 to R168), DLD and DST (R130), and the events in which
accesses perform: LOAD_RETURN, STORE_COMPLETE, WC_LINE_FLUSH, L1_LINE_REPLACEMENT, RIDGE_CACHE_EVICTION. -/

namespace Sys2Proof.Machine

/-- Bytes of an access size (R159). -/
def szBytes : Sz → Nat
  | .w32 => 4
  | .b8 => 1
  | .h16 => 2
  | .d64 => 8
  | .q128 => 16
  | .b8s => 1
  | .h16s => 2

/-- Whether a scope of these threads is workgroup or wider (R326); one in a landing slot treats quadrant as device (R322). -/
def scopeWide (ts : List Thread) : Scope → Bool
  | .thread => false
  | .quadrant => ts.any (·.home.isSome)
  | _ => true

/-- LD (R158 to R163). -/
def execLd (c : Ctl) (x : Ld) (s : State) : Host.Outcome State Fault Refusal :=
  s.memLanes c fun s t =>
    let va := t.pair x.a + x.off.signExtend 64
    if !canonical va then .ok (s.trapLane t c cBadAddress)
    else if va.toNat % (szBytes x.sz) != 0 then .ok (s.trapLane t c cMemAlign)
    else
      s.accessLane t c (.ld c x) .read 1 va
        { Access.blank [t.uid] (.load va.toNat (szBytes x.sz) x.sz x.d.toNat (x.ftag.setWidth 8) x.fresh x.nt) c.setf t.pc c.len.bytes with
          reads := [(va.toNat, (szBytes x.sz))], acq := x.acq }
        (fun s a => s.enqueueAfterWc t.loc.core a)

/-- The bytes a lane of ST writes. -/
def stBytes (x : St) (t : Thread) : List (Nat × Byte) :=
  bytesAt (t.pair x.a + x.off.signExtend 64).toNat (szBytes x.sz) (t.wide x.b (if (szBytes x.sz) ≤ 4 then 1 else (szBytes x.sz) / 4))

/-- Traps the lanes of ST whose address is not canonical or not aligned (R158); the rest. -/
def stChecks (x : St) (c : Ctl) (s : State) : List Thread → State × List Thread
  | [] => (s, [])
  | t :: ts =>
    let va := t.pair x.a + x.off.signExtend 64
    let r := stChecks x c s ts
    if !canonical va then (r.1.trapLane t c cBadAddress, r.2)
    else if va.toNat % (szBytes x.sz) != 0 then (r.1.trapLane t c cMemAlign, r.2)
    else (r.1, t :: r.2)

/-- The guarded-off threads of the issue pass. -/
def State.skipOff (s : State) (c : Ctl) : State :=
  (s.group.filter fun t => !t.guard c).foldl (fun s t => s.modThread t.uid (·.skip s.clock c)) s

/-- ST (R158 to R163). -/
def execSt (c : Ctl) (x : St) (s : State) : Host.Outcome State Fault Refusal :=
  let r := stChecks x c (s.skipOff c) (participants c s.group)
  outcomeOf ((r.1.groupStore c (.st c x)
    { rel := x.rel, weak := x.nt || x.wc, wide := scopeWide r.2 x.scope || !x.rel, wc := x.wc, nt := x.nt }
    (r.2.map fun t => (t, stBytes x t))).map State.issueDone)

/-! LDV and STV (R164). -/

/-- Elements of one register in a run of this record's format. -/
def TRec.perReg (r : TRec) : Nat := if r.isBfp then 32 / r.m else elemCount r.tag false

/-- The coordinates of the run's elements. -/
def ldvCoords (x : Ldv) (t : Thread) : List (List Nat) :=
  let b := t.pair x.b
  let c := t.optPair x.c
  let lo (v : DWord) : Nat := v.toNat % 2 ^ 32
  let hi (v : DWord) : Nat := v.toNat / 2 ^ 32
  (List.range (x.nm1.toNat + 1)).map fun k =>
    if x.x1 then [lo b, hi b + k, lo c, hi c, 0] else [lo b + k, hi b, lo c, hi c, 0]

/-- The operand conditions of R164. -/
def ldvOk (x : Ldv) (t : Thread) (r : TRec) (store : Bool) : Bool :=
  let cs := ldvCoords x t
  let n := x.nm1.toNat + 1
  let regs := (n + r.perReg - 1) / r.perReg
  let i0 := (cs.headD []).headD 0
  ((x.r == 255 && regs == 1) || t.runOk x.r regs) && cs.all r.inBounds &&
  (!r.isBfp || (!x.x1 && i0 / 32 == (i0 + n - 1) / 32 &&
    (!store || (r.m * i0 % 8 == 0 && r.m * n % 8 == 0))))

/-- The byte addresses that hold an element, and its first bit in them (R61, R71). -/
def TRec.elemPlace (r : TRec) (cs : List Nat) : List Nat × Nat :=
  if r.isBfp then
    let b := r.m * (r.linear cs).toNat
    ((if b % 8 + r.m ≤ 8 then [b] else [b, b + 8]).map fun i => (r.mantByte i).toNat, b % 8)
  else ((List.range (r.bits / 8)).map fun i => (r.addr cs + BitVec.ofNat 64 i).toNat, 0)

/-- LDV (R164). -/
def execLdv (c : Ctl) (x : Ldv) (s : State) : Host.Outcome State Fault Refusal :=
  s.memLanes c fun s t =>
    match s.recRead t c (t.pair x.a) with
    | .error e => e
    | .ok r =>
      if !ldvOk x t r false then .ok (s.trapLane t c cTensorOperand)
      else
        let cs := ldvCoords x t
        let places := cs.map r.elemPlace
        let scale := if r.isBfp then some (r.scaleAddr (cs.headD [])).toNat else none
        let ranges := (places.flatMap fun p => p.1.map fun k => (k, 1)) ++ (scale.toList.map fun k => (k, 1))
        s.accessLane t c (.ldv c x) .read 1 (BitVec.ofNat 64 ((ranges.headD (0, 0)).1))
          { Access.blank [t.uid] (.ldv x.r.toNat r.tag r.bits r.perReg places scale x.fresh) c.setf t.pc c.len.bytes with
            reads := ranges }
          (fun s a => s.enqueueAfterWc t.loc.core a)

/-- The pattern of element k of a run in registers. -/
def runElem (t : Thread) (r : TRec) (d : Reg) (k : Nat) : Nat :=
  (if d == 255 then 0 else (t.v.getD (d.toNat + k / r.perReg) VReg.zero).val.toNat) / 2 ^ (r.bits * (k % r.perReg)) % 2 ^ r.bits

/-- The bytes a lane of STV writes (R164). -/
def stvBytes (x : Ldv) (t : Thread) (r : TRec) : List (Nat × Byte) :=
  let cs := ldvCoords x t
  let n := x.nm1.toNat + 1
  if r.isBfp then
    let v := ((List.range n).reverse).foldl (fun a k => a * 2 ^ r.m + runElem t r x.r k) 0
    let b := r.m * (r.linear (cs.headD [])).toNat
    ((List.range (r.m * n / 8)).map fun i => ((r.mantByte (b + 8 * i)).toNat, BitVec.ofNat 8 (v / 256 ^ i))) ++
      [((r.scaleAddr (cs.headD [])).toNat, (t.reg x.r).scale)]
  else
    (cs.zip (List.range n)).flatMap fun p => (r.putElem p.1 (runElem t r x.r p.2)).map fun b => (b.1.toNat, b.2)

/-- The tags of STV's run are FMT or RAW. -/
def stvTagsOk (x : Ldv) (t : Thread) (r : TRec) : Bool :=
  let regs := (x.nm1.toNat + 1 + r.perReg - 1) / r.perReg
  (List.range regs).all fun j =>
    let g := if x.r == 255 then tagRAW else (t.v.getD (x.r.toNat + j) VReg.zero).tag
    g == r.tag || g == tagRAW

/-- Each lane of STV: checked, or trapped or held; the lanes that store. -/
def stvScan (c : Ctl) (x : Ldv) (s : State) : List Thread → Except Fault (State × List (Thread × List (Nat × Byte)))
  | [] => .ok (s, [])
  | t :: ts =>
    match s.recRead t c (t.pair x.a) with
    | .error (.error e) => .error e
    | .error (.ok s1) => stvScan c x s1 ts
    | .ok r =>
      if !ldvOk x t r true then stvScan c x (s.trapLane t c cTensorOperand) ts
      else if !stvTagsOk x t r then stvScan c x (s.trapLane t c cTagMismatch) ts
      else (stvScan c x s ts).map fun q => (q.1, (t, stvBytes x t r) :: q.2)

/-- STV (R164). -/
def execStv (c : Ctl) (x : Ldv) (s : State) : Host.Outcome State Fault Refusal :=
  outcomeOf (match stvScan c x (s.skipOff c) (participants c s.group) with
    | .error e => .error e
    | .ok r => (r.1.groupStore c (.stv c x) {} r.2 true).map State.issueDone)

/-! PREF, fences, persistence (R165 to R168). -/

/-- PREF (R165): the line enters the L1 when `.L1`, its SETF falls after 2 ac. During an edit of the interleave table, which holds the
read of HBM, it brings no line in (R296, log 154). -/
def execPref (c : Ctl) (x : Pref) (s : State) : Host.Outcome State Fault Refusal :=
  let ts := participants c s.group
  let s1 := s.issueAll c 2 fun _ => .ok {}
  .next (if x.rc then s1 else ts.foldl (fun s t =>
    match s.xlate (some t.loc.core) t.ctx t.priv .read (t.pair x.a + x.off.signExtend 64) with
    | .dpa a _ _ _ => if s.poisoned (a / 256 * 256) 256 || s.editHolds [a] then s else s.fillL1 t.loc.core false [a]
    | _ => s) s1)

/-- FENCE (R166, R162). -/
def execFence (c : Ctl) (kind : FKind) (scope : Scope) (s : State) : Host.Outcome State Fault Refusal :=
  s.memLanes c fun s t =>
    let s1 := match kind with | .acq => s | _ => s.flushOwn t
    .ok ((s1.issueMem t c).enqueue { Access.blank [t.uid] (.fence kind) c.setf t.pc c.len.bytes with wide := scopeWide [t] scope })

/-- PBAR (R167). The thread's lines leave the write-combining buffer too (log 140). -/
def execPbar (c : Ctl) (system : Bool) (s : State) : Host.Outcome State Fault Refusal :=
  s.memLanes c fun s t =>
    .ok (((s.flushOwn t).issueMem t c).enqueue (Access.blank [t.uid] (.pbar system) c.setf t.pc c.len.bytes))

/-- Adds a waiter of its own (R305). -/
def State.addWaiter (s : State) (t : Thread) (va : DWord) (fk : Nat) (ak : AccKind) (src : Nat) (w : Waiter) : State :=
  let r := s.newFault va t.ctx fk ak src (s.handleOf t.loc) (s.lnumOf t)
  { r.2 with nextId := r.2.nextId + 1
             mmu := { r.2.mmu with waiters := r.2.mmu.waiters ++ [{ w with id := r.2.nextId, frec := r.1 }] } }

/-- PFLUSH (R168). -/
def execPflush (c : Ctl) (a : Reg) (off : BitVec 16) (s : State) : Host.Outcome State Fault Refusal :=
  s.memLanes c fun s t =>
    let va := t.pair a + off.signExtend 64
    let acc := { Access.blank [t.uid] (.pflush (va.toNat / 256)) c.setf t.pc c.len.bytes with reads := [(va.toNat / 256 * 256, 1)] }
    match s.mapRanges (some t.loc.core) t.ctx t.priv .read acc.reads with
    | .error .bad => .ok (s.trapLane t c cBadAddress)
    | .error .ue => .ok (s.machineCheck [t.uid] cMemUe c.len.bytes t.pc)
    | .error .held => .ok (s.holdAt t.uid (.retry .edit))
    | .error (.absent d) => .error (.absentMemory d)
    | .error (.swap ..) => .ok (s.passLane t c)
    | .error (.fault v k) =>
      .ok ((s.issueMem t c).addWaiter t v k .read 5
        { id := 0, uid := t.uid, uids := [t.uid], setf := c.setf, frec := 0, load := false, flush := true, addr := va
          acc := acc, pc := t.pc, ilen := c.len.bytes })
    | .ok ps =>
      if s.foreignVault t ps then .ok (s.trapLane t c (cDet 4))
      else .ok (((s.fillTlbs (some t.loc.core) t.ctx ps).issueMem t c).enqueue (acc.target ps))

/-! DLD and DST (R113 to R118, R130). -/

/-- The 516 bytes of a directional register's image. -/
def dirImage (w : Wave) (r : Reg) : List Byte :=
  ((w.d.getD r.toNat []).flatMap fun (h : Half) => bytesOf 2 h.toNat) ++ bytesOf 4 (w.norm r).toNat

/-- A DLD or DST whose participants all pass, SETF raised until it completes. -/
def State.dirIssue (s : State) (c : Ctl) (ts : List Thread) : State :=
  (s.collectiveEnd c 0 ts (.ok fun _ => {}) 0).modThreads ((participants c ts).map (·.uid)) (·.flagAdd c.setf)

/-- The common part of DLD and DST: the address of the scalar lane is checked, first for its form and then for its alignment (log 116),
and resolved; `go` acts when it resolves. -/
def State.dirAccess (s : State) (c : Ctl) (x : DMem) (i : Instr) (ts : List Thread) (load : Bool)
    (go : State → Thread → Wave → Access → List Part → State) : Except Fault State :=
  match (participants c ts).head? with
  | none => .ok (s.collectiveEnd c 0 ts (.ok fun _ => {}) 0)
  | some t =>
    match s.waveOf t with
    | none => .ok s
    | some w =>
      let va := t.pair x.a + x.off.signExtend 64
      let also := ((participants c ts).map (·.uid)).filter (· != t.uid)
      let q := w.dseq + 1
      let ranges := [(va.toNat, 516)]
      let bytes := ((List.range 516).map (va.toNat + ·)).zip (dirImage w x.r)
      let acc : Access :=
        if load then { Access.blank [t.uid] (.dld x.r.toNat w.wid q) c.setf t.pc c.len.bytes with reads := ranges, also := also }
        else { Access.blank [t.uid] (.store bytes) c.setf t.pc c.len.bytes with
          writes := ranges, also := also, keys := [(t.uid, s.deferKey t)] }
      let acc := acc.hinted c
      let ak : AccKind := if load then .read else .write
      let all (e : Cause) : Except Fault State := .ok (s.collectiveEnd c 0 ts (.error e) 0)
      if !canonical va then all cBadAddress
      else if va.toNat % 8 != 0 then all cDirAlign
      else
        match s.mapRanges (some t.loc.core) t.ctx t.priv ak ranges with
        | .error .bad => all cBadAddress
        | .error .ue => .ok (s.machineCheck ((participants c ts).map (·.uid)) cMemUe c.len.bytes t.pc)
        | .error .held => .ok (s.modThreads (ts.map (·.uid)) fun x => { x with hold := .retry .edit })
        | .error (.absent d) => .error (.absentMemory d)
        | .error (.fault v k) =>
          .ok (((s.dirIssue c ts).modWave w.wid fun w => { w with dseq := q }).addWaiter t v k ak 4
            { id := 0, uid := t.uid, uids := (participants c ts).map (·.uid), setf := c.setf, frec := 0, load := load
              flush := false, addr := va, acc := acc, pc := t.pc, ilen := c.len.bytes })
        | .error (.swap d y) =>
          let wait (s : State) : State :=
            let s1 := (s.dirIssue c ts).modWave w.wid fun w => { w with dseq := q }
            { s1 with nextId := s1.nextId + 1
                      thatches := { s1.thatches with swaps := s1.thatches.swaps ++
                        [{ desc := d, yealm := y, entry := s1.logEntry t c i va 1 0 (some acc) false [] }] } }
          match s.requestYealm d y with
          | some s1 => .ok (wait s1)
          | none => if s.windowShut w.lnum w.wg then all cYealmWindow else .ok (wait s)
        | .ok ps =>
          if s.foreignVault t ps then all (cDet 4)
          else .ok (go ((s.fillTlbs (some t.loc.core) t.ctx ps).modWave w.wid fun w => { w with dseq := q }) t w acc ps)

def execDld (c : Ctl) (x : DMem) (s : State) : Host.Outcome State Fault Refusal :=
  match s.issue with
  | some { kind := .wave, .. } =>
    outcomeOf ((s.issueDone).dirAccess c x (.dld c x) s.group true fun s1 t _ a ps =>
      (s1.dirIssue c s.group).enqueueAfterWc t.loc.core (a.target ps))
  | _ => .next (s.arrive c)

def execDst (c : Ctl) (x : DMem) (s : State) : Host.Outcome State Fault Refusal :=
  match s.issue with
  | some { kind := .wave, .. } =>
    outcomeOf ((s.issueDone).dirAccess c x (.dst c x) s.group false fun s1 t _ a ps =>
      match (a.target ps).op with
      | .store bytes =>
        let lack := (bytes.any fun b => s1.deferred? t b.1) && !s1.deferRoom t 1
        if lack then s1.collectiveEnd c 0 s.group (.error (cDet 6)) 0
        else
          let s2 := s1.dirIssue c s.group
          if bytes.any fun b => s2.deferred? t b.1 then
            s2.placeStore c.setf t.pc c.len.bytes { also := a.also, keys := a.keys, nt := a.nt, hint := a.hint } [StoreLane.make t bytes ps]
          else s2.enqueueAfterWc t.loc.core (a.target ps)
      | _ => s1)
  | _ => .next (s.arrive c)

/-! Events. -/

/-- LOAD_RETURN (R160, R164, R130): a load's data arrives. -/
def execLoadReturn (id : Nat) (s : State) : Host.Outcome State Fault Refusal :=
  match s.ready? id with
  | none => .next s
  | some a =>
    match a.op with
    | .load .. => .next (s.performLoad a)
    | .ldv .. => .next (s.performLoad a)
    | .dld .. => .next (s.performLoad a)
    | _ => .next s

/-- Bytes for a vault that reach a line holding uncorrectable data without writing all of it (R354). -/
def State.vaultBad (s : State) (bs : List (Nat × Byte)) : Bool :=
  (linesOf (bs.filter fun b => Config.vwin ≤ b.1) 64).any fun l =>
    s.poison.contains l && !(List.range 64).all fun i => bs.any (·.1 == l * 64 + i)

/-- STORE_COMPLETE (R160, R166 to R168, R205, R206, R201, R199, R219): an access that stores, fences, flushes, releases or
invalidates performs at its home, and its flag falls. -/
def execStoreComplete (id : Nat) (s : State) : Host.Outcome State Fault Refusal :=
  match s.ready? id with
  | none => .next s
  | some a =>
    match a.op with
    | .store bs =>
      -- a vault store to uncorrectable data writes nothing, unless it writes every byte of the line (R354, log 114)
      if s.vaultBad bs then .next ((s.finish a).machineCheck a.uids cVaultUe a.ilen a.pc true)
      else .next ((s.writeHome bs a.persist a.nt).finish a)
    | .fence _ => .next (s.finish a)
    | .pbar _ => .next (s.finish a)
    | .pflush line => .next ((s.flushDirty line).finish a)
    | .l1inv mode =>
      match a.uids.head?.bind s.thread? with
      | some t => .next ((s.l1Invalidate t.loc.core mode).finish a)
      | none => .next ((if mode == 3 then s.l1Invalidate 0 3 else s).finish a)
    | .tlbinv mode ctx va count waits => .next (s.performTlbinv a mode ctx va count waits)
    | .release g =>
      match (a.uids.head?.bind s.thread?).bind s.waveOf with
      | some w => .next ((s.modWg w.lnum w.wg fun x =>
          { x with released := if x.released.contains g then x.released else x.released ++ [g] }).finish a)
      | none => .next (s.finish a)
    | .ticket seq rank =>
      match (a.uids.head?.bind s.thread?).bind s.waveOf with
      | some w => .next ((s.modLaunch w.lnum fun l => { l with tickets := l.tickets ++ [(rank, seq)] }).finish a)
      | none => .next (s.finish a)
    | .unlock dpa o => .next ((if s.lockOwner dpa == o then s.lockRelease dpa else s).finish a)
    | .emit lnum r bs => .next ((((s.writeHome bs a.persist).modLaunch lnum fun l =>
        { l with inq := l.inq.map fun q => { q with written := q.written ++ [r] } })).finish a)
    | .ack _ => .next (s.finish a)
    | .heapset ctx base limit off =>
      .next ({ s with mmu := { s.mmu with hbase := s.mmu.hbase.set ctx base, hlimit := s.mmu.hlimit.set ctx limit
                                          hoff := s.mmu.hoff.set ctx off } }.finish a)
    | _ => .next s

/-- WC_LINE_FLUSH (R162): a line leaves the write-combining buffer, as one store to its home. -/
def execWcLineFlush (core line : Nat) (s : State) : Host.Outcome State Fault Refusal :=
  .next (s.flushWc core fun l => l.line == line)

/-- L1_LINE_REPLACEMENT (R161). -/
def execL1LineReplacement (core line : Nat) (s : State) : Host.Outcome State Fault Refusal :=
  .next (if (s.core core).l1.any (·.1 == line)
    then s.modCore core fun k => { k with l1 := k.l1.filter (·.1 != line) } else s)

/-- RIDGE_CACHE_EVICTION (R334): a dirty line of an SCM page enters the persist queue when there is room. -/
def execRidgeCacheEviction (line : Nat) (s : State) : Host.Outcome State Fault Refusal :=
  .next (if s.pqRoom 256 then s.flushDirty line else s)

end Sys2Proof.Machine
end

