-- ==== Sys2Proof/Machine/EngineIssue.lean ====
section
/-! DEFINITION. The issue of engine commands: COPY, GATHER, SCATTER, TCOPY, RGET, RPUT, CRED, CGATH, CBCST (R156, R169,
R173 to R175, R186 to R189), and COLLECTIVE_JOIN (R187 to R189, R70). -/

namespace Sys2Proof.Machine

/-- A barrier operand (R158, R177): its key, or the cause. -/
def State.barOperand (s : State) (t : Thread) (va : DWord) : Except Cause Nat :=
  let v := va.toNat
  if !canonical va then .error cBadAddress
  else if v % 32 != 0 || v < Config.vwin || Config.vwin + s.enabled.length * Config.vaultBytes ≤ v then .error cBarrierOperand
  else if s.isDet t && !(vaultBase t.loc.core ≤ v && v < vaultBase t.loc.core + Config.vaultBytes) then .error (cDet 4)
  else .ok v

/-- An engine command of a thread, not yet queued. -/
def State.newCmd (s : State) (t : Thread) (c : Ctl) (engine bar : Nat) (op : EngOp) : EngCmd :=
  { id := 0, core := t.loc.core, engine := engine, uid := t.uid, lnum := s.lnumOf t, wg := s.wgIdxOf t, ctx := t.ctx
    priv := t.priv, setf := c.setf, bar := bar, op := op, after := [], written := [], credited := 0, cond := 0
    fault := none, swap := none, data := none }

/-- Issues a checked command (R169): the thread's own write-combined lines leave first; a full queue, or a barrier in a vault whose die's
cores are in reset (R360), holds the thread. -/
def State.submit (s : State) (t : Thread) (c : Ctl) (cmd : EngCmd) : State :=
  if engCapacity cmd.engine ≤ s.engQueued t.loc.core cmd.engine then s.holdAt t.uid (.retry (.engine cmd.engine))
  else if !s.vaultUp cmd.bar then s.holdAt t.uid (.retry (.vault cmd.bar))
  else ((s.flushOwn t).passLane t c).queueCmd cmd

/-- An operand address that a command accepts (R158, R298): canonical, and in no vault window of an absent core. -/
def State.engAddr (s : State) (va : DWord) : Bool :=
  canonical va && !(Config.vwin + s.enabled.length * Config.vaultBytes ≤ va.toNat && va.toNat < Config.vwinEnd)

/-- The command of a deterministic workgroup names a vault window other than its core's (R209), with an operand that it reads or writes
itself, which is DET_VIOLATION code 4 at issue (log 152). -/
def State.engForeign (s : State) (t : Thread) (op : EngOp) : Bool :=
  let far (va : DWord) (n : Nat) : Bool := foreignRange t.loc.core va n
  s.isDet t && match op with
    | .copy d r n => far d n || far r n
    | .gather d _ idx rows idx64 rowb => far d (rows * rowb) || far idx (rows * (if idx64 then 8 else 4))
    | .scatter _ r idx rows idx64 rowb => far r (rows * rowb) || far idx (rows * (if idx64 then 8 else 4))
    | .tcopy d r _ => (d.destAddrs ++ r.destAddrs).any fun a => far a 1
    | .rget l r n _ => far l n || far r n
    | .rput r l n _ => far l n || far r n
    | .coll _ d r _ _ _ _ => (d.destAddrs ++ r.destAddrs).any fun a => far a 1
    | .record .. => false

/-- One lane of a command whose operands need no record: `f` checks them and gives the operation. -/
def State.engLane (s : State) (t : Thread) (c : Ctl) (bar : Reg) (engine : Nat) (f : Except Cause EngOp) : Except Fault State :=
  match s.barOperand t (t.pair bar) with
  | .error e => .ok (s.trapLane t c e)
  | .ok k =>
    match f with
    | .error e => .ok (s.trapLane t c e)
    | .ok op => .ok (if s.engForeign t op then s.trapLane t c (cDet 4) else s.submit t c (s.newCmd t c engine k op))

/-- The operand values of an engine instruction in field order (R156, R282). -/
def engineArgs (i : Instr) (t : Thread) : List DWord :=
  let w (r : Option Reg) : DWord := (t.optVal r).setWidth 64
  match i with
  | .copy _ x => [t.pair x.d, t.pair x.s, w x.n]
  | .gather _ x => [t.pair x.a, t.pair x.b, t.optPair x.idx]
  | .scatter _ x => [t.pair x.a, t.pair x.b, t.optPair x.idx]
  | .tcopy _ x => [t.pair x.d, t.pair x.s]
  | .rget _ x => [t.pair x.a, t.pair x.b, w x.n, w x.k]
  | .rput _ x => [t.pair x.a, t.pair x.b, w x.n, w x.k]
  | .cred _ x => [t.pair x.d, t.pair x.s, w x.g]
  | .cgath _ x => [t.pair x.d, t.pair x.s, w x.g]
  | .cbcst _ x => [t.pair x.d, t.pair x.s, w x.g]
  | _ => []

/-- The commands that an instruction has queued since s0 carry it and its operand values, for an image. -/
def State.described (s0 : State) (i : Instr) (r : Host.Outcome State Fault Refusal) : Host.Outcome State Fault Refusal :=
  match r with
  | .next s => .next { s with cmds := s.cmds.map fun (x : EngCmd) =>
      if s0.nextId ≤ x.id then { x with desc := some i, args := ((s0.thread? x.uid).map (engineArgs i)).getD [] } else x }
  | o => o

/-- COPY (R173). -/
def execCopy (c : Ctl) (x : CopyArgs) (s : State) : Host.Outcome State Fault Refusal :=
  s.described (.copy c x) <| s.memLanes c fun s t =>
    let d := t.pair x.d
    let r := t.pair x.s
    let n := (t.optVal x.n).toNat
    s.engLane t c x.bar 0
      (if !s.engAddr d || !s.engAddr r then .error cBadAddress
       else if 2 ^ 30 < n then .error cEngineOperand
       else .ok (.copy d r n))

/-- The operands of GATHER and SCATTER (R174). -/
def State.gatherOp (s : State) (x : Gather) (t : Thread) (scatter : Bool) : Except Cause EngOp :=
  let a := t.pair x.a
  let b := t.pair x.b
  let idx := t.optPair x.idx
  let rows := x.nrows.toNat
  if !s.engAddr a || !s.engAddr b || !s.engAddr idx then .error cBadAddress
  else if idx.toNat % (if x.idx64 then 8 else 4) != 0 || (x.rowb4 == 0 && rows != 0) then .error cEngineOperand
  else if scatter then .ok (.scatter a b idx rows x.idx64 (4 * x.rowb4.toNat))
  else .ok (.gather a b idx rows x.idx64 (4 * x.rowb4.toNat))

/-- GATHER (R174). -/
def execGather (c : Ctl) (x : Gather) (s : State) : Host.Outcome State Fault Refusal :=
  s.described (.gather c x) <| s.memLanes c fun s t => s.engLane t c x.bar 1 (s.gatherOp x t false)

/-- SCATTER (R174). -/
def execScatter (c : Ctl) (x : Gather) (s : State) : Host.Outcome State Fault Refusal :=
  s.described (.scatter c x) <| s.memLanes c fun s t => s.engLane t c x.bar 1 (s.gatherOp x t true)

/-- Whether TCOPY accepts two records (R175). -/
def tcopyOk (d r : TRec) : Bool :=
  d.ndim == r.ndim && d.dims == r.dims && (d.fmt == r.fmt || (d.isFloat && r.isFloat))

/-- A command that reads two records at issue (R402). -/
def State.recLane (s : State) (t : Thread) (c : Ctl) (bar d r : Reg) (engine : Nat) (pre : Except Cause Unit)
    (f : State → TRec → TRec → Except Cause (State × EngOp)) : Except Fault State :=
  match s.barOperand t (t.pair bar), pre with
  | .error e, _ => .ok (s.trapLane t c e)
  | _, .error e => .ok (s.trapLane t c e)
  | .ok k, .ok _ =>
    match s.recRead t c (t.pair d) with
    | .error o => o
    | .ok dr =>
      match s.recRead t c (t.pair r) with
      | .error o => o
      | .ok sr =>
        match f s dr sr with
        | .error e => .ok (s.trapLane t c e)
        | .ok (s1, op) =>
          if s.engForeign t op then .ok (s.trapLane t c (cDet 4))
          else if engCapacity engine ≤ s.engQueued t.loc.core engine then .ok (s.holdAt t.uid (.retry (.engine engine)))
          else if !s.vaultUp k then .ok (s.holdAt t.uid (.retry (.vault k)))
          else .ok (s1.submit t c (s.newCmd t c engine k op))

/-- TCOPY (R175). -/
def execTcopy (c : Ctl) (x : TCopy) (s : State) : Host.Outcome State Fault Refusal :=
  s.described (.tcopy c x) <| s.memLanes c fun s t =>
    s.recLane t c x.bar x.d x.s 2 (.ok ()) fun s d r =>
      if tcopyOk d r then .ok (s, .tcopy d r x.rm) else .error cTensorOperand

/-- The operands of RGET and RPUT (R186): to the own package they behave as COPY. -/
def State.rxferOp (s : State) (t : Thread) (x : RXfer) (put : Bool) : Except Cause EngOp :=
  let a := t.pair x.a
  let b := t.pair x.b
  let n := (t.optVal x.n).toNat
  let k := (t.optVal x.k).toNat
  let own := k == s.cmd.rank
  let ok (here : Bool) (va : DWord) : Bool := if here then s.engAddr va else canonical va
  if !ok (own || !put) a || !ok (own || put) b then .error cBadAddress
  else if 2 ^ 30 < n || s.cmd.npkg ≤ k then .error cEngineOperand
  else if own then .ok (.copy a b n)
  else if put then .ok (.rput a b n k) else .ok (.rget a b n k)

/-- RGET (R186). -/
def execRget (c : Ctl) (x : RXfer) (s : State) : Host.Outcome State Fault Refusal :=
  s.described (.rget c x) <| s.memLanes c fun s t => s.engLane t c x.bar 3 (s.rxferOp t x false)

/-- RPUT (R186). -/
def execRput (c : Ctl) (x : RXfer) (s : State) : Host.Outcome State Fault Refusal :=
  s.described (.rput c x) <| s.memLanes c fun s t => s.engLane t c x.bar 3 (s.rxferOp t x true)

/-! Collectives (R187 to R189). -/

/-- The group a lane names (R187). -/
def State.collGroup (s : State) (t : Thread) (x : Coll) : Except Cause Group :=
  let v := (t.optVal x.g).toNat
  if 256 ≤ v then .error cEngineOperand
  else
    match s.cmd.groups.find? (·.num == v) with
    | none => .error cEngineOperand
    | some g => if g.ranks.contains s.cmd.rank then .ok g else .error cEngineOperand

/-- The formats CRED accepts (R188). -/
def credOk (op : COp) (d r : TRec) : Bool :=
  if r.tag == tagINT then d.tag == tagINT
  else okFloat d.tag && (okFloat r.tag || (r.isBfp && op == .add))

/-- CRED is kind 0, CGATH 1, CBCST 2. -/
def collOk (kind : Nat) (op : COp) (d r : TRec) : Bool := if kind == 0 then credOk op d r else d.fmt == r.fmt

/-- A collective command: it takes the next place of its group (R187). -/
def State.collLane (s : State) (t : Thread) (c : Ctl) (x : Coll) (kind : Nat) : Except Fault State :=
  match s.collGroup t x with
  | .error e => .ok (match s.barOperand t (t.pair x.bar) with
      | .error b => s.trapLane t c b
      | .ok _ => s.trapLane t c e)
  | .ok g =>
    s.recLane t c x.bar x.d x.s 4 (.ok ()) fun s d r =>
      if collOk kind x.op d r then
        .ok ({ s with cmd := { s.cmd with groups := s.cmd.groups.map fun q =>
                 if q.num == g.num then { q with count := q.count + 1 } else q } },
             .coll kind d r g.num x.op x.root.toNat g.count)
      else .error cTensorOperand

/-- CRED (R188). -/
def execCred (c : Ctl) (x : Coll) (s : State) : Host.Outcome State Fault Refusal :=
  s.described (.cred c x) <| s.memLanes c fun s t => s.collLane t c x 0

/-- CGATH (R189). -/
def execCgath (c : Ctl) (x : Coll) (s : State) : Host.Outcome State Fault Refusal :=
  s.described (.cgath c x) <| s.memLanes c fun s t => s.collLane t c x 1

/-- CBCST (R189). -/
def execCbcst (c : Ctl) (x : Coll) (s : State) : Host.Outcome State Fault Refusal :=
  s.described (.cbcst c x) <| s.memLanes c fun s t => s.collLane t c x 2

/-- This package's part in a collective: its source's bytes in element order, read at their homes; without the bytes where it is
not the root of a CBCST (R189). -/
def State.ownPart (s : State) (c : EngCmd) (kind : Nat) (d r : TRec) (op : COp) (root : Nat) (place : Nat) (source : Bool) :
    Except EngFail PeerPart :=
  let es := (List.range r.count).map r.coordOf
  let read (vas : List DWord) : Except EngFail (List Byte) := s.engRead c vas
  let part (data scales : List Byte) : PeerPart :=
    { rank := s.cmd.rank, kind := kind, op := op, root := root, count := r.count, dcount := d.count
      dfmt := d.tag, sfmt := r.tag, data := data, scales := scales, place := place }
  if !source then .ok (part [] [])
  else if r.isBfp then
    let heads := (List.range (r.count / 32)).map fun b => r.coordOf (32 * b)
    match read (heads.flatMap fun h => (r.putBlock h 0 (List.replicate 32 0)).map (·.1)) with
    | .error e => .error e
    | .ok bs =>
      let n := 4 * r.m + 1
      let blocks := (List.range heads.length).map fun i => (bs.drop (n * i)).take n
      .ok (part (blocks.flatMap fun b => b.take (4 * r.m)) (blocks.map fun b => b.getD (4 * r.m) 0))
  else (read (es.flatMap fun e => r.elemBytes e)).map fun bs => part bs []

/-- Bytes of one element of a format that is no BFP format. -/
def fmtBytes (tag : Byte) : Nat := elemWidth tag false / 8

/-- Element i's pattern in a part. -/
def PeerPart.pattern (p : PeerPart) (i : Nat) : Nat :=
  if tagIsBfp p.sfmt then
    let m := p.sfmt.toNat - 0x20
    natOfBytes ((p.data.drop (m * i / 8)).take 2) / 2 ^ (m * i % 8) % 2 ^ m
  else natOfBytes ((p.data.drop (fmtBytes p.sfmt * i)).take (fmtBytes p.sfmt))

/-- Element i's exact value in a part (R73). -/
def PeerPart.value (p : PeerPart) (i : Nat) : XVal :=
  let q := PeerPart.pattern p i
  if tagIsBfp p.sfmt then
    let m := p.sfmt.toNat - 0x20
    bfpValue (signExt m q) (p.scales.getD (i / 32) 0).toNat m
  else if p.sfmt == tagINT then .ofInt (signExt 32 q)
  else (fmtOf p.sfmt).decode q

/-- The smallest or largest of exact values under the rules of FMIN and FMAX (R95, R188): none when all are NaN. -/
def pickX (mx : Bool) (xs : List XVal) : Option XVal :=
  match xs.filter fun x => !x.isNan with
  | [] => none
  | y :: ys => some (ys.foldl (fun a b =>
      let negZero : Bool := match b with | .num neg 0 _ => neg | _ => false
      let aNeg : Bool := match a with | .num neg 0 _ => neg | _ => false
      if mx then (if a.lt b || (a.eqv b && aNeg && !negZero) then b else a)
      else (if b.lt a || (a.eqv b && negZero && !aNeg) then b else a)) y)

/-- One element of CRED (R188): its pattern and conditions. -/
def credElem (op : COp) (dtag : Byte) (parts : List PeerPart) (i : Nat) : Nat × Word :=
  if dtag == tagINT then
    let vs := parts.map fun p => PeerPart.pattern p i
    (match op with
     | .add => vs.foldl (· + ·) 0 % 2 ^ 32
     | .min => vs.tail.foldl (fun a b => if signExt 32 b < signExt 32 a then b else a) (vs.headD 0)
     | .max => vs.tail.foldl (fun a b => if signExt 32 a < signExt 32 b then b else a) (vs.headD 0), 0)
  else
    let f := fmtOf dtag
    let xs := parts.map fun p => PeerPart.value p i
    match op with
    | .add => (xs.foldl LongAcc.add LongAcc.empty).round f
    | _ =>
      let inv : Word := if xs.any (·.isSig) then stINV else 0
      match pickX (op == .max) xs with
      | none => (f.nanPat, inv)
      | some x => let r := f.round x .rne 0; (r.1, r.2 ||| inv)

/-- Whether joined commands agree, and their counts are those their kind requires (R187, R189). -/
def collAgree (parts : List PeerPart) : Bool :=
  match parts with
  | [] => false
  | p :: ps =>
    ps.all (fun q => q.kind == p.kind && q.op == p.op && q.root == p.root && q.count == p.count && q.dfmt == p.dfmt) &&
    parts.all (fun q => q.dcount == (if q.kind == 1 then parts.length * q.count else q.count)) &&
    (p.kind != 2 || p.root < parts.length)

/-- The destination bytes in the order of `TRec.destAddrs`, and the conditions of the barrier's status. -/
def collBytes (kind root : Nat) (op : COp) (d : TRec) (parts : List PeerPart) : List Byte × Word :=
  let srcOf (e : Nat) : PeerPart × Nat :=
    let dflt : PeerPart := { rank := 0, kind := 0, op := .add, root := 0, count := 0, dcount := 0, dfmt := 0, sfmt := 0, data := [], scales := [] }
    if kind == 1 then
      let n := (parts.headD dflt).count
      (parts.getD (e / n) dflt, e % n)
    else (parts.getD root dflt, e)
  if kind == 0 then
    let outs := (List.range d.count).map fun e => credElem op d.tag parts e
    (outs.flatMap fun o => bytesOf (d.bits / 8) o.1, statusCond (outs.foldl (fun a o => a ||| o.2) 0))
  else if d.isBfp then
    ((List.range (d.count / 32)).flatMap fun b =>
      let p := srcOf (32 * b)
      (p.1.data.drop (d.m * p.2 / 8)).take (4 * d.m) ++ [p.1.scales.getD (p.2 / 32) 0], 0)
  else
    ((List.range d.count).flatMap fun e =>
      let p := srcOf e
      bytesOf (d.bits / 8) (PeerPart.pattern p.1 p.2), 0)

/-- The command of a group at a place, and its group. -/
def State.collAt (s : State) (group place : Nat) : Option (EngCmd × Group) :=
  match s.cmds.find? (fun c => match c.op with | .coll _ _ _ g _ _ p => g == group && p == place | _ => false),
        s.cmd.groups.find? (·.num == group) with
  | some c, some g => some (c, g)
  | _, _ => none

/-- A member's cancel notice for a place of a group (R187): the command of that place is cancelled, or will be when it is queued. -/
def State.cancelPlace (s : State) (group place : Nat) : State :=
  match s.collAt group place with
  | some (c, _) => s.cancelCmd c false
  | none => { s with cmd := { s.cmd with groups := s.cmd.groups.map fun (q : Group) =>
      if q.num == group && q.count ≤ place && !q.cancelled.contains place then { q with cancelled := q.cancelled ++ [place] } else q } }

/-- The lowest place of a group whose command has not joined. -/
def State.firstPlace (s : State) (group : Nat) : Nat :=
  ((s.cmds.filterMap fun c => match c.op with
    | .coll _ _ _ g _ _ p => if g == group && c.data.isNone then some p else none
    | _ => none).head?).getD 0

/-- COLLECTIVE_JOIN (R187 to R189): this package's command of the place that the peers' parts name meets them; a part that is a cancel
notice cancels that place. -/
def execCollectiveJoin (group : Nat) (peers : List PeerPart) (s : State) : Host.Outcome State Fault Refusal :=
  let place := (peers.head?.map (·.place)).getD (s.firstPlace group)
  if peers.any (·.cancelled) then
    .next ((peers.filter (·.cancelled)).foldl (fun s p => s.cancelPlace group p.place) s)
  else
  match s.collAt group place with
  | none => .next s
  | some (c, g) =>
    match c.op with
    | .coll kind d r _ op root _ =>
      let others := g.ranks.filter (· != s.cmd.rank)
      if c.data.isSome || !(others.all (fun k => peers.any (·.rank == k)) &&
          peers.all (fun p => others.contains p.rank && p.place == place)) || !(s.cmdReady { c with data := some [] }) then .next s
      else
        match s.ownPart c kind d r op root place (kind != 2 || g.ranks.getD root 0 == s.cmd.rank) with
        | .error e => s.chunkStop c e
        | .ok mine =>
          let parts := g.ranks.filterMap fun k => if k == s.cmd.rank then some mine else peers.find? (·.rank == k)
          if !collAgree parts then .next (s.cancelCmd c)
          else
            let out := collBytes kind root op d parts
            .next (s.setCmd { c with data := some out.1, cond := out.2 } false)
    | _ => .next s

end Sys2Proof.Machine
end

