-- ==== Sys2Proof/Machine/Barrier.lean ====
section
/-! DEFINITION. Barrier instructions BINIT, BEXP, BARR, BWAIT, BTEST, BDROP, RINGNEXT (R177 to R183), and
BARRIER_PORT_OPERATION. -/

namespace Sys2Proof.Machine

/-- A thread in a landing slot may not use an object in its home workgroup's vault allocation (R177). -/
def State.migratedSync (s : State) (t : Thread) (key : Nat) : Bool :=
  t.home.isSome && (match s.wgOf t with
    | some g => g.vaultBase ≤ key && key < g.vaultBase + g.hdr.vaultsz
    | none => false)

/-- The operand of a barrier instruction (R177); a ring's base is 64-byte aligned (R182). -/
def State.barInstr (s : State) (t : Thread) (a : Reg) (ring : Bool) : Except Cause Nat :=
  match s.barOperand t (t.pair a) with
  | .error e => .error e
  | .ok k =>
    if ring && k % 64 != 0 then .error cBarrierOperand
    else if s.migratedSync t k then .error cMigratedSync
    else .ok k

/-- A barrier operation on its way to the port: it reads and writes the object. -/
def barAccess (uids : List Nat) (key : Nat) (op : BarOp) (unit : List PUnit) (setf : BitVec 4) (pc : DWord) (ilen : Nat) : Access :=
  let n := match op with | .init true _ _ => 0x40 + 64 * 16 | .ringNext .. => 64 | _ => 32
  { Access.blank uids (.barrier key op unit) setf pc ilen with
    reads := [(key, n)], writes := [(key, n)]
    rel := (match op with | .arrive _ => true | _ => false)
    acq := (match op with | .test .. => true | _ => false) }

/-- One lane's barrier operation is sent to the port. -/
def State.barLane (s : State) (t : Thread) (c : Ctl) (a : Reg) (ring : Bool) (op : Except Cause BarOp) : Except Fault State :=
  .ok (match s.barInstr t a ring, op with
    | .error e, _ => s.trapLane t c e
    | _, .error e => s.trapLane t c e
    | .ok k, .ok o =>
      let s1 := match o with | .arrive _ => s.flushOwn t | _ => s
      (s1.issueMem t c).enqueueAfterWc t.loc.core (barAccess [t.uid] k o [.thread t.uid] c.setf t.pc c.len.bytes))

/-- BINIT (R179, R182). -/
def execBinit (c : Ctl) (x : BInit) (s : State) : Host.Outcome State Fault Refusal :=
  s.memLanes c fun s t =>
    let p := t.val x.p
    s.barLane t c x.a x.ring (if !x.ring && p.toNat / 2 ^ 16 != 0 then .error cBarrierOperand
      else .ok (.init x.ring p (t.optVal x.b)))

/-- BEXP (R179). -/
def execBexp (c : Ctl) (a b : Reg) (s : State) : Host.Outcome State Fault Refusal :=
  s.memLanes c fun s t => s.barLane t c a false (.ok (.expect (t.val b)))

/-- A collective barrier operation with the scalar lane's operands: one operation for the wave (R114, R179, R183). -/
def State.barWave (s : State) (c : Ctl) (ts : List Thread) (a : Reg) (ring : Bool) (op : Thread → BarOp) : State :=
  match (participants c ts).head? with
  | none => s.collectiveEnd c 0 ts (.ok fun _ => {}) 0
  | some t =>
    match s.barInstr t a ring with
    | .error e => s.collectiveEnd c 0 ts (.error e) 0
    | .ok k =>
      let uids := (participants c ts).map (·.uid)
      let s1 := (s.collectiveEnd c 0 ts (.ok fun _ => {}) 0).modThreads uids (·.flagAdd c.setf)
      let s2 := match op t with | .arrive _ => (participants c ts).foldl (fun (s : State) t => s.flushOwn t) s1 | _ => s1
      s2.enqueueAfterWc t.loc.core (barAccess uids k (op t) [.wave t.wid] c.setf t.pc c.len.bytes)

/-- BARR and BARR.W (R179). -/
def execBarr (c : Ctl) (x : BArr) (s : State) : Host.Outcome State Fault Refusal :=
  if x.w then .next (s.collective c fun ts s => s.barWave c ts x.a false fun t => .arrive (t.optVal x.c))
  else s.memLanes c fun s t => s.barLane t c x.a false (.ok (.arrive (t.optVal x.c)))

/-- BWAIT (R180): each participant is held until the phase differs from its parity. -/
def execBwait (c : Ctl) (x : BWait) (s : State) : Host.Outcome State Fault Refusal :=
  s.memLanes c fun s t =>
    .ok (match s.barInstr t x.a false with
      | .error e => s.trapLane t c e
      | .ok k => { s with woken := s.woken.filter (·.1 != t.uid) }.modThread t.uid fun y =>
          { y with hold := .barrier k ((t.val x.b).getLsbD 0) x.checked, setf := c.setf, ilen := c.len.bytes })

/-- BTEST (R180). -/
def execBtest (c : Ctl) (x : BWait) (s : State) : Host.Outcome State Fault Refusal :=
  s.memLanes c fun s t => s.barLane t c x.a false (.ok (.test x.p ((t.val x.b).getLsbD 0) x.checked))

/-- BDROP (R179, R262). -/
def execBdrop (c : Ctl) (a : Reg) (s : State) : Host.Outcome State Fault Refusal :=
  s.memLanes c fun s t => s.barLane t c a false (.ok .drop)

/-- RINGNEXT (R183). -/
def execRingnext (c : Ctl) (x : RingNext) (s : State) : Host.Outcome State Fault Refusal :=
  .next (s.collective c fun ts s => s.barWave c ts x.a true fun _ => .ringNext x.consumer x.d)

/-! The port. -/

/-- The threads of an operation trap at its instruction when the port answers; their SETF contribution is removed, the instruction is
not counted (R218), and they count as arrived nowhere (R273). -/
def State.portTrap (s : State) (a : Access) (e : Cause) : State :=
  let s1 := s.finish a
  let hit (t : Thread) : Thread :=
    if a.uids.contains t.uid && t.status == .live then { t.trap (s1.trapIds t) e a.ilen a.pc with retired := t.retired - 1 } else t
  { s1 with threads := s1.threads.map hit, cores := s1.cores.map fun p => (p.1, p.2.kUnarrive a.uids) }

/-- Removes party entries at some keys from a workgroup's list (R262). -/
def State.partyClear (s : State) (lnum idx : Nat) (sel : Party → Bool) : State :=
  s.modWg lnum idx fun g => { g with party := g.party.filter fun p => !sel p }

/-- Writes predicates of a live thread. -/
def State.writePred (s : State) (uid : Nat) (p : Reg) (b : Bool) : State :=
  s.modThread uid fun t => if t.status == .exited then t else { t with preds := writePreds t.preds (wrp p b) }

/-- BARRIER_PORT_OPERATION (R177 to R183, R262): an operation is performed at the owning port and answered. -/
def execBarrierPortOperation (id : Nat) (s : State) : Host.Outcome State Fault Refusal :=
  match s.ready? id with
  | none => .next s
  | some a =>
    match a.op, (a.uids.head?.bind s.thread?) with
    | .barrier key op units, some t =>
      let lnum := s.lnumOf t
      let wg := s.wgIdxOf t
      if s.portPoisoned key op then .next ((s.finish a).machineCheck a.uids cVaultUe a.ilen a.pc true)
      else
        match op with
        | .init false p b =>
          .next (((s.barPut key ((s.barGet key).init (p.toNat % 2 ^ 16) b.toNat)).partyClear lnum wg (·.key == key)).finish a)
        | .init true p b =>
          match s.ringInit key (p.toNat % 2 ^ 16) (p.toNat / 2 ^ 16) b.toNat with
          | none => .next (s.portTrap a cBarrierOperand)
          | some s1 => .next ((s1.partyClear lnum wg fun q => (s1.ringKeys key).contains q.key).finish a)
        | .expect b => .next ((s.barPut key ((s.barGet key).expectMore b.toNat)).finish a)
        | .arrive n =>
          match s.arriveAt lnum wg key (units.headD (.thread t.uid)) n.toNat with
          | none => .next (s.portTrap a cBarrierOperand)
          | some s1 => .next (s1.finish a)
        | .drop =>
          let s1 := s.barPut key (s.barGet key).drop
          let has : Bool := match s.wg? lnum wg with
            | some g => g.party.any fun q => q.key == key && q.unit == .wave t.wid
            | none => false
          .next ((s1.partyClear lnum wg fun q => q.key == key &&
            q.unit == (if has then .wave t.wid else .thread t.uid)).finish a)
        | .ringNext consumer d =>
          let r := s.ringNext key consumer
          .next ((a.uids.foldl (fun s u => s.writeRegs u (wr1 d r.1 tagINT)) r.2).finish a)
        | .test p parity checked =>
          let b := s.barGet key
          if b.phase != parity && checked && b.last / 2 % 2 == 1 then .next (s.portTrap a cBarrierPoison)
          else .next ((s.writePred t.uid p (b.phase != parity)).finish a)
    | .barrier .., none => .next (s.finish a)
    | _, _ => .next s

end Sys2Proof.Machine
end

