-- ==== Sys2Proof/Machine/Interleave.lean ====
section
/-! DEFINITION. The interleave table (R295, R296), the die that homes a line (R207), and the events ILV_EDIT and ILV_COMMIT. -/

namespace Sys2Proof.Machine

/-- Entry i of the table over these channels (R296): V, K, CH. -/
def ilvDefault (channels : List Nat) (i : Nat) : BitVec 16 :=
  let n := channels.length
  if n == 0 || 8 * n ≤ i then 0 else BitVec.ofNat 16 (2 ^ 15 + i / n * 2 ^ 12 + channels.getD (i % n) 0)

/-- Entry i of T. -/
def Mmu.ilvAt (m : Mmu) (i : Nat) : BitVec 16 :=
  match m.ilv with
  | some t => t.getD i 0
  | none => ilvDefault m.channels i

/-- Entry i as the registers show it: the shadow table's while EDIT is set. -/
def Mmu.ilvShown (m : Mmu) (i : Nat) : BitVec 16 :=
  match (if m.ilvEdit then m.shadow.find? (·.1 == i) else none) with
  | some e => e.2
  | none => m.ilvAt i

/-- CH of an entry. -/
def ilvCh (e : BitVec 16) : Nat := e.toNat % 512
/-- K of an entry. -/
def ilvK (e : BitVec 16) : Nat := e.toNat / 2 ^ 12 % 8

/-- The pseudo-channel and offset of a present HBM DPA (R295). -/
def State.channelOf (s : State) (a : Nat) : Nat × Nat :=
  let n := max 1 s.mmu.nch
  let g := a / 4096 % 2 ^ 27
  let r := g / (8 * n)
  let e := (g % (8 * n) + 3 * r) % (8 * n)
  let t := s.mmu.ilvAt e
  (ilvCh t, (8 * r + ilvK t) * 4096 + a % 4096)

/-- The physical die whose stack or vault homes a key, if one does (R207, R298): HBM by its channel, SCM by its stack. -/
def State.homeDie (s : State) (key : Nat) : Option Nat :=
  let place (a : Nat) : Option Nat :=
    if 0x100000000000 ≤ a then some ((a - 0x100000000000) / 2 ^ 39 % 8) else some ((s.channelOf a).1 / 64)
  match s.spaceOf key with
  | .vault => some (s.physCore ((key - Config.vwin) / Config.vaultBytes) / 84)
  | .scm => place key
  | .hbm =>
    match s.mmu.rehome.find? (·.1 == key / 2 ^ 21) with
    | some r => place (r.2 + key % 2 ^ 21)
    | none => place key
  | _ => none

/-- A table is valid for N channels (R296). -/
def ilvValid (n : Nat) (t : List (BitVec 16)) : Bool :=
  let used := t.take (8 * n)
  1 ≤ n && n ≤ 512 && used.all (·.getLsbD 15) && (t.drop (8 * n)).all (fun e => !e.getLsbD 15) &&
  ((used.map ilvCh).eraseDups).all fun c =>
    (List.range 8).all fun k => (used.filter fun e => ilvCh e == c && ilvK e == k).length == 1

/-- EDIT is written (R296). -/
def State.ilvSetEdit (s : State) (on : Bool) : State :=
  { s with mmu := { s.mmu with ilvEdit := on
                               shadow := if on && s.mmu.ilvEdit then s.mmu.shadow else []
                               nchEdit := if on && s.mmu.ilvEdit then s.mmu.nchEdit else s.mmu.nch } }

/-- The DPA that a table of n channels gives a place of channel storage (R295), if it names the channel. -/
def ilvDpa (n : Nat) (t : List (BitVec 16)) (place : Nat × Nat) : Option Nat :=
  let rank := place.2 / 4096
  ((List.range (8 * n)).find? fun e => ilvCh (t.getD e 0) == place.1 && ilvK (t.getD e 0) == rank % 8).map fun e =>
    let r := rank / 8
    (r * (8 * n) + (e + 8 * n * r - 3 * r) % (8 * n)) * 4096 + place.2 % 4096

/-- HBM contents stay in their channels when the table changes: the key of a cell under the new table, none where no DPA
names its channel (R295, R296). Re-homed blocks and other spaces keep theirs. -/
def State.ilvKey (s : State) (n : Nat) (t : List (BitVec 16)) (key : Nat) : Option Nat :=
  if key < s.mmu.nch * 2 ^ 30 && !s.mmu.rehome.any (·.1 == key / 2 ^ 21) then ilvDpa n t (s.channelOf key) else some key

/-- COMMIT (R296): a valid edited table replaces T and NCH at one instant; an invalid one sets ERR. Without EDIT there is no
edited table and nothing happens. -/
def State.ilvDoCommit (s : State) : State :=
  if !s.mmu.ilvEdit then s
  else
    let t := (List.range 4096).map s.mmu.ilvShown
    let n := s.mmu.nchEdit
    if ilvValid n t then
      { s with
        mem := memSets [] (s.mem.filterMap fun c => (s.ilvKey n t c.1).map fun k => (k, c.2))
        tags := s.tags.foldl (fun ts e => match s.ilvKey n t (e.1 * 64) with
          | some k => insertBy (·.1) (k / 64, e.2) ts
          | none => ts) []
        poison := s.poison.filterMap fun p => (s.ilvKey n t (p * 64)).map (· / 64)
        mmu := { s.mmu with ilv := some t, nch := n, ilvEdit := false, shadow := []
                            channels := sortBy id ((t.take (8 * n)).map ilvCh).eraseDups } }
    else { s with mmu := { s.mmu with ilvErr := true } }

/-- ILV_EDIT (R296). -/
def execIlvEdit (on : Bool) (s : State) : Host.Outcome State Fault Refusal := .next (s.ilvSetEdit on)

/-- ILV_COMMIT (R296). -/
def execIlvCommit (s : State) : Host.Outcome State Fault Refusal := .next s.ilvDoCommit

end Sys2Proof.Machine
end

