-- ==== Sys2Proof/Machine/Migrate.lean ====
section
/-! DEFINITION. Migration of threads (R207, R247, R261): MIGR, and MIGRATION_LAND. -/

namespace Sys2Proof.Machine

/-- What resolving MIGR's home address comes to. -/
inductive MigrHome where
  | ok (die : Nat)
  | trap (c : Cause)
  | ue (c : Cause)
  | absent (dpa : Nat)
  | fault (va : DWord) (kind : Nat)
  | swap (desc yealm : Nat)
  /-- The walk waits for the end of an edit of the interleave table (R296). -/
  | held
  deriving DecidableEq, Repr

/-- The die that homes the line at va (R207). No die homes a host line: the choice is a free value (log 23). -/
def State.migrHome (s : State) (t : Thread) (va : DWord) : MigrHome :=
  match s.mapRanges (some t.loc.core) t.ctx t.priv .home [(va.toNat, 1)] with
  | .error .bad => .trap cBadAddress
  | .error .ue => .ue cMemUe
  | .error .held => .held
  | .error (.absent d) => .absent d
  | .error (.fault v k) => .fault v k
  | .error (.swap d y) => .swap d y
  | .ok ps =>
    let dies := s.diesInUse
    .ok ((s.homeDie (keyIn ps va.toNat)).getD
      (dies.getD ((Config.freeWord s.free).toNat % max 1 dies.length) 0))

/-- The thread leaves for a landing slot of a die, or for its home slot; its own write-combined lines leave the core. -/
def State.depart (s : State) (uid : Nat) (die : Option Nat) : State :=
  match s.thread? uid with
  | none => s
  | some t =>
    let due := s.clock + 180 * Config.ns + t.v.length * Config.ns / 2
    { s.flushOwn t with free := s.free + 1 }.modThread uid fun x => { x with hold := .migrating die due }

/-- MIGR in one lane (R207): it waits until its flags are set, then resolves its home and departs. -/
def State.migrLane (s : State) (c : Ctl) (a : Reg) (home : Bool) (t : Thread) : Except Fault State :=
  let go (die : Option Nat) : Except Fault State :=
    .ok ((s.modThread t.uid fun x => x.issued s.clock (t.nextPc c)).depart t.uid die)
  if isControl t.loc.core then .ok (s.trapLane t c cWorkState)
  else if s.isDet t then .ok (s.trapLane t c (cDet 8))
  else if home && t.home.isNone then .ok (s.passLane t c)
  else if !(List.range 12).all t.flagSet then .ok (s.holdAt t.uid (.retry .flags))
  else if home then go none
  else if !canonical (t.pair a) then .ok (s.trapLane t c cBadAddress)
  else
    match s.migrHome t (t.pair a) with
    | .ok die => go (some die)
    | .trap e => .ok (s.trapLane t c e)
    | .ue e => .ok (s.machineCheck [t.uid] e c.len.bytes t.pc)
    | .absent d => .error (.absentMemory d)
    | .fault v k => .ok ((s.issueMem t c).faultLane t c (.migr c a home) v k .home (t.pair a) 5 none)
    | .held => .ok (s.holdAt t.uid (.retry .edit))
    | .swap d y => .ok (((s.requestYealm d y).getD s).holdAt t.uid (.retry (.swap d y)))

/-- MIGR (R207). -/
def execMigr (c : Ctl) (a : Reg) (home : Bool) (s : State) : Host.Outcome State Fault Refusal :=
  s.memLanes c fun s t => s.migrLane c a home t

/-! Landing. -/

/-- A thread has memory operations or engine commands that have not completed (R82, R263). -/
def State.owes (s : State) (uid : Nat) : Bool :=
  (s.inflight.any fun a => a.uids.contains uid || a.also.contains uid) ||
  (s.mmu.log.any fun e => e.uid == uid || e.parts.any (·.1 == uid)) ||
  (s.launches.any fun l => l.deferred.any fun d => d.falls.any (·.1 == uid)) || !(s.drainsOf [uid]).isEmpty ||
  (s.mmu.waiters.any fun w => w.uids.contains uid) || (s.thatches.swaps.any (·.entry.uid == uid)) ||
  (s.cmds.any (·.uid == uid)) || (s.cores.any fun p => p.2.wcb.any fun l => l.owners.any (·.1 == uid))

/-- A thread keeps its slot: until it has exited and its memory operations and engine commands have completed (R82, R263). -/
def State.keepsSlot (s : State) (t : Thread) : Bool := t.status != .exited || s.owes t.uid

/-- v registers taken on a lane by the threads of placed workgroups that are resident there or whose home it is (R3, R261). -/
def State.laneRegs (s : State) (core quad lane : Nat) : Nat :=
  (s.threads.filter fun t =>
    let here (l : Loc) : Bool := l.core == core && l.quad == quad && l.lane == lane
    let placed := match s.wgOf t with | some g => g.state == .placed | none => false
    placed && ((here t.loc && (t.loc.slot != 16 || s.keepsSlot t)) || (match t.home with | some l => here l | none => false))).foldl
    (fun n t => n + t.v.length) 0

/-- The logical core on which a thread lands (R207, R247): the lowest-numbered other core of the die whose landing slot in
its lane is free and whose lane has room. -/
def State.landingCore (s : State) (t : Thread) (die : Nat) : Option Nat :=
  (List.range s.enabled.length).find? fun c =>
    s.physCore c / 84 == die && s.power.dieState.getD die 0 == 0 && c != t.loc.core && some c != t.home.map (·.core) &&
    !(s.threads.any fun x => s.keepsSlot x && x.loc == { core := c, quad := t.loc.quad, lane := t.loc.lane, slot := 16 }) &&
    s.laneRegs c t.loc.quad t.loc.lane + t.v.length ≤ 512

/-- A thread takes a new place; the words it owns follow its handle (R200), and its stall is elapsed (R26). -/
def State.arriveAtLoc (s : State) (t : Thread) (place : Loc) (home : Option Loc) : State :=
  (s.lockRename ((s.handleOf t.loc).toNat + 1) ((s.handleOf place).toNat + 1)).modThread t.uid fun x =>
    { x with loc := place, home := home, hold := .free, lastIssue := none, ready := none }

/-- MIGRATION_LAND (R207): a thread in transit lands, or waits on when no slot is free. -/
def execMigrationLand (uid : Nat) (s : State) : Host.Outcome State Fault Refusal :=
  match s.thread? uid with
  | none => .next s
  | some t =>
    match t.hold with
    | .migrating die due =>
      if s.clock < due then .next s
      else
        match die, t.home with
        | none, some h => .next (s.arriveAtLoc t h none)
        | none, none => .next s
        | some d, _ =>
          match s.landingCore t d with
          | some c => .next (s.arriveAtLoc t { t.loc with core := c, slot := 16 } (some (t.home.getD t.loc)))
          | none => .next s
    | _ => .next s

end Sys2Proof.Machine
end

