-- ==== Sys2Proof/Machine/Replay.lean ====
section
/-! DEFINITION. Replay of held accesses: operand-log entries (R276, R277), waiters of their own (R305, R309), reads that wait on
a swap fault (R315). -/

namespace Sys2Proof.Machine

/-- What trying a held access again comes to. -/
inductive Tried where
  | done
  | fault (va : DWord) (kind : Nat)
  | swap (desc yealm : Nat)
  /-- The access traps its threads. -/
  | trap (c : Cause)
  /-- A walk waits for the end of an edit of the interleave table (R296), during which nothing is replayed. -/
  | held
  deriving DecidableEq, Repr

/-- The kind of access of a log entry (R274, R307). -/
def entryKind (k : Nat) : AccKind := if k == 1 then .read else if k == 2 then .write else if k == 5 then .home else .atomic

/-- An atomic's or reduction's resolved access at replay or issue, in a thread of core `core` (R195, R209): deferred,
refused, or in flight. -/
def State.placeAtomic (s : State) (t : Thread) (a : Access) : State × Tried :=
  match a.op with
  | .atomic key op cas w64 u lanes d _ =>
    if s.spaceOf key == .host then (s, .trap cAtomicSpace)
    else if s.deferred? t key then
      match d, cas with
      | none, false =>
        if !s.deferRoom t lanes.length then (s, .trap (cDet 6))
        else ((lanes.foldl (fun s l =>
          match s.thread? l.uid with
          | some x => s.defer x (s.keyOf a.keys x) [(key, 0)] (some (op, w64, u, key, l.b)) a.persist [(l.uid, a.setf)] a.pc a.ilen a.nt
          | none => s) s), .done)
      | _, _ => (s, .trap (cDet 1))
    else
      let s1 := if a.rel then (a.uids.filterMap s.thread?).foldl (fun s x => s.flushOwn x) s else s
      (s1.enqueueAfterWc t.loc.core a, .done)
  | _ => (s.enqueueAfterWc t.loc.core a, .done)

/-- Resolves and places a held access that is no merged store. -/
def State.tryAccess (s : State) (t : Thread) (k : AccKind) (a : Access) : Except Fault (State × Tried) :=
  match s.mapRanges (some t.loc.core) t.ctx t.priv k (a.reads ++ a.writes) with
  | .error .bad => .ok (s, .trap cBadAddress)
  | .error .ue => .ok (s, .trap cMemUe)
  | .error .held => .ok (s, .held)
  | .error (.absent d) => .error (.absentMemory d)
  | .error (.fault va f) => .ok (s, .fault va f)
  | .error (.swap d y) => .ok (s, .swap d y)
  | .ok ps =>
    if s.foreignVault t ps then .ok (s, .trap (cDet 4))
    else
      let s1 := s.fillTlbs (some t.loc.core) t.ctx ps
      match a.op with
      | .store bs =>
        let lane := StoreLane.make t (bs.map fun b => (keyIn ps b.1, b.2)) ps
        if (lane.bytes.any fun b => s.deferred? t b.1) && !s.deferRoom t 1 then .ok (s, .trap (cDet 6))
        else .ok (s1.placeStore a.setf a.pc a.ilen { also := a.also, keys := a.keys, nt := a.nt, hint := a.hint } [lane], .done)
      | _ => .ok (s1.placeAtomic t (a.target ps))

/-- Resolves every part of a merged store; the first that cannot. -/
def State.mapStore (s : State) : List (Thread × List (Nat × Byte)) → Except Stop (List StoreLane)
  | [] => .ok []
  | l :: ls =>
    match s.mapBytes l.1 l.2 with
    | .error e => .error e
    | .ok r => (s.mapStore ls).map fun q => StoreLane.make l.1 r.1 r.2 :: q

/-- Tries an entry's access again (R276). -/
def State.tryEntry (s : State) (e : LogEntry) : Except Fault (State × Tried) :=
  match s.thread? e.uid with
  | none => .ok (s, .done)
  | some t =>
    match e.acc with
    | none =>
      match s.migrHome t e.addr with
      | .ok die => .ok (s.depart t.uid (some die) |>.flagFall [t.uid] e.setf, .done)
      | .trap c => .ok (s, .trap c)
      | .ue _ => .ok (s, .trap cMemUe)
      | .held => .ok (s, .held)
      | .absent d => .error (.absentMemory d)
      | .fault va f => .ok (s, .fault va f)
      | .swap d y => .ok (s, .swap d y)
    | some a =>
      if e.kind != 2 then
        s.tryAccess t (entryKind e.kind) (if 3 ≤ e.kind then { a with again := some (e.core, e.quad) } else a)
      else
        let lanes := e.parts.filterMap fun p => (s.thread? p.1).map fun x => (x, p.2)
        match s.mapStore lanes with
        | .error .bad => .ok (s, .trap cBadAddress)
        | .error .ue => .ok (s, .trap cMemUe)
        | .error .held => .ok (s, .held)
        | .error (.swap ..) => .ok (s, .trap cBadAddress)
        | .error (.absent d) => .error (.absentMemory d)
        | .error (.fault va f) => .ok (s, .fault va f)
        | .ok r =>
          let late := r.filter fun l => l.bytes.any fun b => s.deferred? l.thread b.1
          if late.any fun l => !s.deferRoom l.thread late.length then .ok (s, .trap (cDet 6))
          else .ok (s.placeStore e.setf e.pc e.ilen { rel := a.rel, weak := a.weak, wide := a.wide, wc := e.wc, keys := a.keys, nt := a.nt, hint := a.hint } r, .done)

/-- A thread traps at a held access's instruction (R277): it no longer counts the instruction (R218), and its flag keeps the count
until the TRET; a thread that is stopped already keeps its record, whose TRET removes this count too. -/
def Thread.heldTrap (t : Thread) (ids : DWord × Word) (setf : BitVec 4) (c : Cause) (ilen : Nat) (pc : DWord) : Thread :=
  let t1 := if t.status == .live then { t.trap ids c ilen pc with retired := t.retired - 1 } else t
  { t1 with status := match t1.status with
      | .stopped r p => .stopped { r with drop := if setf == 15 then r.drop else r.drop ++ [setf] } p
      | x => x }

/-- The record of a trap in a thread that another trap has stopped already, posted beside that trap's own (R277, log 134). -/
def State.secondTrap (s : State) (t : Thread) (c : Cause) (ilen : Nat) (pc : DWord) : List (Word × TrapRec) :=
  match t.status with
  | .stopped r _ => if r.cause == c.cause then [] else [(s.handleOf t.loc, t.record (s.trapIds t) c ilen pc)]
  | _ => []

/-- Threads trap at a held access's instruction, and count as arrived nowhere (R273, R277). -/
def State.heldTrap (s : State) (uids : List Nat) (setf : BitVec 4) (c : Cause) (ilen : Nat) (pc : DWord) : State :=
  if c == cMemUe then (s.flagFall uids setf).machineCheck uids c ilen pc true
  else
    { s with threads := s.threads.map fun t => if uids.contains t.uid then t.heldTrap (s.trapIds t) setf c ilen pc else t
             cmd := { s.cmd with trapWait := s.cmd.trapWait ++ (uids.filterMap s.thread?).flatMap fun t => s.secondTrap t c ilen pc }
             cores := s.cores.map fun p => (p.1, p.2.kUnarrive uids) }

/-- An entry, and those of the same merged store (R276). -/
def LogEntry.mates (e x : LogEntry) : Bool := x.id == e.id || (e.kind == 2 && x.kind == 2 && x.grp == e.grp)

/-- The entries of one merged store leave together; another entry leaves alone (R276). -/
def State.dropEntry (s : State) (e : LogEntry) : State :=
  { s with mmu := { s.mmu with log := s.mmu.log.filter fun x => !e.mates x } }

/-- The threads of an entry. -/
def LogEntry.threads (e : LogEntry) : List Nat := if e.kind == 2 then e.parts.map (·.1) else [e.uid]

/-- An entry's access is given up in the threads that have an entry of it which `hit` names: they trap, and their entries leave the log
(R277). A merged store that other entries still hold keeps the other threads' parts; with none left it is discarded, and the flags of
its other threads fall (log 117). -/
def State.entryTrap (s : State) (e : LogEntry) (c : Cause) (hit : LogEntry → Bool := fun _ => true) : State :=
  let grp := s.mmu.log.filter e.mates
  let own := if e.kind == 2 then (grp.filter hit).map (·.uid) else [e.uid]
  let left := grp.filter fun x => !own.contains x.uid
  let keep (x : LogEntry) : Option LogEntry :=
    if !e.mates x then some x else if own.contains x.uid then none
    else some { x with parts := x.parts.filter fun p => !own.contains p.1 }
  let s1 := if left.isEmpty then (s.dropEntry e).flagFall ((LogEntry.threads e).filter fun u => !own.contains u) e.setf
    else { s with mmu := { s.mmu with log := s.mmu.log.filterMap keep } }
  s1.heldTrap own e.setf c e.ilen e.pc

/-- An entry whose replay has placed accesses stays in the log until they have completed (R276). -/
def State.entryPlaced (s : State) (e : LogEntry) (ids : List Nat) : State :=
  if ids.isEmpty then s.dropEntry e
  else { s with mmu := { s.mmu with log := s.mmu.log.map fun x => if e.mates x then { x with acts := ids } else x } }

/-- A read waits on a swap fault, or traps when the window is shut (R315). -/
def State.waitSwap (s : State) (e : LogEntry) (desc yealm : Nat) : State :=
  let add (s : State) : State :=
    { s with thatches := { s.thatches with swaps := s.thatches.swaps ++ [{ desc := desc, yealm := yealm, entry := e }] } }
  match s.requestYealm desc yealm with
  | some s1 => add s1
  | none =>
    match s.thread? e.uid with
    | some t => if s.windowShut (s.lnumOf t) (s.wgIdxOf t) then s.heldTrap ([e.uid] ++ ((e.acc.map (·.also)).getD [])) e.setf cYealmWindow e.ilen e.pc
                else add s
    | none => s

/-- Replay of one log entry (R276): done, it leaves the log; faulting again, it stays with FCNT raised and a new record. -/
def State.replayEntry (s : State) (e : LogEntry) : Except Fault State :=
  (s.tryEntry e).map fun r =>
    match r.2 with
    | .done => r.1.entryPlaced e ((r.1.inflight.filter fun a => s.nextId ≤ a.id).map (·.id))
    | .held => r.1
    | .trap c => r.1.entryTrap e c
    | .swap d y => (r.1.dropEntry e).waitSwap e d y
    | .fault va k =>
      match r.1.thread? e.uid with
      | none => r.1
      | some t =>
        let q := r.1.newFault va t.ctx k (entryKind e.kind) 0 (r.1.handleOf t.loc) (r.1.lnumOf t)
        { q.2 with mmu := { q.2.mmu with log := q.2.mmu.log.map fun x =>
          if x.id == e.id then { x with frec := q.1, fcnt := min 0xFFFF (x.fcnt + 1) } else x } }

/-- Replay of several entries in order; an entry that left meanwhile is passed over. -/
def replayEntries : List Nat → State → Except Fault State
  | [], s => .ok s
  | id :: ids, s =>
    match s.mmu.log.find? (·.id == id) with
    | none => replayEntries ids s
    | some e =>
      match s.replayEntry e with
      | .error f => .error f
      | .ok s1 => replayEntries ids s1

/-- Replay of a waiter of its own (R130, R168, R309). -/
def State.replayWaiter (s : State) (w : Waiter) : Except Fault State :=
  match s.thread? w.uid with
  | none => .ok s
  | some t =>
    let k : AccKind := if w.load || w.flush then .read else .write
    let gone (s : State) : State := { s with mmu := { s.mmu with waiters := s.mmu.waiters.filter (·.id != w.id) } }
    (s.tryAccess t k w.acc).map fun r =>
      match r.2 with
      | .done => gone r.1
      | .held => r.1
      | .trap c => (gone r.1).heldTrap w.uids w.setf c w.ilen w.pc
      | .swap d y =>
        if w.flush then (gone r.1).flagFall w.uids w.setf
        else (gone r.1).waitSwap { id := w.id, grp := w.id, core := t.loc.core, quad := t.loc.quad, seq := 0, uid := w.uid, pc := w.pc
                                   ilen := w.ilen, addr := w.addr, kind := 1, setf := w.setf, fcnt := 0, frec := 0
                                   instr := .nop { len := .l64, stall := 1, wait := 0, setf := 15, g0 := { idx := 127, neg := false }
                                                   gcomb := .single, g1 := { idx := 0, neg := false }, chint := 0 }
                                   acc := some w.acc, wc := false, parts := [] } d y
      | .fault va f =>
        let q := r.1.newFault va t.ctx f k (if w.flush then 5 else 4) (r.1.handleOf t.loc) (r.1.lnumOf t)
        { q.2 with mmu := { q.2.mmu with waiters := q.2.mmu.waiters.map fun x => if x.id == w.id then { x with frec := q.1 } else x } }

/-- Replay of several waiters in order. -/
def replayWaiters : List Waiter → State → Except Fault State
  | [], s => .ok s
  | w :: ws, s =>
    match s.replayWaiter w with
    | .error f => .error f
    | .ok s1 => replayWaiters ws s1

/-- A read that waited on a swap fault is tried again (R315, R311); if it now faults it waits as R305 says. -/
def State.replaySwap (s : State) (w : SwapWait) : Except Fault State :=
  let s0 := { s with thatches := { s.thatches with swaps := s.thatches.swaps.filter fun x => x.entry.id != w.entry.id } }
  let e := w.entry
  (s0.tryEntry e).map fun r =>
    match r.2 with
    | .done => r.1
    | .held => { r.1 with thatches := { r.1.thatches with swaps := r.1.thatches.swaps ++ [w] } }
    | .trap c => r.1.heldTrap ([e.uid] ++ ((e.acc.map (·.also)).getD [])) e.setf c e.ilen e.pc
    | .swap d y => r.1.waitSwap e d y
    | .fault va k =>
      match r.1.thread? e.uid, e.acc with
      | some t, some a =>
        match a.op with
        | .dld .. =>
          r.1.addWaiter t va k .read 4
            { id := 0, uid := e.uid, uids := e.uid :: a.also, setf := e.setf, frec := 0, load := true, flush := false
              addr := e.addr, acc := a, pc := e.pc, ilen := e.ilen }
        | _ =>
          let q := r.1.newFault va t.ctx k .read 0 (r.1.handleOf t.loc) (r.1.lnumOf t)
          q.2.pushLog { e with seq := (q.2.core e.core).logSeq.getD e.quad 0, frec := q.1, fcnt := 1 }
      | _, _ => r.1

/-- The waits on a yealm are tried again, and its engine commands go on. -/
def replaySwaps : List SwapWait → State → Except Fault State
  | [], s => .ok s
  | w :: ws, s =>
    match s.replaySwap w with
    | .error f => .error f
    | .ok s1 => replaySwaps ws s1

/-- A peer's access to this package waits: for a fault record, for a yealm, or with neither for its home to serve it (R186, R296, R342,
R347, R360). -/
def State.remoteWait (s : State) (pkg : Nat) (r : RemoteReq) (frec : Option Nat) (swap : Option (Nat × Nat)) : State :=
  { s with nextId := s.nextId + 1
           cmd := { s.cmd with remote := s.cmd.remote ++ [{ id := s.nextId, pkg := pkg, req := r, frec := frec, swap := swap }] } }

/-- A peer's access to this package (R186, R401): performed in the peer context and answered on virtual lane 1 (R384), or held by a fault
record. -/
def State.serveRemote (s : State) (pkg : Nat) (r : RemoteReq) : Except Fault State :=
  if !s.laneOpen pkg 1 then .ok (s.remoteWait pkg r none none) else
  let out (o : Out) : State := { s with cmd := { s.cmd with outbox := s.cmd.outbox ++ [o] } }
  let k : AccKind := if r.put then .write else .read
  let n := if r.put then r.data.length else r.n
  match s.mapRanges none s.cmd.pctx r.priv k [(r.va.toNat, n)] with
  | .error (.absent d) => .error (.absentMemory d)
  | .error (.fault va f) =>
    let q := s.newFault va s.cmd.pctx f k 1 0 0
    .ok (q.2.remoteWait pkg r (some q.1) none)
  | .error .held => .ok (s.remoteWait pkg r none none)
  | .error (.swap d y) =>
    -- with no candidate, and no pin to wait for, the peer's command is cancelled (R315)
    if (s.requestYealm d y).isNone && s.windowShut 0 (2 ^ 64) then .ok (out (.remoteAck pkg false))
    else
    .ok (((s.requestYealm d y).getD s).remoteWait pkg r none (some (d, y)))
  | .error _ => .ok (out (.remoteAck pkg false))
  | .ok ps =>
    if !s.homeFree ((List.range n).map fun i => keyIn ps (r.va.toNat + i)) r.put (ps.any (·.persist)) then .ok (s.remoteWait pkg r none none)
    else if r.put then
      let bs := ((List.range n).zip r.data).map fun b => (keyIn ps (r.va.toNat + b.1), b.2)
      .ok ((out (.remoteAck pkg true)).putHome bs (ps.any (·.persist)))
    else
      let ks := (List.range n).map fun i => keyIn ps (r.va.toNat + i)
      if ks.any fun a => s.poisoned a 1 then .ok (out (.remoteAck pkg false))
      else .ok (out (.remoteData pkg (ks.map (memGet s.mem ·))))

/-- A peer's access that waits for its home alone would be served, or would stop. -/
def State.remoteReady (s : State) (w : RemoteWait) : Bool :=
  w.frec.isNone && w.swap.isNone && s.laneOpen w.pkg 1 &&
  match s.mapRanges none s.cmd.pctx w.req.priv (if w.req.put then .write else .read) [(w.req.va.toNat, if w.req.put then w.req.data.length else w.req.n)] with
  | .error .held => false
  | .error _ => true
  | .ok ps => s.homeFree ((List.range (if w.req.put then w.req.data.length else w.req.n)).map fun i => keyIn ps (w.req.va.toNat + i)) w.req.put
      (ps.any (·.persist))

/-- Serves again the peers' accesses that this selects (R186, R309, R315). -/
def serveAgain : List RemoteWait → State → Except Fault State
  | [], s => .ok s
  | w :: ws, s =>
    match { s with cmd := { s.cmd with remote := s.cmd.remote.filter (·.id != w.id) } }.serveRemote w.pkg w.req with
    | .error e => .error e
    | .ok s1 => serveAgain ws s1

/-- Threads held at a record read of a yealm, and engine commands that wait for it, go on. -/
def State.wakeSwap (s : State) (sel : Nat → Nat → Bool) : State :=
  { s with
    threads := s.threads.map fun t => match t.hold with
      | .retry (.swap d y) => if sel d y then { t with hold := .free } else t
      | _ => t
    cmds := s.cmds.map fun c => match c.swap with
      | some p => if sel p.1 p.2 then { c with swap := none } else c
      | none => c }

end Sys2Proof.Machine
end

