-- ==== Sys2Proof/Machine/Atomic.lean ====
section
/-! DEFINITION. Atomics and queue locks: ATOM, ATOMC, RED (R191 to R197), QLOCK, QTRY, QUNLK (R198 to R200), and ATOMIC_APPLY. -/

namespace Sys2Proof.Machine

/-! Atomics. -/

/-- The operands of an atomic, of one shape for ATOM, ATOMC and RED: `d` is absent in RED, `b` is ATOMC's compare and `sw`
its swap. -/
structure AtomArgs where
  d : Option Reg
  a : Reg
  b : Reg
  sw : Option (Option Reg)
  op : AOp
  w64 : Bool
  u : Bool
  ord : Ord4
  scope : Scope
  off : BitVec 16
  deriving DecidableEq, Repr

/-- Bytes of an atomic's access. -/
def AtomArgs.size (x : AtomArgs) : Nat := if x.w64 then 8 else 4
/-- It acquires (R196). -/
def AtomArgs.acq (x : AtomArgs) : Bool := x.ord == .acq || x.ord == .acqrel
/-- It releases (R196). -/
def AtomArgs.rel (x : AtomArgs) : Bool := x.ord == .rel || x.ord == .acqrel

/-- The tag of the operands (R53, R192: the default tag of class 0x6 is INT, for FADD too). -/
def AtomArgs.tag (x : AtomArgs) (t : Thread) : Except Cause Byte :=
  let tags := (t.reg x.b).tag :: (match x.sw with | some c => [(t.optReg c).tag] | none => [])
  if x.op == .fadd then resolveTags tagINT (· == tagF32) tags else resolveTags tagINT okINT tags

/-- Adds a lane's request to the one of this issue that names the same address, or makes a new one (R194). `old` are the
accesses in flight before the issue. -/
def State.joinAtomic (s : State) (core : Nat) (old : List Nat) (a : Access) : State :=
  match a.op with
  | .atomic key op cas w64 u lanes d tag =>
    match s.inflight.find? fun y => !old.contains y.id && (match y.op with | .atomic k .. => k == key | _ => false) with
    | some y =>
      let ls := match y.op with | .atomic _ _ _ _ _ ls _ _ => ls | _ => []
      let s1 := { s with inflight := s.inflight.filter (·.id != y.id) }
      s1.enqueueAfterWc core { a with uids := y.uids ++ a.uids, op := .atomic key op cas w64 u (ls ++ lanes) d tag }
    | none => s.enqueueAfterWc core a
  | _ => s.enqueueAfterWc core a

/-- Why a lane's resolved atomic may not issue (R195, R209). -/
def State.atomicCause (s : State) (t : Thread) (a : Access) : Option Cause :=
  match a.op with
  | .atomic key _ cas _ _ lanes d _ =>
    if s.spaceOf key == .host then some cAtomicSpace
    else if s.deferred? t key then
      if d.isSome || cas then some (cDet 1)
      else if s.deferRoom t lanes.length then none
      else some (cDet 6)
    else none
  | _ => none

/-- A lane's resolved atomic: deferred, or sent to its home with the other lanes of its address. -/
def State.sendAtomic (s : State) (t : Thread) (old : List Nat) (a : Access) : State :=
  match a.op with
  | .atomic key _ _ _ _ _ _ _ =>
    if s.deferred? t key then (s.placeAtomic t a).1
    else (if a.rel then s.flushOwn t else s).joinAtomic t.loc.core old a
  | _ => s

/-- One lane of an atomic (R192, R194, R195, R197). -/
def State.atomLane (s : State) (c : Ctl) (i : Instr) (x : AtomArgs) (old : List Nat) (t : Thread) : Except Fault State :=
  let va := t.pair x.a + x.off.signExtend 64
  if !canonical va then .ok (s.trapLane t c cBadAddress)
  else if va.toNat % x.size != 0 then .ok (s.trapLane t c cMemAlign)
  else
    match x.tag t with
    | .error e => .ok (s.trapLane t c e)
    | .ok tag =>
      let lane : ALane := { uid := t.uid, lane := t.loc.lane, b := t.opnd x.w64 x.b
                            c := match x.sw with | some r => t.opnd x.w64 (r.getD 255) | none => 0 }
      let op : AccOp := .atomic va.toNat x.op x.sw.isSome x.w64 x.u [lane] (x.d.map (·.toNat)) tag
      s.accessLane t c i .atomic (if x.d.isSome then 3 else 4) va
        { Access.blank [t.uid] op c.setf t.pc c.len.bytes with
          reads := [(va.toNat, x.size)], writes := [(va.toNat, x.size)], acq := x.acq, rel := x.rel
          wide := scopeWide [t] x.scope || !x.rel, keys := [(t.uid, s.deferKey t)] }
        (fun s1 a => s1.sendAtomic t old a) (s.atomicCause t)

/-- ATOM (R191 to R197). -/
def execAtom (c : Ctl) (x : Atom) (s : State) : Host.Outcome State Fault Refusal :=
  let y : AtomArgs := { d := some x.d, a := x.a, b := x.b, sw := none, op := x.op, w64 := x.w64, u := x.u, ord := x.ord
                        scope := x.scope, off := x.off }
  s.memLanes c fun s1 t => s1.atomLane c (.atom c x) y (s.inflight.map (·.id)) t

/-- ATOMC (R191 to R197). -/
def execAtomc (c : Ctl) (x : AtomC) (s : State) : Host.Outcome State Fault Refusal :=
  let y : AtomArgs := { d := some x.d, a := x.a, b := x.b, sw := some x.c, op := .add, w64 := x.w64, u := false, ord := x.ord
                        scope := x.scope, off := 0 }
  s.memLanes c fun s1 t => s1.atomLane c (.atomc c x) y (s.inflight.map (·.id)) t

/-- RED (R191 to R197). -/
def execRed (c : Ctl) (x : Atom) (s : State) : Host.Outcome State Fault Refusal :=
  let y : AtomArgs := { d := none, a := x.a, b := x.b, sw := none, op := x.op, w64 := x.w64, u := x.u, ord := x.ord
                        scope := x.scope, off := x.off }
  s.memLanes c fun s1 t => s1.atomLane c (.red c x) y (s.inflight.map (·.id)) t

/-! Queue locks (R198 to R200). -/

/-- One lane of a lock instruction: its word is checked, and `go` acts on its DPA. A word whose page faults holds the thread
at the instruction (R305, log 24). -/
def State.lockLane (s : State) (t : Thread) (c : Ctl) (x : LockArgs) (go : State → Nat → State) : Except Fault State :=
  let va := t.pair x.a + x.off.signExtend 64
  let v := va.toNat
  if s.isDet t then .ok (s.trapLane t c (cDet 7))
  else if !canonical va then .ok (s.trapLane t c cBadAddress)
  else if v % 8 != 0 then .ok (s.trapLane t c cMemAlign)
  else if !s.inHeap t.ctx v && (s.thatchAt v).isSome then .ok (s.trapLane t c cAtomicSpace)
  else
    match s.xlate (some t.loc.core) t.ctx t.priv .atomic va with
    | .bad => .ok (s.trapLane t c cBadAddress)
    | .vault _ => .ok (s.trapLane t c cAtomicSpace)
    | .swap .. => .ok (s.trapLane t c cAtomicSpace)
    | .absent a => .error (.absentMemory a)
    | .held => .ok (s.holdAt t.uid (.retry .edit))
    | .ue => .ok (s.machineCheck [t.uid] cMemUe c.len.bytes t.pc)
    | .fault k =>
      let r := s.newFault va t.ctx k .atomic 0 (s.handleOf t.loc) (s.lnumOf t)
      .ok (r.2.holdAt t.uid (.retry (.fault r.1)))
    | .dpa a _ _ _ =>
      if s.spaceOf a == .host then .ok (s.trapLane t c cAtomicSpace)
      else if s.editHolds [a] then .ok (s.holdAt t.uid (.retry .edit))
      else if s.poisoned a 8 then .ok (s.machineCheck [t.uid] cMemUe c.len.bytes t.pc)
      else .ok (go (s.fillTlb (some t.loc.core) t.ctx va) a)

/-- Threads queued at every lock word. -/
def State.lockQueued (s : State) : Nat := s.locks.foldl (fun n l => n + l.2.length) 0

/-- A thread's QUNLK of a word has not performed. -/
def State.unlocking (s : State) (uid dpa : Nat) : Bool :=
  s.inflight.any fun a => a.uids.contains uid && match a.op with | .unlock d _ => d == dpa | _ => false

/-- QLOCK (R199). -/
def execQlock (c : Ctl) (x : LockArgs) (s : State) : Host.Outcome State Fault Refusal :=
  s.memLanes c fun s t => s.lockLane t c x fun s a =>
    if s.ownsLock t a && !s.unlocking t.uid a then s.trapLane t c cLockState
    else if 65536 ≤ s.lockQueued then s.holdAt t.uid (.retry .lockRoom)
    else
      ((s.modThread t.uid fun y => { y with hold := .lock a, setf := c.setf, ilen := c.len.bytes }).lockPut a
        (s.lockOwner a) (s.lockQueue a ++ [t.uid])).lockGrant a

/-- QTRY (R199): lanes of one word go to its home together. -/
def execQtry (c : Ctl) (x : LockArgs) (s : State) : Host.Outcome State Fault Refusal :=
  s.memLanes c fun s1 t => s1.lockLane t c x fun s2 a =>
    let s3 := s2.issueMem t c
    match s3.inflight.find? fun y => !(s.inflight.any (·.id == y.id)) && (match y.op with | .qtry d _ => d == a | _ => false) with
    | some y => { s3 with inflight := s3.inflight.map fun z => if z.id == y.id then { z with uids := z.uids ++ [t.uid] } else z }
    | none => s3.enqueue { Access.blank [t.uid] (.qtry a x.p) c.setf t.pc c.len.bytes with
        reads := [(a, 8)], writes := [(a, 8)], acq := true }

/-- QUNLK (R199). -/
def execQunlk (c : Ctl) (x : LockArgs) (s : State) : Host.Outcome State Fault Refusal :=
  s.memLanes c fun s t => s.lockLane t c x fun s a =>
    if !s.ownsLock t a || s.unlocking t.uid a then s.trapLane t c cLockState
    else ((s.flushOwn t).issueMem t c).enqueue { Access.blank [t.uid] (.unlock a (s.ownerCode t)) c.setf t.pc c.len.bytes with
      writes := [(a, 8)], rel := true, wide := x.scope == .thread || scopeWide [t] x.scope }

/-- QTRY at the home, its lanes in order. -/
def State.performQtry (s : State) (a : Access) (dpa : Nat) (p : Reg) : State :=
  (a.uids.foldl (fun s u =>
    match s.thread? u with
    | none => s
    | some t =>
      let free := s.lockOwner dpa == 0 && (s.lockQueue dpa).isEmpty && t.status != .exited
      (if free then s.lockPut dpa (s.ownerCode t) [] else s).writePred u p free) s).finish a

/-- ATOMIC_APPLY (R193 to R196, R199): a request is applied at its home in lane order. -/
def execAtomicApply (id : Nat) (s : State) : Host.Outcome State Fault Refusal :=
  match s.ready? id with
  | none => .next s
  | some a =>
    match a.op with
    | .atomic .. => .next (s.performAtomic a)
    | .qtry dpa p => .next (s.performQtry a dpa p)
    | _ => .next s

end Sys2Proof.Machine
end

