-- ==== Sys2Proof/Machine/Control.lean ====
section
/-! DEFINITION. Control instructions: branches, EXIT, YIELD, FUSE, WAITF, SLEEP, TRAP (R80 to R86), predicates (R87). -/

namespace Sys2Proof.Machine

/-- Whether a thread may branch to an address (R81, R298, R299, R312). -/
def State.targetOk (s : State) (ctx : Nat) (va : DWord) : Bool :=
  canonical va && !(Config.vwin ≤ va.toNat && va.toNat < Config.vwinEnd) && !s.inHeap ctx va.toNat &&
    (s.thatchAt va.toNat).isNone

/-- A branch to va, or the trap BAD_TARGET with no register changed (R81). -/
def State.branchTo (s : State) (t : Thread) (va : DWord) (regs : List (Nat × VReg)) : LaneRes :=
  if s.targetOk t.ctx va then .ok { pc := some va, regs := regs } else .error cBadTarget

/-- NOP in every thread of the issue. -/
def State.nopAll (s : State) (c : Ctl) : State := s.issueAll c 0 fun _ => .ok {}

def execNop (c : Ctl) (s : State) : Host.Outcome State Fault Refusal := .next (s.nopAll c)

def execBra (c : Ctl) (off : Word) (s : State) : Host.Outcome State Fault Refusal :=
  .next (s.issueAll c 0 fun t => s.branchTo t (t.pc + off.signExtend 64) [])

def execBrx (c : Ctl) (a : Reg) (s : State) : Host.Outcome State Fault Refusal :=
  .next (s.issueAll c 0 fun t => s.branchTo t (t.pair a) [])

def execCall (c : Ctl) (d : Reg) (off : Word) (s : State) : Host.Outcome State Fault Refusal :=
  .next (s.issueAll c 2 fun t => s.branchTo t (t.pc + off.signExtend 64) (wr2 d (t.nextPc c) tagRAW))

def execRet (c : Ctl) (a : Reg) (s : State) : Host.Outcome State Fault Refusal :=
  .next (s.issueAll c 0 fun t => s.branchTo t (t.pair a) [])

def execExit (c : Ctl) (s : State) : Host.Outcome State Fault Refusal :=
  .next ((s.nopAll c).endThreads (s.onUids c))

/-- YIELD in these threads (R83, R270). -/
def Thread.yieldNow (t : Thread) : Thread := { t with yielded := true, gave := true }

def execYield (c : Ctl) (s : State) : Host.Outcome State Fault Refusal :=
  .next ((s.nopAll c).modThreads (s.onUids c) (·.yieldNow))

/-- The threads of t's workgroup that are held by the FUSE at t's program counter. -/
def State.fuseMates (s : State) (t : Thread) : List Nat :=
  ((s.threads.filter fun x => x.pc == t.pc && (match x.hold with | .fuse _ => true | _ => false) &&
    (s.waveOf x).map (fun w => (w.lnum, w.wg)) == (s.waveOf t).map (fun w => (w.lnum, w.wg)))).map (·.uid)

/-- FUSE (R83, R271): two threads of a workgroup that meet pass; one alone is held HOLD ac, 64 when HOLD is 0. -/
def execFuse (c : Ctl) (hold : Byte) (s : State) : Host.Outcome State Fault Refusal :=
  let on := s.onUids c
  match on.head?.bind s.thread? with
  | none => .next (s.nopAll c)
  | some t =>
    if s.isDet t then .next (s.nopAll c)
    else
      let mates := s.fuseMates t
      if mates.isEmpty && on.length == 1 then
        let til := s.clock + (if hold == 0 then 64 else hold.toNat) * Config.ac
        .next ((s.nopAll c).modThread t.uid fun _ => { t with hold := .fuse til, setf := c.setf, ilen := c.len.bytes })
      else .next ((s.nopAll c).passAll (mates.filter fun u => !on.contains u))

/-- Every store, reduction, PFLUSH and engine command a thread issued with SETF 15 has completed (R84). -/
def State.memQuiet (s : State) (uid : Nat) : Bool :=
  !(s.inflight.any fun a => a.uids.contains uid && a.setf == 15 &&
      match a.op with | .store _ => true | .atomic (d := d) .. => d.isNone | .pflush _ => true | _ => false) &&
  !(s.cmds.any fun c => c.uid == uid && c.setf == 15) &&
  !(s.mmu.log.any fun e => (e.uid == uid || e.parts.any (·.1 == uid)) && e.setf == 15 && (e.kind == 2 || e.kind == 4)) &&
  !(s.mmu.waiters.any fun w => w.uids.contains uid && w.flush && w.setf == 15) &&
  !(s.cores.any fun p => p.2.wcb.any fun l => l.owners.any fun o => o.1 == uid && o.2 == 15) &&
  !((s.drainsOf [uid]).any (·.setf == 15)) &&
  !(s.launches.any fun l => l.deferred.any fun d => d.falls.contains (uid, 15))

/-- WAITF's condition for a thread (R84). -/
def State.waitfOk (s : State) (t : Thread) (mem : Bool) : Bool :=
  (List.range 12).all t.flagSet && (!mem || s.memQuiet t.uid)

/-- WAITF (R84, R162): the thread is held until its condition is met. -/
def execWaitf (c : Ctl) (mem : Bool) (s : State) : Host.Outcome State Fault Refusal :=
  let on := s.onUids c
  let s1 := if mem then (on.filterMap s.thread?).foldl (fun s t => s.flushOwn t) s else s
  let stay := on.filter fun u => match s1.thread? u with | some t => !s1.waitfOk t mem | none => false
  let s2 := s1.nopAll c
  .next { s2 with threads := s2.threads.map fun t =>
    if stay.contains t.uid then
      match s.thread? t.uid with
      | some o => { o with hold := .waitf mem, setf := c.setf, ilen := c.len.bytes }
      | none => t
    else t }

def execSleep (c : Ctl) (n : BitVec 24) (s : State) : Host.Outcome State Fault Refusal :=
  .next ((s.nopAll c).modThreads (s.onUids c) fun t =>
    if s.isDet t then t.yieldNow
    else if n == 0 then t
    else { t with hold := .asleep (s.clock + n.toNat * Config.ac) })

def execTrap (c : Ctl) (code : Byte) (s : State) : Host.Outcome State Fault Refusal :=
  .next (s.issueAll c 0 fun _ => .error (cSoftware code))

/-! Predicates (R87). -/

/-- A predicate operation over pa xor NA and pb xor NB. -/
def predOp (f : Bool → Bool → Bool) (x : PredArgs) (t : Thread) : LaneRes :=
  .ok { preds := wrp x.d (f (t.pred x.a.toNat != x.na) (t.pred x.b.toNat != x.nb)) }

def execPand (c : Ctl) (x : PredArgs) (s : State) : Host.Outcome State Fault Refusal :=
  .next (s.issueAll c 2 (predOp (· && ·) x))

def execPor (c : Ctl) (x : PredArgs) (s : State) : Host.Outcome State Fault Refusal :=
  .next (s.issueAll c 2 (predOp (· || ·) x))

def execPxor (c : Ctl) (x : PredArgs) (s : State) : Host.Outcome State Fault Refusal :=
  .next (s.issueAll c 2 (predOp (· != ·) x))

def execPnot (c : Ctl) (d a : Reg) (s : State) : Host.Outcome State Fault Refusal :=
  .next (s.issueAll c 2 fun t => .ok { preds := wrp d (!t.pred a.toNat) })

def execPmov (c : Ctl) (d a : Reg) (na : Bool) (s : State) : Host.Outcome State Fault Refusal :=
  .next (s.issueAll c 2 fun t => .ok { preds := wrp d (t.pred a.toNat != na) })

end Sys2Proof.Machine
end

