-- ==== Sys2Proof/Machine/Float.lean ====
section
/-! DEFINITION. Floating-point instructions of class 0x2 (R94 to R100). Each element is computed exactly and rounded once. -/

namespace Sys2Proof.Machine

/-- Per-element operation on two patterns. -/
abbrev FElem := (f : FFmt) → (p q theta : Nat) → Nat × Word

/-- A two-source floating-point operation (R94, R95): tags resolve to F32, F16x2 or BF16x2. -/
def Thread.floatBin (t : Thread) (d a : Reg) (b : Src) (cr : Option Reg) (g : FElem) : LaneRes :=
  (resolveTags tagF32 okFloat ((t.reg a).tag :: t.srcTags b)).map fun tag =>
    let xs := elems (elemWidth tag false) (elemCount tag false) (t.opnd false a)
    outElems d tag false (((xs.zip (t.srcFloat b tag)).zipIdx).map fun ((p, q), k) =>
      g (fmtOf tag) p q (thetaAt (t.optVal cr) k))

/-- A one-source floating-point operation (R95, R98, R99). -/
def Thread.floatUn (t : Thread) (d a : Reg) (cr : Option Reg) (g : (f : FFmt) → (p theta : Nat) → Nat × Word) : LaneRes :=
  (resolveTags tagF32 okFloat [(t.reg a).tag]).map fun tag =>
    let xs := elems (elemWidth tag false) (elemCount tag false) (t.opnd false a)
    outElems d tag false (xs.zipIdx.map fun (p, k) => g (fmtOf tag) p (thetaAt (t.optVal cr) k))

/-- A rounded exact value with the conditions that formed it. -/
def FFmt.finish (f : FFmt) (x : XVal × Word) (rm : Rm) (theta : Nat) : Nat × Word :=
  ((f.round x.1 rm theta).1, (f.round x.1 rm theta).2 ||| x.2)

/-- FADD and FSUB per element (R94). -/
def faddElem (neg : Bool) (rm : Rm) : FElem := fun f p q theta =>
  f.finish ((f.decode p).add (if neg then (f.decode q).neg else f.decode q) (rm == .rdn)) rm theta

/-- FMUL per element (R94). -/
def fmulElem (rm : Rm) : FElem := fun f p q theta => f.finish ((f.decode p).mul (f.decode q)) rm theta

def execFadd (c : Ctl) (x : FBin) (s : State) : Host.Outcome State Fault Refusal :=
  .next (s.issueAll c 4 fun t => t.floatBin x.d x.a x.b x.c (faddElem false x.rm))

def execFsub (c : Ctl) (x : FBin) (s : State) : Host.Outcome State Fault Refusal :=
  .next (s.issueAll c 4 fun t => t.floatBin x.d x.a x.b x.c (faddElem true x.rm))

def execFmul (c : Ctl) (x : FBin) (s : State) : Host.Outcome State Fault Refusal :=
  .next (s.issueAll c 4 fun t => t.floatBin x.d x.a x.b x.c (fmulElem x.rm))

/-- An exact sum of terms (R94, R100). Conditions of the terms are kept. -/
def sumAll (ts : List (XVal × Word)) (rdn : Bool) : XVal × Word :=
  match ts with
  | [] => (.num false 0 1, 0)
  | t :: ts => ts.foldl (fun a b => (((a.1.add b.1 rdn).1), a.2 ||| b.2 ||| (a.1.add b.1 rdn).2)) t

/-- A fused product and sum (R94): INV of the product stands even where c is a quiet NaN. -/
def ffmaElem (rm : Rm) (f : FFmt) (p q r theta : Nat) : Nat × Word :=
  f.finish (sumAll [(f.decode p).mul (f.decode q), (f.decode r, 0)] (rm == .rdn)) rm theta

/-- FFMA (R78, R94): three checked operands, an absent addend being vz; SRCD is the coordinate register. -/
def Thread.ffma (t : Thread) (x : FTern) : LaneRes :=
  (resolveTags tagF32 okFloat [(t.reg x.a).tag, (t.reg x.b).tag, (t.optReg x.c).tag]).map fun tag =>
    let es (r : Reg) := elems (elemWidth tag false) (elemCount tag false) (t.opnd false r)
    outElems x.d tag false ((((es x.a).zip (es x.b)).zip (es (x.c.getD 255))).zipIdx.map fun (((p, q), r), k) =>
      ffmaElem x.rm (fmtOf tag) p q r (thetaAt (t.optVal x.x) k))

def execFfma (c : Ctl) (x : FTern) (s : State) : Host.Outcome State Fault Refusal :=
  .next (s.issueAll c 4 fun t => t.ffma x)

def execFmin (c : Ctl) (x : FSel) (s : State) : Host.Outcome State Fault Refusal :=
  .next (s.issueAll c 2 fun t => t.floatBin x.d x.a x.b none fun f p q _ => f.minmax false p q)

def execFmax (c : Ctl) (x : FSel) (s : State) : Host.Outcome State Fault Refusal :=
  .next (s.issueAll c 2 fun t => t.floatBin x.d x.a x.b none fun f p q _ => f.minmax true p q)

def execFabs (c : Ctl) (x : Un) (s : State) : Host.Outcome State Fault Refusal :=
  .next (s.issueAll c 2 fun t => t.floatUn x.d x.a none fun f p _ => (p % 2 ^ (f.ebits + f.fbits), 0))

def execFneg (c : Ctl) (x : Un) (s : State) : Host.Outcome State Fault Refusal :=
  .next (s.issueAll c 2 fun t => t.floatUn x.d x.a none fun f p _ =>
    ((p + 2 ^ (f.ebits + f.fbits)) % 2 ^ f.width, 0))

/-- FSETP (R96, R400): E1 selects element 1 of a packed tag; with F32 it is refused at issue. -/
def Thread.fsetp (t : Thread) (x : FSetp) : LaneRes :=
  match resolveTags tagF32 okFloat ((t.reg x.a).tag :: t.srcTags x.b) with
  | .error e => .error e
  | .ok tag =>
    if x.e1 && tag == tagF32 then .error cIllegalModifier
    else
      let k := if x.e1 then 1 else 0
      let p := (elems (elemWidth tag false) (elemCount tag false) (t.opnd false x.a)).getD k 0
      let q := (t.srcFloat x.b tag).getD k 0
      let r := fcondHolds x.cond ((fmtOf tag).decode p) ((fmtOf tag).decode q)
      .ok { preds := wrp x.p r.1, sticky := r.2 }

def execFsetp (c : Ctl) (x : FSetp) (s : State) : Host.Outcome State Fault Refusal :=
  .next (s.issueAll c 2 fun t => t.fsetp x)

def execFclass (c : Ctl) (x : Un) (s : State) : Host.Outcome State Fault Refusal :=
  .next (s.issueAll c 2 fun t =>
    (resolveTags tagF32 okFloat [(t.reg x.a).tag]).map fun tag =>
      let xs := elems (elemWidth tag false) (elemCount tag false) (t.opnd false x.a)
      outElems x.d (if tag == tagF32 then tagINT else tagI16) false (xs.map fun p => ((fmtOf tag).classMask p, 0)))

/-- FRND per element (R98): the integral values bracket the magnitude. -/
def frndElem (rm : Rm) (f : FFmt) (p theta : Nat) : Nat × Word :=
  match f.decode p with
  | .nan sg => (f.nanPat, if sg then stINV else 0)
  | .inf _ => (p, 0)
  | .num neg n d =>
    if n == 0 then (p, 0)
    else
      match pickMag (magOf n d) 0 rm neg theta with
      | some (m, inexact) => ((f.round (.num neg m 1) .rne 0).1, if inexact then stINX else 0)
      | none => (p, 0)

def execFrnd (c : Ctl) (x : FUn) (s : State) : Host.Outcome State Fault Refusal :=
  .next (s.issueAll c 4 fun t => t.floatUn x.d x.a x.c (frndElem x.rm))

/-- A scale beyond every format's range acts as the nearer of plus and minus 1024 (R98). -/
def clampScale (n : Int) : Int := max (-1024) (min 1024 n)

/-- FSCALE (R98): vb accepts INT and RAW and is not checked against va. -/
def Thread.fscale (t : Thread) (x : FBin) : LaneRes :=
  match resolveTags tagINT okINT (t.srcTags x.b) with
  | .error e => .error e
  | .ok _ => t.floatUn x.d x.a x.c fun f p theta =>
      f.round ((f.decode p).shift (clampScale (t.srcWord x.b).toInt)) x.rm theta

def execFscale (c : Ctl) (x : FBin) (s : State) : Host.Outcome State Fault Refusal :=
  .next (s.issueAll c 4 fun t => t.fscale x)

/-- The special-function unit is occupied for one ac per 16 lanes of the group's slices (R79). -/
def State.sfuTaken (s : State) : State :=
  match s.issue with
  | none => s
  | some g =>
    let slices := ((s.group.map fun t => t.loc.lane / 4).eraseDups).length
    s.modCore g.core fun k => { k with sfuBusy := k.sfuBusy.set g.quad (s.clock + (slices + 3) / 4 * Config.ac) }

/-- A special-function instruction (R99). -/
def State.issueSpecial (s : State) (c : Ctl) (x : FUn) (g : SFun) : State :=
  s.sfuTaken.issueAll c 12 fun t => t.floatUn x.d x.a x.c fun f p theta => f.sfun g (f.decode p) x.rm theta p

def execFrcp (c : Ctl) (x : FUn) (s : State) : Host.Outcome State Fault Refusal := .next (s.issueSpecial c x .rcp)
def execFrsq (c : Ctl) (x : FUn) (s : State) : Host.Outcome State Fault Refusal := .next (s.issueSpecial c x .rsq)
def execFsqrt (c : Ctl) (x : FUn) (s : State) : Host.Outcome State Fault Refusal := .next (s.issueSpecial c x .sqrt)
def execFexp2 (c : Ctl) (x : FUn) (s : State) : Host.Outcome State Fault Refusal := .next (s.issueSpecial c x .exp2)
def execFlog2 (c : Ctl) (x : FUn) (s : State) : Host.Outcome State Fault Refusal := .next (s.issueSpecial c x .log2)
def execFsin (c : Ctl) (x : FUn) (s : State) : Host.Outcome State Fault Refusal := .next (s.issueSpecial c x .sin)
def execFcos (c : Ctl) (x : FUn) (s : State) : Host.Outcome State Fault Refusal := .next (s.issueSpecial c x .cos)
def execFtanh (c : Ctl) (x : FUn) (s : State) : Host.Outcome State Fault Refusal := .next (s.issueSpecial c x .tanh)
def execFsigm (c : Ctl) (x : FUn) (s : State) : Host.Outcome State Fault Refusal := .next (s.issueSpecial c x .sigm)

/-- FDOT2 and FDOT4 (R100): va and vb hold equal tags of the right kind, vc F32 or RAW; the sum is exact. -/
def Thread.fdot (t : Thread) (x : FTern) (four : Bool) : LaneRes :=
  let ok (tag : Byte) : Bool := if four then tag == tagE4M3 || tag == tagE5M2 else tag == tagF16 || tag == tagBF16
  -- with two RAW operands the default of class 0x2 is F32, which is not accepted
  match resolveTags tagF32 ok [(t.reg x.a).tag, (t.reg x.b).tag],
        resolveTags tagF32 (· == tagF32) [(t.optReg x.c).tag] with
  | .ok tag, .ok _ =>
    let es (r : Reg) := elems (elemWidth tag false) (elemCount tag false) (t.opnd false r)
    let f := fmtOf tag
    let ps := ((es x.a).zip (es x.b)).map fun (p, q) => (f.decode p).mul (f.decode q)
    let r := fmtF32.finish (sumAll (ps ++ [(fmtF32.decode (t.optVal x.c).toNat, 0)]) (x.rm == .rdn)) x.rm
      (thetaAt (t.optVal x.x) 0)
    .ok { regs := wr1 x.d (BitVec.ofNat 32 r.1) tagF32, sticky := r.2 }
  | .error e, _ => .error e
  | _, .error e => .error e

def execFdot2 (c : Ctl) (x : FTern) (s : State) : Host.Outcome State Fault Refusal :=
  .next (s.issueAll c 6 fun t => t.fdot x false)

def execFdot4 (c : Ctl) (x : FTern) (s : State) : Host.Outcome State Fault Refusal :=
  .next (s.issueAll c 6 fun t => t.fdot x true)

end Sys2Proof.Machine
end

