-- ==== Sys2Proof/Machine/Erasure.lean ====
section
/-! DEFINITION. Block copies of memory, and the erasure code of stripes and thatches (R349). -/

namespace Sys2Proof.Machine

/-- n bytes from src replace those at dst. -/
def memMove (m : List Host.Cell) (dst src n : Nat) : List Host.Cell :=
  let moved := (m.filter fun c => src ≤ c.1 && c.1 < src + n).map fun c => (dst + (c.1 - src), c.2)
  memSets (m.filter fun c => !(dst ≤ c.1 && c.1 < dst + n)) moved

/-- n bytes from a key read as the default. -/
def memClear (m : List Host.Cell) (a n : Nat) : List Host.Cell := m.filter fun c => !(a ≤ c.1 && c.1 < a + n)

/-- n bytes from a key. -/
def memBytes (m : List Host.Cell) (a n : Nat) : List Byte := (List.range n).map fun i => memGet m (a + i)

/-! GF(2^8) with polynomial 0x11D (R349). -/

/-- Doubling. -/
def gfDouble (x : Nat) : Nat := if 128 ≤ x then (2 * x) % 256 ^^^ 0x1D else 2 * x

/-- The product over the low n bits of y. -/
def gfMulN (x y : Nat) : Nat → Nat → Nat
  | 0, acc => acc
  | n + 1, acc => gfMulN (gfDouble x) (y / 2) n (if y % 2 == 1 then acc ^^^ x else acc)

/-- The product. -/
def gfMul (x y : Nat) : Nat := gfMulN (x % 256) (y % 256) 8 0

/-- g^i, g = 2. -/
def gfPow : Nat → Nat
  | 0 => 1
  | n + 1 => gfDouble (gfPow n)

/-- x to the n. -/
def gfExp (x : Nat) : Nat → Nat
  | 0 => 1
  | n + 1 => gfMul x (gfExp x n)

/-- The inverse of a non-zero element. -/
def gfInv (x : Nat) : Nat := gfExp x 254

/-- P of one byte position (R349). -/
def parityP (ds : List Nat) : Nat := ds.foldl (· ^^^ ·) 0

/-- Q of one byte position (R349). -/
def parityQ (ds : List Nat) : Nat := ((List.range ds.length).zip ds).foldl (fun a p => a ^^^ gfMul (gfPow p.1) p.2) 0

/-- The data bytes of one position from the survivors: data with none for lost ones, P, Q. None when too many are lost. -/
def recoverByte (ds : List (Option Nat)) (p q : Option Nat) : Option (List Nat) :=
  let known := ds.map (·.getD 0)
  let lost := (List.range ds.length).filter fun i => (ds.getD i none).isNone
  match lost, p, q with
  | [], _, _ => some known
  | [a], some p, _ => some (known.set a (p ^^^ parityP known))
  | [a], none, some q => some (known.set a (gfMul (q ^^^ parityQ known) (gfInv (gfPow a))))
  | [a, b], some p, some q =>
    let p1 := p ^^^ parityP known
    let q1 := q ^^^ parityQ known
    let db := gfMul (q1 ^^^ gfMul (gfPow a) p1) (gfInv (gfPow a ^^^ gfPow b))
    some ((known.set b db).set a (p1 ^^^ db))
  | _, _, _ => none

end Sys2Proof.Machine
end

