-- ==== Sys2Proof/Machine/Link.lean ====
section
/-! DEFINITION. The Deltum links: LNKHINT (R185), flits (R383, R384, R403), wavelengths and their requests (R385 to R388), and
the events of both. -/

namespace Sys2Proof.Machine

/-! Wavelengths (R385 to R388). -/

/-- Wavelengths whose request is not active wake no more, and stay parked (R388); one that has retrained takes its requested state, as it
would have at the end of its retraining (R387). -/
def Link.dropWoke (l : Link) : Link :=
  let off := l.woke.filter fun w => l.wants w != 0
  { l with woke := l.woke.filter (fun w => l.wants w == 0)
           state := (List.range 8).map fun w => if off.contains w && l.st w == 3 then l.wants w else l.st w }

/-- A REQ value: 3 keeps a wavelength's earlier request (R385, R388). -/
def Link.request (l : Link) (req : BitVec 16) : Link :=
  { l with req := (List.range 8).map fun w =>
      let v := req.toNat / 4 ^ w % 4
      if v == 3 then l.req.getD w 0 else v }.dropWoke

/-- STATE and REQ as PWR.LNKCTL reads (R385). -/
def Link.ctl (l : Link) : Word :=
  BitVec.ofNat 32 ((List.range 8).foldl (fun a w => a + l.req.getD w 0 * 4 ^ w + l.st w * 4 ^ (w + 8)) 0)

/-- PWR.LNKSTAT (R385). -/
def Link.stat (l : Link) : Word :=
  let nact := if l.inService then ((List.range 8).filter fun w => l.st w == 0).length else 0
  BitVec.ofNat 32 ((if l.inService then 2 ^ 24 else 0) + nact * 2 ^ 16 + min 0xFFFF l.queue.length)

/-- LNKCTL_REQ (R386, R388). -/
def execLnkctlReq (link : Nat) (req : BitVec 16) (s : State) : Host.Outcome State Fault Refusal :=
  .next (if link < 36 then s.modLink link (·.request req) else s)

/-- LNKHINT (R185, R386). -/
def execLnkhint (c : Ctl) (a : Reg) (s : State) : Host.Outcome State Fault Refusal :=
  let ts := participants c s.group
  .next (ts.foldl (fun s t =>
    let pkg := (t.val a).toNat
    if s.cmd.npkg ≤ pkg || pkg == s.cmd.rank then s
    else (s.hintLinks pkg).foldl (fun s l => s.modLink l (·.request 0)) s) (s.issueAll c 2 fun _ => .ok {}))

/-- WAVELENGTH_WAKE_DONE (R386, R387): the wavelength awaits the next WIDTH flit. -/
def execWavelengthWakeDone (link w : Nat) (s : State) : Host.Outcome State Fault Refusal :=
  .next (s.modLink link fun l =>
    if w < 8 && l.waking w && l.st w != 3 && !l.woke.contains w then { l with woke := l.woke ++ [w] } else l)

/-- The active set after a WIDTH flit: it is never empty (R386). -/
def Link.newActive (l : Link) : List Nat :=
  let want := (List.range 8).filter fun w => l.wants w == 0 && (l.st w == 0 || l.woke.contains w)
  if want.isEmpty then (List.range 8).filter fun w => l.st w == 0 else want

/-- BER_CHECK (R387): a wavelength whose bit error rate 2^-rateExp passes 2^-EXP retrains. -/
def execBerCheck (link w : Nat) (rateExp : Nat) (s : State) : Host.Outcome State Fault Refusal :=
  .next (if rateExp < s.power.berthr then
    s.modLink link fun l => if w < 8 && l.st w == 0 then { l with state := l.state.set w 3, woke := l.woke.filter (· != w) } else l
    else s)

/-- WAVELENGTH_RETRAIN_DONE (R387): it returns as a waking wavelength does, or takes its requested state. -/
def execWavelengthRetrainDone (link w : Nat) (s : State) : Host.Outcome State Fault Refusal :=
  .next (s.modLink link fun l =>
    if !(w < 8 && l.st w == 3) then l
    else if l.req.getD w 0 == 0 then { l with woke := if l.woke.contains w then l.woke else l.woke ++ [w] }
    else { l with state := l.state.set w (l.req.getD w 0) })

/-! Flits (R383, R384, R403). -/

/-- The wavelengths of a mask, in increasing number. -/
def waves (mask : Nat) : List Nat := (List.range 8).filter fun w => mask.testBit w

/-- The wavelength of each of a flit's eight beats: beat b on a(b mod w) of the active set (R383). -/
def Link.beats (l : Link) : List Nat :=
  let a := waves l.announced
  (List.range 8).map fun b => a.getD (b % max 1 a.length) 0

/-- One bit of the reflected CRC-32. -/
def crcBit (c : Nat) : Nat := if c % 2 == 1 then (c / 2) ^^^ 0xEDB88320 else c / 2

/-- CRC-32 with the IEEE 802.3 polynomial, in its usual form (R383, log 26). -/
def crc32 (bs : List Byte) : Nat :=
  (bs.foldl (fun c b => crcBit (crcBit (crcBit (crcBit (crcBit (crcBit (crcBit (crcBit (c ^^^ b.toNat))))))))) 0xFFFFFFFF) ^^^ 0xFFFFFFFF

/-- The code's k-th generator root (R383): a power of 2, from a first one that the rule does not name (log 26). -/
def fecRoot (k : Nat) : Nat := gfPow (Config.fecFirst + k)

/-- The generator polynomial of four roots, its coefficients from the highest. -/
def fecGen : List Nat :=
  (List.range 4).foldl (fun g k => List.zipWith (· ^^^ ·) (g ++ [0]) (0 :: g.map (gfMul (fecRoot k)))) [1]

/-- The parity symbols of bytes 0 to 75 (R383): the rest of the message times x^4 by the generator, byte 0 the highest coefficient. -/
def fecParity (bs : List Byte) : List Byte :=
  (bs.foldl (fun (r : List Nat) b =>
    let q := b.toNat ^^^ r.headD 0
    List.zipWith (· ^^^ ·) (r.drop 1 ++ [0]) ((fecGen.drop 1).map (gfMul q))) [0, 0, 0, 0]).map (BitVec.ofNat 8 ·)

/-- The syndromes of a word, one a root. -/
def fecSyndromes (f : List Byte) : List Nat :=
  (List.range 4).map fun k => f.foldl (fun a b => gfMul a (fecRoot k) ^^^ b.toNat) 0

/-- The errors, by position and value, at two positions of an 80-byte word that give these syndromes, if any do; the two the same for one
error. -/
def fecErrors (s : List Nat) (p q : Nat) : Option (List (Nat × Nat)) :=
  let x (p : Nat) : Nat := gfPow (79 - p)
  let y (k : Nat) : Nat := s.getD k 0
  let val (e p : Nat) : Nat := gfMul e (gfInv (gfExp (x p) Config.fecFirst))
  if p == q then
    (if y 1 == gfMul (y 0) (x p) && y 2 == gfMul (y 1) (x p) && y 3 == gfMul (y 2) (x p) then some [(p, val (y 0) p)] else none)
  else
    let e := gfMul (y 1 ^^^ gfMul (y 0) (x q)) (gfInv (x p ^^^ x q))
    let d := y 0 ^^^ e
    let sum (k : Nat) : Nat := gfMul e (gfExp (x p) k) ^^^ gfMul d (gfExp (x q) k)
    if y 2 == sum 2 && y 3 == sum 3 then some [(p, val e p), (q, val d q)] else none

/-- A received flit after correction of up to two byte errors (R383); as it came where no such errors explain it. -/
def fecCorrect (f : List Byte) : List Byte :=
  let s := fecSyndromes f
  if s.all (· == 0) then f
  else
    match (List.range 80).findSome? fun p => (List.range (p + 1)).findSome? fun q => fecErrors s p q with
    | some es => es.foldl (fun f e => f.set e.1 (f.getD e.1 0 ^^^ BitVec.ofNat 8 e.2)) f
    | none => f

/-- A flit (R383). -/
def buildFlit (payload : List Byte) (dst src vl : Nat) (kind : BitVec 5) (seq ack : Nat) : List Byte :=
  let h := ((payload ++ List.replicate 64 0).take 64) ++ bytesOf 2 dst ++ bytesOf 2 src ++
    [BitVec.ofNat 8 (vl * 32 + kind.toNat), BitVec.ofNat 8 seq, BitVec.ofNat 8 ack, 0]
  let b := h ++ bytesOf 4 (crc32 h)
  b ++ fecParity b

/-- Destination package of a flit. -/
def flitDst (f : List Byte) : Nat := natOfBytes ((f.drop 64).take 2)
/-- Source package of a flit. -/
def flitSrc (f : List Byte) : Nat := natOfBytes ((f.drop 66).take 2)
/-- Virtual lane of a flit. -/
def flitVl (f : List Byte) : Nat := (f.getD 68 0).toNat / 32
/-- SEQ of a flit. -/
def flitSeq (f : List Byte) : Nat := (f.getD 69 0).toNat
/-- The CRC holds. -/
def flitOk (f : List Byte) : Bool := f.length == 80 && crc32 (f.take 72) == natOfBytes ((f.drop 72).take 4)

/-- The package at the far end of a link, by the peer table (R382, R383); the own one where the table names none. -/
def State.farEnd (s : State) (link : Nat) : Nat := (s.cmd.links.getD link none).getD s.cmd.rank

/-- A flit waits to be sent on a link. SEQ, ACK, CRC and parity are set when it is sent. -/
def Link.send (l : Link) (payload : List Byte) (dst src vl : Nat) (kind : BitVec 5) : Link :=
  { l with queue := l.queue ++ [buildFlit payload dst src vl kind 0 0] }

/-- A link-control flit to the far end (R384). -/
def Link.sendControl (l : Link) (far rank which arg : Nat) : Link :=
  let k := Config.controlFlit which arg
  l.send k.2 far rank 4 k.1

/-- Flits of a lane held in the receive buffer. -/
def Link.held (l : Link) (vl : Nat) : Nat := (l.inbuf.filter fun f => flitVl f == vl).length

/-- The set and the SEQ that a WIDTH flit names (R387), if it is one. -/
def widthOf (f : List Byte) : Option (Nat × Nat) :=
  ((List.range 65536).find? fun a =>
    let k := Config.controlFlit 2 a
    (f.getD 68 0).setWidth 5 == k.1 && f.take 64 == (k.2 ++ List.replicate 64 0).take 64).map fun a => (a % 256, a / 256)

/-- The flit with this SEQ has come: a set announced for it is the receiver's from it on (R387). -/
def Link.switchAt (l : Link) (seq : Nat) : Link :=
  match l.rxNext with
  | some (m, n) => if n == seq then { l with rxSet := m, rxNext := none } else l
  | none => l

/-- A flit for this package is delivered: its request is served. A WIDTH flit announces the far end's new set (R387); the other link-control
flits act by their own events. -/
def State.deliver (s : State) (link : Nat) (f : List Byte) (req : Option RemoteReq) : Except Fault State :=
  if flitVl f == 4 then
    .ok (match widthOf f with | some x => s.modLink link fun l => { l with rxNext := some x } | none => s)
  else if flitDst f != s.cmd.rank then
    .ok (s.modLink link fun l =>
      let l1 := { l with inbuf := l.inbuf ++ [f] }
      -- PAUSE at 384 flits of a lane
      if l1.held (flitVl f) == 384 && !l1.pausedOut.contains (flitVl f) then
        { l1.sendControl (s.farEnd link) s.cmd.rank 0 (flitVl f) with pausedOut := l1.pausedOut ++ [flitVl f] }
      else l1)
  else
    match req with
    | some r => if flitVl f == 0 then s.serveRemote (flitSrc f) r else .ok s
    | none => .ok s

/-- FLIT_RECEIVE (R383, R384): error correction, CRC, link order; a flit that fails is asked for again, by one REPLAY flit at a time
(log 130). -/
def execFlitReceive (link : Nat) (flit : List Byte) (req : Option RemoteReq) (s : State) : Host.Outcome State Fault Refusal :=
  let f := if flitOk flit then flit else fecCorrect flit
  let l := s.link link
  if !l.inService then .next s
  else if !flitOk f then
    .next (s.modLink link fun l =>
      let l1 := { l with crcErrors := l.crcErrors + 1 }
      let asked := l1.sendControl (s.farEnd link) s.cmd.rank 3 l1.recvSeq
      if l1.replayWait && l1.queue.any (asked.queue.getLast? == some ·) then l1 else { asked with replayWait := true })
  else if flitSeq f != l.recvSeq then .next s
  else
    let s1 := s.modLink link fun l => { l.switchAt (flitSeq f) with recvSeq := (l.recvSeq + 1) % 256, replayWait := false }
    if 5 ≤ flitVl f then .next (s1.modLink link fun l => { l with crcErrors := l.crcErrors + 1 })
    else outcomeOf (s1.deliver link f req)

/-- FLIT_FORWARD (R403): the oldest buffered flit goes on to its first-hop or direct link; RESUME at 256. -/
def execFlitForward (link : Nat) (s : State) : Host.Outcome State Fault Refusal :=
  match (s.link link).inbuf with
  | [] => .next s
  | f :: rest =>
    match s.hintLinks (flitDst f) with
    | [] => .next s
    | o :: _ =>
      let s1 := s.modLink link fun l =>
        let l1 := { l with inbuf := rest }
        if l1.held (flitVl f) == 256 && l1.pausedOut.contains (flitVl f) then
          { l1.sendControl (s.farEnd link) s.cmd.rank 1 (flitVl f) with pausedOut := l1.pausedOut.filter (· != flitVl f) }
        else l1
      .next (s1.modLink o fun l => { l with queue := l.queue ++ [f] })

/-- PAUSE (R384): the far end asks for a lane to stop; lane 4 never stops. -/
def execPause (link vl : Nat) (s : State) : Host.Outcome State Fault Refusal :=
  .next (if vl < 4 then s.modLink link fun l => { l with pausedIn := if l.pausedIn.contains vl then l.pausedIn else l.pausedIn ++ [vl] }
    else s)

/-- RESUME_FLIT (R384). -/
def execResumeFlit (link vl : Nat) (s : State) : Host.Outcome State Fault Refusal :=
  .next (s.modLink link fun l => { l with pausedIn := l.pausedIn.filter (· != vl) })

/-- REPLAY_FLIT (R384): the kept flits from a SEQ on are sent again, in order. -/
def execReplayFlit (link : Nat) (seq : Nat) (s : State) : Host.Outcome State Fault Refusal :=
  let again := (s.link link).recent.dropWhile fun f => flitSeq f != seq
  .next { s with cmd := { s.cmd with outbox := s.cmd.outbox ++ again.map fun f => .flit link f (s.link link).beats } }

/-- This package's own traffic gives a link a flit (R384): a direct link to the destination, or the first hop to it (R403). -/
def State.flitQueue (s : State) (link dst vl : Nat) (payload : List Byte) : State :=
  if link < 36 && vl < 4 && (s.hintLinks dst).contains link then s.modLink link fun l => l.send payload dst s.cmd.rank vl (Config.flitKind vl payload) else s

/-- A flit leaves on a link (R383, R384): it takes the link's SEQ and the last SEQ received in order, and is kept. -/
def State.transmit (s : State) (link : Nat) (payload : List Byte) (dst src vl : Nat) (kind : BitVec 5) : State :=
  let l := s.link link
  let g := buildFlit payload dst src vl kind l.sendSeq ((l.recvSeq + 255) % 256)
  let s1 := s.modLink link fun l => { l with sendSeq := (l.sendSeq + 1) % 256
                                             recent := (l.recent ++ [g]).drop (l.recent.length + 1 - 128) }
  { s1 with cmd := { s1.cmd with outbox := s1.cmd.outbox ++ [.flit link g l.beats] } }

/-- The next flit of a lane is sent (R384). -/
def State.flitSend (s : State) (link vl : Nat) : State :=
  let l := s.link link
  if !l.inService || l.pausedIn.contains vl then s
  else
    match l.queue.find? fun f => flitVl f == vl with
    | none => s
    | some f =>
      (s.modLink link fun l => { l with queue := l.queue.erase f }).transmit link (f.take 64) (flitDst f) (flitSrc f) vl
        ((f.getD 68 0).setWidth 5)

/-- The active set of a link, as a mask. -/
def Link.mask (l : Link) : Nat := ((List.range 8).filter fun w => l.st w == 0).foldl (fun a w => a + 2 ^ w) 0

/-- WIDTH_FLIT (R386 to R388): wavelengths join and leave; a link in service announces the new set in a flit. -/
def execWidthFlit (link : Nat) (s : State) : Host.Outcome State Fault Refusal :=
  let l := s.link link
  let a := l.newActive
  let l1 : Link := { l with state := (List.range 8).map fun w =>
                              if a.contains w then 0 else if l.st w == 3 || l.wants w == 0 then l.st w else l.wants w
                            woke := l.woke.filter fun w => !a.contains w }
  -- the flit names the set and the SEQ of the first flit after it
  let k := Config.controlFlit 2 (l1.mask + 256 * ((l.sendSeq + 1) % 256))
  let s1 := if l.inService && l1.mask != l.announced then s.transmit link k.2 (s.farEnd link) s.cmd.rank 4 k.1 else s
  .next (s1.modLink link fun x => { x with state := l1.state, woke := l1.woke, announced := l1.mask })

end Sys2Proof.Machine
end

