-- ==== Sys2Proof/Machine/Fetch.lean ====
section
/-! DEFINITION. The fetch of an instruction (R17, R18, R33, R305), and which threads run (R273, R280, R284). -/

namespace Sys2Proof.Machine

/-- The common fields of an instruction. -/
def ctlOf (i : Instr) : Option Ctl := i.shape.map (·.ctl)

/-! Fetch. -/

/-- What the decoder needs to know of a thread (R33 to R35). -/
def State.decodeCtx (s : State) (t : Thread) : DecodeCtx :=
  let g := s.wgOf t
  { nvreg := (g.map (·.hdr.nvreg)).getD 0, npred := (g.map (·.hdr.npred)).getD 0
    role := ((s.waveOf t).map (·.role)).getD 0, control := isControl t.loc.core, priv := t.priv }

/-- What fetching at a thread's program counter comes to: the instruction, with the DPA of its block; a decode trap, with the
first parcel as it was read; a translation fault; a trap or machine check of the fetch itself. -/
inductive Fetched where
  | ok (i : Instr) (block : Nat)
  | trap (e : DecodeErr) (ilen block : Nat) (first : Word := 0)
  | fault (kind : Nat)
  | bad (c : Cause)
  | ue
  /-- The read of HBM waits for the end of an edit of the interleave table (R296). -/
  | held
  deriving DecidableEq, Repr

/-- Bytes of the instruction that starts with this byte, for the record of a decode trap (R215). -/
def ilenOf (b : Byte) : Nat := match Len.dec (b.setWidth 2) with | some l => l.bytes | none => 0

/-- The 32 bytes of an instruction block: as the core's instruction cache holds them, else as memory does (R18). Only an issue, or
a trap of one, brings a block into the cache: the fetch unit reads no block ahead (log 108). -/
def State.blockBytes (s : State) (core block : Nat) : List Byte :=
  match (s.core core).l1i.find? (·.1 == block) with
  | some l => l.2
  | none => (List.range 32).map fun i => memGet s.mem (32 * block + i)

/-- What the fetch of a thread's next instruction comes to (R17, R33, R299, R312). A program counter that has run into a
range where no branch may go traps as the branch would (log 20). -/
def State.look (s : State) (t : Thread) : Fetched :=
  let pc := t.pc
  if pc.extractLsb' 0 2 != 0 then .trap .fetchAlign 0 0
  else if !s.targetOk t.ctx pc then .bad cBadTarget
  else
    match s.xlate (some t.loc.core) t.ctx t.priv .fetch pc with
    | .dpa a _ _ _ =>
      let block := a / 32
      let cached := (s.core t.loc.core).l1i.any (·.1 == block)
      if !cached && s.editHolds [a] then .held
      else if s.poisoned (32 * block) 32 && !cached then .ue
      else
        let bs := (s.blockBytes t.loc.core block).drop (a % 32)
        match decode (s.decodeCtx t) pc bs with
        | .ok r => .ok r.1 block
        | .error e =>
          let n := match e with
            | .fetchAlign => 0
            | .illegalLength => 0
            | .fetchCross => 0
            | .cut => 0
            | _ => ilenOf (bs.headD 0)
          .trap e n block (parcel (bs.getD 0 0) (bs.getD 1 0) (bs.getD 2 0) (bs.getD 3 0))
    | .fault k => .fault k
    | .ue => .ue
    | .held => .held
    | _ => .bad cBadTarget

/-- The block and its translation are kept by the core (R18, R304), whose instruction cache has 2,048 blocks of 32 bytes (R2);
the one kept longest leaves a full cache (log 108). -/
def State.keepBlock (s : State) (t : Thread) (block : Nat) : State :=
  let s1 := s.fillTlb (some t.loc.core) t.ctx t.pc
  if (s1.core t.loc.core).l1i.any (·.1 == block) then s1
  else s1.modCore t.loc.core fun k => { k with l1i := (block, s.blockBytes t.loc.core block) :: k.l1i.take 2047 }

/-- The fetch of an issue group: the instruction and the state after the fetch, or the state in which its threads have trapped
or are held. -/
def State.fetch (s : State) (g : Issue) : Except State (Instr × State) :=
  let s0 := { s with issue := none }
  match g.uids.head?.bind s.thread? with
  | none => .error s0
  | some t =>
    match s.look t with
    | .ok i block => .ok (i, s.keepBlock t block)
    | .trap e n block _ =>
      .error ((if e == .fetchAlign then s0 else s0.keepBlock t block).trapAll g.uids { cause := DecodeErr.cause e } n)
    | .bad c => .error (s0.trapAll g.uids c 0)
    | .ue => .error (s0.machineCheck g.uids cMemUe 0 t.pc)
    | .held => .error s0
    | .fault k =>
      .error (g.uids.foldl (fun s u =>
        match s.thread? u with
        | none => s
        | some x =>
          let r := s.newFault x.pc x.ctx k .fetch 3 (s.handleOf x.loc) (s.lnumOf x)
          r.2.holdAt u (.retry (.fault r.1))) s0)

/-- A thread's next instruction, if its bytes decode. -/
def State.peek (s : State) (t : Thread) : Option Instr :=
  match s.look t with
  | .ok i _ => some i
  | _ => none

/-- The threads of a placed workgroup that is neither halted nor being saved, flushed or ended by a machine check run (R273,
R280, R284, R147). -/
def State.runs (s : State) (t : Thread) : Bool :=
  t.status == .live &&
  (match s.wgOf t with
   | some g => g.state == .placed && !g.halted && !g.mcheck && (match g.stopping with | some (k, _) => k == 1 | none => true)
   | none => false)

end Sys2Proof.Machine
end

