-- ==== Sys2Proof/Machine/Matrix.lean ====
section
/-! DEFINITION. Matrix instructions (R133 to R155): KSIGN, KCLR, MMA, MMAS, MZERO, MDRAIN, MCHK, MGET, MPUT, MSTAT, ERRINJ, and
the engine's events CONVERGENCE_COMPLETE, MATRIX_COMMAND_START, MATRIX_RECOMPUTE, MATRIX_ACCUMULATE. -/

namespace Sys2Proof.Machine

/-! Accumulators. -/

/-- The place of element (i, j) of accumulator m. -/
def accKey (m i j : Nat) : Nat := m * 4096 + i * 64 + j

/-- Element (i, j) of accumulator m; one never written is +0.0 (R50). -/
def CoreSt.accGet (k : CoreSt) (m i j : Nat) : Word := ((k.acc.find? (·.1 == accKey m i j)).map (·.2)).getD 0

/-- Writes elements of accumulator m: place in it (64 i + j) and value. -/
def CoreSt.accPut (k : CoreSt) (m : Nat) (ws : List (Nat × Word)) : CoreSt :=
  { k with acc := (k.acc.filter fun a => !(a.1 / 4096 == m && ws.any fun w => w.1 == a.1 % 4096)) ++
      (ws.filter (·.2 != 0)).map fun w => (m * 4096 + w.1, w.2) }

/-- The status word of an accumulator without PEND (R135). -/
def MStat.bits (x : MStat) : Word :=
  let b (v : Bool) (i : Nat) : Nat := if v then 2 ^ i else 0
  BitVec.ofNat 32 (b x.fail 31 + b x.inv 27 + b x.ovf 26 + b x.unf 25 + b x.inx 24 + x.retry * 2 ^ 16 + x.corr * 2 ^ 8)

/-- A cleared status word. -/
def MStat.clear : MStat := { fail := false, inv := false, ovf := false, unf := false, inx := false, retry := 0, corr := 0 }

/-- A status word with the conditions of an engine operation (R135). -/
def MStat.with (x : MStat) (st : Word) : MStat :=
  { x with inv := x.inv || st &&& stINV != 0, ovf := x.ovf || st &&& stOVF != 0, unf := x.unf || st &&& stUNF != 0
           inx := x.inx || st &&& stINX != 0 }

/-- The status word of accumulator m. -/
def CoreSt.stat (k : CoreSt) (m : Nat) : MStat := k.mstat.getD m MStat.clear

/-- What the engine executes, oldest first. -/
def CoreSt.executing (k : CoreSt) : List MExec := k.mland ++ k.mexec.toList

/-- The commands on accumulator m that are queued or executing, oldest first (R135). -/
def CoreSt.cmdsOf (k : CoreSt) (m : Nat) : List MCmd :=
  (k.executing.map (·.cmd) ++ k.mqueue).filter fun c => c.acc == m && match c.kind with | .chk _ => false | _ => true

/-- How many they are (R135). -/
def CoreSt.pendOf (k : CoreSt) (m : Nat) : Nat := (k.cmdsOf m).length

/-- Their ids. -/
def CoreSt.idsOf (k : CoreSt) (m : Nat) : List Nat := (k.cmdsOf m).map (·.id)

/-! Ownership and membership (R133, R138, R139). -/

/-- Whether the thread's workgroup holds the matrix engine of its home core (R133). -/
def State.holdsEngine (s : State) (t : Thread) : Bool :=
  match s.waveOf t with
  | some w => (s.core w.core).owner == some (w.lnum, w.wg)
  | none => false

/-- The members of a register change (R138). The check of one that a removal completes runs from its last arrival (R144). -/
def CoreSt.kChange (k : CoreSt) (uid r : Nat) (join : Bool) : CoreSt :=
  { k with k := k.k.modify r fun x =>
      if join then { x with members := if x.members.contains uid then x.members else x.members ++ [uid] }
      else { x with members := x.members.filter (· != uid), arrived := x.arrived.filter (· != uid) } }

/-- KSIGN or KCLR in one lane (R133, R137 to R139): the register is written 2 ac after issue. -/
def State.kLane (s : State) (c : Ctl) (r : Reg) (join : Bool) (t : Thread) : State :=
  if !t.guard c then s.modThread t.uid (·.skip s.clock c)
  else if !s.holdsEngine t then s.trapLane t c cMatrixOwner
  else if t.home.isSome then s.trapLane t c cMigratedSync
  else if ((s.core t.loc.core).k.getD r.toNat { members := [], arrived := [] }).complete then s.holdAt t.uid (.retry (.kbusy r.toNat))
  else s.modThread t.uid fun x =>
    let y := (x.issued s.clock (t.nextPc c)).flagAdd c.setf
    { y with pend := y.pend ++ [{ due := s.clock + 2 * Config.ac, regs := [], preds := []
                                  flag := if c.setf == 15 then none else some c.setf.toNat, ksig := some (r.toNat, join) }] }

/-- KSIGN (R138). -/
def execKsign (c : Ctl) (k : Reg) (s : State) : Host.Outcome State Fault Refusal :=
  .next (s.group.foldl (fun s t => s.kLane c k true t) s).issueDone

/-- KCLR (R138). -/
def execKclr (c : Ctl) (k : Reg) (s : State) : Host.Outcome State Fault Refusal :=
  .next (s.group.foldl (fun s t => s.kLane c k false t) s).issueDone

/-! MMA and MMAS (R140 to R149). -/

/-- Arrival of a group's threads at a convergence register (R137, R139, R144). A thread that is no member traps with
MATRIX_OPERAND (log 12). -/
def State.mmaArrive (s : State) (c : Ctl) (k : Nat) (t : Thread) : State :=
  let r := (s.core t.loc.core).k.getD k { members := [], arrived := [] }
  let stop (e : Cause) : State := if t.guard c then s.trapLane t c e else s.modThread t.uid (·.skip s.clock c)
  if !s.holdsEngine t then stop cMatrixOwner
  else if t.home.isSome then stop cMigratedSync
  else if !r.members.contains t.uid then stop cMatrixOperand
  else if r.complete then s.holdAt t.uid (.retry (.kbusy k))
  else
    (s.modThread t.uid fun x => { x with hold := .converge k, setf := c.setf, ilen := c.len.bytes }).modCore t.loc.core fun q =>
      { q with k := q.k.modify k fun x => { x with arrived := x.arrived ++ [t.uid], since := s.clock } }

/-- The arrived members trap; each stands at the instruction (R144). -/
def State.mmaTrap (s : State) (c : Ctl) (e : Cause) (uids : List Nat) : Host.Outcome State Fault Refusal :=
  .next (s.trapAll uids e c.len.bytes)

/-- The operands of a pass that are not registers of each lane: mB, the coordinate's registers, the A bitmap's offset. -/
structure MmaArgs where
  d : Reg
  a : Reg
  b : Reg
  k : Nat
  mb : Nat
  c : Option Reg
  abm : Option Nat
  e : Option Reg
  deriving DecidableEq, Repr

/-- Column of a lane (R143). -/
def mmaCol (t : Thread) : Nat := 16 * t.loc.quad + t.loc.lane % 16

/-- Mantissa i of a lane's fragment (R143), masked by its bitmap (R149). -/
def fragElem (x : MmaArgs) (t : Thread) (i : Nat) : Int :=
  let e := 32 / x.mb
  let v := if x.b == 255 then 0 else (t.v.getD (x.b.toNat + i / e) VReg.zero).val.toNat
  let on : Bool := match x.abm with | some _ => (t.optVal x.e).getLsbD i | none => true
  if on then signExt x.mb (v / 2 ^ (x.mb * (i % e)) % 2 ^ x.mb) else 0

/-- The B tile by columns, and the columns' exponents (R143). -/
def bTile (x : MmaArgs) (ps : List Thread) : List (List Int) × List Nat :=
  ((List.range 64).map fun j =>
    let col := ps.filter fun t => mmaCol t == j
    (List.range 4).flatMap fun g =>
      match col.find? fun t => t.loc.lane / 16 == g with
      | some t => (List.range 8).map (fragElem x t)
      | none => List.replicate 8 0,
   (List.range 64).map fun j => ((ps.find? fun t => mmaCol t == j).map fun t => (t.reg x.b).scale.toNat).getD 0)

/-- Whether bytes lie in a core's vault window. -/
def inVault (core a n : Nat) : Bool := vaultBase core ≤ a && a + n ≤ vaultBase core + Config.vaultBytes

/-- The conditions of R143 and R149 on the record and the coordinate. -/
def mmaRecOk (x : MmaArgs) (core : Nat) (va coordReg : Nat) (r : TRec) : Bool :=
  let row0 := coordReg % 2 ^ 16
  let kb := coordReg / 2 ^ 16
  let last := (r.linear [r.dims.getD 0 0 - 1, r.dims.getD 1 0 - 1]).toNat
  r.isBfp && r.ndim == 2 && inVault core va 64 && 32 * kb + 32 ≤ r.dims.getD 0 0 && row0 + 64 ≤ r.dims.getD 1 0 &&
  inVault core r.base.toNat ((r.m * (last + 1) + 7) / 8) && inVault core r.sbase.toNat (last / 32 + 1) &&
  (match x.abm with | some o => 64 * o + 256 ≤ Config.vaultBytes | none => true)

/-- The members within each quadrant belong to one wave, and the participants of each column agree on its exponent (R144). -/
def mmaLanesOk (x : MmaArgs) (members ps : List Thread) : Bool :=
  members.all (fun t => members.all fun u => t.loc.quad != u.loc.quad || t.wid == u.wid) &&
  ps.all fun t => ps.all fun u => mmaCol t != mmaCol u || (t.reg x.b).scale == (u.reg x.b).scale

/-- Bit 32 i + k of the A bitmap. -/
def aBit (m : List Host.Cell) (core : Nat) (x : MmaArgs) (i k : Nat) : Bool :=
  match x.abm with
  | none => true
  | some o => (memGet m (vaultBase core + 64 * o + (32 * i + k) / 8)).getLsbD (k % 8)

/-- The A tile by rows, and the rows' exponents (R143). -/
def aTile (m : List Host.Cell) (core : Nat) (x : MmaArgs) (r : TRec) (coordReg : Nat) : List (List Int) × List Nat :=
  let row0 := coordReg % 2 ^ 16
  let kb := coordReg / 2 ^ 16
  let rd (va : DWord) : Byte := memGet m va.toNat
  ((List.range 64).map fun i => (List.range 32).map fun k =>
     if aBit m core x i k then signExt r.m (r.pattern rd [32 * kb + k, row0 + i]) else 0,
   (List.range 64).map fun i => (rd (r.scaleAddr [32 * kb, row0 + i])).toNat)

/-- The array time T in ac (R148, R149). -/
def mmaTime (m : List Host.Cell) (core : Nat) (x : MmaArgs) (ps : List Thread) : Nat :=
  match x.abm with
  | none => 4 * x.mb
  | some _ =>
    let arow (k : Nat) : Nat := ((List.range 64).filter fun i => aBit m core x i k).length
    let brow (k : Nat) : Nat := (ps.filter fun t => t.loc.lane / 16 == k / 8 && (t.optVal x.e).getLsbD (k % 8)).length
    let pairs := (List.range 32).foldl (fun n k => n + arow k * brow k) 0
    max x.mb ((x.mb * pairs + 32767) / 32768)

/-- The bytes of the A tile, for uncorrectable data: every element's and every block exponent's. -/
def aBytes (r : TRec) (coordReg : Nat) : List Nat :=
  (List.range 64).flatMap fun i => (List.range 32).flatMap fun k =>
    (r.elemBytes [32 * (coordReg / 2 ^ 16) + k, coordReg % 2 ^ 16 + i]).map (·.toNat)

/-- The conditions of R143, R144, R149 in their order: the cause, if any fails. -/
def mmaCause (x : MmaArgs) (core : Nat) (scalar : Thread) (members ps : List Thread) (r : TRec) : Option Cause :=
  if !(mmaRecOk x core (scalar.pair x.a).toNat (scalar.optVal x.c).toNat r && mmaLanesOk x members ps) then some cMatrixOperand
  else if ps.any fun t => (t.reg x.b).tag != BitVec.ofNat 8 (0x20 + x.mb) then some cTagMismatch
  else none

/-- The register leaves state complete: nobody has arrived (R137). -/
def State.kDone (s : State) (core k : Nat) : State :=
  s.modCore core fun q => { q with k := q.k.modify k fun x => { x with arrived := [] } }

/-- Adds a command to the engine's queue (R134); its participants' flags are raised. -/
def State.matPush (s : State) (core : Nat) (c : MCmd) : State :=
  ({ s with nextId := s.nextId + 1 }.modCore core fun q =>
    { q with mqueue := q.mqueue ++ [{ c with id := s.nextId, issued := s.clock }], mtaken := some s.clock }).modThreads
    c.uids (·.flagAdd c.setf)

/-- The engine's queue takes a command now: it has an entry, and took none in this ac (R134). -/
def State.matRoom (s : State) (core : Nat) : Bool :=
  (s.core core).mqueue.length < 8 && (match (s.core core).mtaken with | some t => t + Config.ac ≤ s.clock | none => true)

/-- A command of these participants. -/
def State.newMat (s : State) (c : Ctl) (acc : Nat) (ps : List Thread) (kind : MKind) : MCmd :=
  match ps.head? with
  | some t => { id := 0, acc := acc, lnum := s.lnumOf t, wg := s.wgIdxOf t, uids := ps.map (·.uid), setf := c.setf, pc := t.pc
                ilen := c.len.bytes, kind := kind, key := s.deferKey t }
  | none => { id := 0, acc := acc, lnum := 0, wg := 0, uids := [], setf := 15, pc := 0, ilen := 0, kind := kind }

/-- What checking the collective of a complete register comes to (R143, R144). -/
inductive MmaFate where
  /-- No participant: nothing enters the queue. -/
  | pass
  | trap (c : Cause)
  | ue (c : Cause)
  /-- A pass enters the queue, with its record. -/
  | push (r : TRec)
  deriving DecidableEq, Repr

/-- The checks of R144 in their order; `ts` are the arrived members, by quadrant and lane. A record that is not in the vault cannot be
read, or breaks R143. -/
def State.mmaFate (s : State) (c : Ctl) (x : MmaArgs) (core : Nat) (ts : List Thread) : MmaFate :=
  let ps := participants c ts
  match ps.head? with
  | none => .pass
  | some t =>
    match s.recLook t (t.pair x.a) with
    | .trap e => .trap e
    | .ue e => .ue e
    | .ok r =>
      match mmaCause x core t ts ps r with
      | some e => .trap e
      | none => if (aBytes r (t.optVal x.c).toNat).any fun a => s.poisoned a 1 then .ue cVaultUe else .push r
    | _ => .trap cMatrixOperand

/-- The collective of a complete register issues or traps (R144). A pass for which the queue has no entry does not issue, and its
members stay arrived. -/
def State.mmaGo (s : State) (c : Ctl) (x : MmaArgs) (core : Nat) (ts : List Thread) : Host.Outcome State Fault Refusal :=
  let s1 := (s.kDone core x.k).issueDone
  let uids := ts.map (·.uid)
  let ps := participants c ts
  let pass (s : State) : State := s.modThreads uids fun t => t.issued s.clock (t.nextPc c)
  match s.mmaFate c x core ts, ps.head? with
  | .trap e, _ => s1.mmaTrap c e uids
  | .ue e, some t => .next (s1.machineCheck uids e c.len.bytes t.pc)
  | .push r, some t =>
    if !s.matRoom core then .next s.issueDone
    else
      let cr := (t.optVal x.c).toNat
      let at_ := aTile s1.mem core x r cr
      let bt := bTile x ps
      .next ((pass s1).matPush core (s1.newMat c x.d.toNat ps
        (.pass { ma := r.m, mb := x.mb, qa := at_.1, ea := at_.2, qb := bt.1, eb := bt.2, time := mmaTime s1.mem core x ps })))
  | _, _ => .next (pass s1)

/-- MMA or MMAS: arrival, or the collective (R144). -/
def State.mma (s : State) (c : Ctl) (x : MmaArgs) : Host.Outcome State Fault Refusal :=
  match s.issue with
  | some { kind := .converge _, core := core, .. } => s.mmaGo c x core s.group
  | _ => .next (s.group.foldl (fun s t => s.mmaArrive c x.k t) s).issueDone

/-- The operands of MMA. -/
def Mma.toArgs (x : Mma) : MmaArgs :=
  { d := x.d, a := x.a, b := x.b, k := x.k.toNat, mb := x.mbf.val + 2, c := x.c, abm := none, e := none }

/-- The operands of MMAS. -/
def Mmas.toArgs (x : Mmas) : MmaArgs :=
  { d := x.d, a := x.a, b := x.b, k := x.k.toNat, mb := x.mbf.val + 2, c := x.c, abm := some x.abm.toNat, e := x.e }

/-- MMA (R143 to R148). -/
def execMma (c : Ctl) (x : Mma) (s : State) : Host.Outcome State Fault Refusal := s.mma c (Mma.toArgs x)

/-- MMAS (R149). -/
def execMmas (c : Ctl) (x : Mmas) (s : State) : Host.Outcome State Fault Refusal :=
  s.mma c (Mmas.toArgs x)

/-! The wave-collective instructions of the class (R142). -/

/-- A collective of class 0x4: nothing without participants, MATRIX_OWNER without the engine (R133, R142); `f` gets the home
core and the participants. -/
def State.matrix (s : State) (c : Ctl) (f : Nat → List Thread → List Thread → State → State) : State :=
  s.collective c fun ts s =>
    match (participants c ts).head? with
    | none => s.collectiveEnd c 0 ts (.ok fun _ => {}) 0
    | some t =>
      if !s.holdsEngine t then s.collectiveEnd c 0 ts (.error cMatrixOwner) 0
      else f t.loc.core ts (participants c ts) s

/-- The participants are held at the instruction, which has not issued; the others stay arrived (R134). -/
def State.collectiveRetry (s : State) (ps : List Thread) (why : Retry) : State :=
  s.modThreads (ps.map (·.uid)) fun t => { t with hold := .retry why }

/-- A collective that adds a command to the queue. -/
def State.matQueue (s : State) (c : Ctl) (core acc : Nat) (ts ps : List Thread) (kind : MKind) : State :=
  if !s.matRoom core then s.collectiveRetry ps .mqueue
  else (s.collectiveEnd c 0 ts (.ok fun _ => {}) 0).matPush core (s.newMat c acc ps kind)

/-- MZERO (R150). -/
def execMzero (c : Ctl) (m : Reg) (s : State) : Host.Outcome State Fault Refusal :=
  .next (s.matrix c fun core ts ps s => s.matQueue c core m.toNat ts ps .zero)

/-- MCHK (R153). -/
def execMchk (c : Ctl) (p : Reg) (s : State) : Host.Outcome State Fault Refusal :=
  .next (s.matrix c fun core ts ps s => s.matQueue c core 0 ts ps (.chk p))

/-- N of CNT (R141). -/
def cntN : Cnt → Nat
  | .n1 => 1
  | .n4 => 4
  | .n16 => 16
  | .n64 => 64

/-- The row origin (R142, R151): IMM20, checked at decode, or the scalar lane's register. -/
def rowOrigin (t : Thread) (x : Scal) : Nat :=
  match x with
  | .imm v => v.toNat
  | .reg r => (t.optVal r).toNat

/-- Register i of a run; vz reads vz. -/
def Thread.runReg (t : Thread) (r : Reg) (i : Nat) : VReg := if r == 255 then VReg.zero else t.v.getD (r.toNat + i) VReg.zero

/-- Place of element t of lane L in rows, or with TR columns, from row0 (R151, R152). -/
def tilePlace (tr : Bool) (row0 lane i : Nat) : Nat := if tr then 64 * lane + row0 + i else 64 * (row0 + i) + lane

/-- The operand conditions of MPUT (R151): the cause, if one fails. -/
def mputCause (x : MPut) (ps : List Thread) : Option Cause :=
  let n := cntN x.cnt
  if 64 < ((ps.head?.map fun t => rowOrigin t x.s)).getD 0 + n then some cMatrixOperand
  else if ps.any fun t => (List.range n).any fun i => (t.runReg x.a i).tag != tagF32 && (t.runReg x.a i).tag != tagRAW then
    some cTagMismatch
  else none

/-- MPUT (R151). -/
def execMput (c : Ctl) (x : MPut) (s : State) : Host.Outcome State Fault Refusal :=
  .next (s.matrix c fun core ts ps s =>
    let n := cntN x.cnt
    let row0 := ((ps.head?.map fun t => rowOrigin t x.s)).getD 0
    match mputCause x ps with
    | some e => s.collectiveEnd c 0 ts (.error e) 0
    | none =>
      let ws := ps.flatMap fun t => (List.range n).map fun i => (tilePlace x.tr row0 t.loc.lane i, (t.runReg x.a i).val)
      s.matQueue c core x.m.toNat ts ps (.put ws (2 + (n + 3) / 4)))

/-- The elements an MGET would read, element t of lane L at 64 t + L (R152). -/
def CoreSt.tile (k : CoreSt) (m : Nat) (tr : Bool) (row0 n : Nat) : List Word :=
  (List.range n).flatMap fun i => (List.range 64).map fun l =>
    k.accGet m (tilePlace tr row0 l i / 64) (tilePlace tr row0 l i % 64)

/-- MGET (R152). -/
def execMget (c : Ctl) (x : MGet) (s : State) : Host.Outcome State Fault Refusal :=
  .next (s.matrix c fun core ts ps s =>
    let n := cntN x.cnt
    let m := x.m.toNat
    let row0 := ((ps.head?.map fun t => rowOrigin t x.s)).getD 0
    let k := s.core core
    if 64 < row0 + n then s.collectiveEnd c 0 ts (.error cMatrixOperand) 0
    else if !x.sync && (ps.any fun t => s.isDet t) && k.pendOf m != 0 then s.collectiveEnd c 0 ts (.error (cDet 2)) 0
    else
      let g : MGetPend := { id := s.nextId, acc := m, uids := ps.map (·.uid), d := x.d, row0 := row0, cnt := n, tr := x.tr
                            setf := c.setf, sync := x.sync, waits := if x.sync then k.idsOf m else []
                            due := s.clock + 8 * Config.ac, hist := [k.tile m x.tr row0 n]
                            lnum := (ps.head?.map s.lnumOf).getD 0, wg := (ps.head?.map s.wgIdxOf).getD 0
                            pc := (ps.head?.map (·.pc)).getD 0, ilen := c.len.bytes }
      let s1 := (s.collectiveEnd c 0 ts (.ok fun _ => {}) 0).modThreads (ps.map (·.uid)) (·.flagAdd c.setf)
      { s1 with nextId := s1.nextId + 1 }.modCore core fun q => { q with mgets := q.mgets ++ [g] })

/-- MSTAT (R153): the status word with PEND, 4 ac after issue. -/
def execMstat (c : Ctl) (x : Un) (s : State) : Host.Outcome State Fault Refusal :=
  .next (s.matrix c fun core ts _ s =>
    let k := s.core core
    let w := (k.stat x.a.toNat).bits + BitVec.ofNat 32 (min 255 (k.pendOf x.a.toNat))
    s.collectiveEnd c 4 ts (.ok fun _ => { regs := wr1 x.d w tagINT }) 0)

/-- ERRINJ (R154). -/
def execErrinj (c : Ctl) (x : ErrInj) (s : State) : Host.Outcome State Fault Refusal :=
  .next (s.matrix c fun core ts _ s =>
    (s.collectiveEnd c 0 ts (.ok fun _ => {}) 0).modCore core fun k =>
      { k with inject := k.inject.filter (·.1 != x.m.toNat) ++
          [(x.m.toNat, { mode := x.mode, row := x.row.toNat, col := x.col.toNat, bit := x.bit.toNat })] })

/-- Whether MDRAIN's record and tile origin are as R153 asks. -/
def drainOk (r : TRec) (coordReg : Nat) : Bool :=
  okFloat r.tag && r.ndim == 2 && coordReg % 2 ^ 16 + 63 < r.dims.getD 1 0 && coordReg / 2 ^ 16 + 63 < r.dims.getD 0 0

/-- MDRAIN (R153, R402). -/
def State.mdrain (s : State) (c : Ctl) (x : MDrain) (core : Nat) (ts ps : List Thread) : Except Fault State :=
  match ps.head? with
  | none => .ok s
  | some t =>
    let all (e : Cause) : Except Fault State := .ok (s.collectiveEnd c 0 ts (.error e) 0)
    match s.recLook t (t.pair x.a) with
    | .trap e => all e
    | .ue e => .ok ((s.collectiveEnd c 0 ts (.ok fun _ => {}) 0).machineCheck (ps.map (·.uid)) e c.len.bytes t.pc true)
    | .absent d => .error (.absentMemory d)
    | .held w => .ok (s.collectiveRetry ps w)
    | .fault v k =>
      let r := s.newFault v t.ctx k .read 6 (s.handleOf t.loc) (s.lnumOf t)
      .ok (r.2.collectiveRetry ps (.fault r.1))
    | .swap d y =>
      match s.requestYealm d y with
      | some s1 => .ok (s1.collectiveRetry ps (.swap d y))
      | none => if s.windowShut (s.lnumOf t) (s.wgIdxOf t) then all cYealmWindow else .ok (s.collectiveRetry ps (.swap d y))
    | .ok r =>
      let cr := (t.optVal x.c).toNat
      if !drainOk r cr then all cMatrixOperand
      else .ok (s.matQueue c core x.m.toNat ts ps (.drain x.d x.keep x.rm r (cr % 2 ^ 16) (cr / 2 ^ 16) t.ctx t.priv))

/-- MDRAIN (R153). -/
def execMdrain (c : Ctl) (x : MDrain) (s : State) : Host.Outcome State Fault Refusal :=
  match s.issue with
  | some { kind := .wave, .. } =>
    let ts := s.group
    let ps := participants c ts
    let s1 := s.issueDone
    match ps.head? with
    | none => .next (s1.collectiveEnd c 0 ts (.ok fun _ => {}) 0)
    | some t =>
      if !s.holdsEngine t then .next (s1.collectiveEnd c 0 ts (.error cMatrixOwner) 0)
      else outcomeOf (s1.mdrain c x t.loc.core ts ps)
  | _ => .next (s.arrive c)

/-! The engine. -/

/-- A product matrix (R145, R231). -/
def products (p : Pass) : List (List Int) :=
  p.qa.map fun row => p.qb.map fun col => ((row.zip col).foldl (fun a q => a + q.1 * q.2) 0)

/-- P with bit `bit` of element (i, j) flipped, as a 32-bit register (R154, R230). -/
def flipBit (p : List (List Int)) (i j bit : Nat) : List (List Int) :=
  p.modify i fun row => row.modify j fun v => signExt 32 (toBits 32 v ^^^ 2 ^ bit)

/-- The elements an injection flips on a computation (R154). -/
def Inject.flips (x : Inject) (again : Bool) : List (Nat × Nat × Nat) :=
  let e1 := (x.row, x.col, x.bit)
  let e2 := ((x.row + 1) % 64, (x.col + 1) % 64, x.bit)
  match x.mode, again with
  | .one, false => [e1]
  | .two, false => [e1, e2]
  | .twoTwice, _ => [e1, e2]
  | _, true => []

/-- Sum of a list of integers. -/
def isum (xs : List Int) : Int := xs.foldl (· + ·) 0

/-- What Check comes to (R146): accepted products with whether one was corrected, or a mismatch. -/
def checkProducts (p : Pass) (m : List (List Int)) : Option (List (List Int) × Bool) :=
  let dot (xs ys : List Int) : Int := (xs.zip ys).foldl (fun a q => a + q.1 * q.2) 0
  let a := (List.range 32).map fun k => isum (p.qa.map fun r => r.getD k 0)
  let b := (List.range 32).map fun k => isum (p.qb.map fun c => c.getD k 0)
  let rowdiff := (List.range 64).map fun i => dot (p.qa.getD i []) b - isum (m.getD i [])
  let coldiff := (List.range 64).map fun j => dot a (p.qb.getD j []) - isum (m.map fun r => r.getD j 0)
  let is := (List.range 64).filter fun i => rowdiff.getD i 0 != 0
  let js := (List.range 64).filter fun j => coldiff.getD j 0 != 0
  match is, js with
  | [], [] => some (m, false)
  | [i], [j] =>
    if rowdiff.getD i 0 == coldiff.getD j 0 then some (m.modify i fun row => row.modify j (· + rowdiff.getD i 0), true) else none
  | _, _ => none

/-- A command on accumulator m has completed: MGETs see it (R152). -/
def CoreSt.mgetSee (k : CoreSt) (now id m : Nat) : CoreSt :=
  { k with mgets := k.mgets.map fun g =>
      if g.acc != m then g
      else if !g.sync then { g with hist := g.hist ++ [k.tile m g.tr g.row0 g.cnt] }
      else if g.waits.contains id then
        { g with waits := g.waits.filter (· != id), due := now + 8 * Config.ac, hist := [k.tile m g.tr g.row0 g.cnt] }
      else g }

/-- A machine check of the engine (R147, R238): FAIL is set, the failing command and every later one are discarded, and MGETs that wait
for one of them never land; the workgroup stops, and the record is that of the failing command, posted for its first participant that
still runs. -/
def State.matFail (s : State) (core : Nat) (c : MCmd) (e : Cause) : State :=
  let before (x : MExec) : Bool := x.cmd.id < c.id
  let s1 := s.modCore core fun k =>
    { k with
      mexec := k.mexec.filter before, mland := k.mland.filter before, mqueue := k.mqueue.filter (·.id < c.id)
      mgets := k.mgets.filter fun g => !g.waits.any fun i => decide (c.id ≤ i)
      mstat := k.mstat.modify c.acc fun x => { x with fail := true } }
  let live := c.uids.filter fun u => match s.thread? u with | some t => t.status == .live | none => false
  (s1.machineCheck (if live.isEmpty then c.uids.take 1 else live.take 1) e c.ilen c.pc true).modWg c.lnum c.wg fun g => { g with mcheck := true }

/-- The ac by which each bit plane is stretched in this arbitration interval (R234): none while the die's grant meets the arrays' demand,
else what the engine chooses (log 151). -/
def State.planeStretch (s : State) (core : Nat) : Nat :=
  if Config.arrayDemand ≤ s.power.grants.getD (s.physCore core / 84) 0 then 0
  else [0, 1, 2, 4, 8, 12].getD (Config.planeChoice core (s.clock / Config.us) % 6) 0

/-- How long the first i planes of a pass take, each stretched by w ac (R148, R149, R234). -/
def Pass.planes (p : Pass) (w i : Nat) : Nat := (i * p.time / p.mb + i * w) * Config.ac

/-- One computation of a pass (R145, R146): its array run, and what the check will find. -/
def State.runPass (s : State) (core : Nat) (c : MCmd) (p : Pass) (inj : Option Inject) (again : Bool) : State :=
  let flips := (match inj with | some x => x.flips again | none => []) ++ (s.core core).flips
  let r := checkProducts p (flips.foldl (fun m f => flipBit m f.1 f.2.1 f.2.2) (products p))
  let w := s.planeStretch core
  s.modCore core fun k =>
    { k with flips := []
             mexec := some { cmd := c, inj := inj, prod := r.map (·.1), fixed := (r.map (·.2)).getD false, again := again
                             ends := s.clock + p.planes w p.mb, began := s.clock, stretch := w } }

/-- An array run under a new stretch (R234): it holds from the next plane boundary on. -/
def MExec.restretch (e : MExec) (now w : Nat) : MExec :=
  match e.cmd.kind with
  | .pass p =>
    match (List.range p.mb).find? fun i => now ≤ e.began + p.planes e.stretch i with
    | some i => { e with ends := e.began + p.planes e.stretch i + (p.planes w p.mb - p.planes w i), stretch := w }
    | none => e
  | _ => e

/-- Every engine chooses its stretch again, at an arbitration interval (R234). -/
def State.restretchAll (s : State) : State :=
  { s with cores := s.cores.map fun p =>
      (p.1, { p.2 with mexec := p.2.mexec.map fun e => if s.clock < e.ends then e.restretch s.clock (s.planeStretch p.1) else e }) }

/-- The copy of an MDRAIN (R153): its bytes at virtual addresses, and the conditions of the conversion. -/
def drainBytes (k : CoreSt) (m : Nat) (rm : Rm) (r : TRec) (row0 col0 : Nat) : List (Nat × Byte) × Word :=
  let outs := (List.range 64).flatMap fun i => (List.range 64).map fun j =>
    let cs := [col0 + j, row0 + i]
    (cs, (fmtOf r.tag).round (fmtF32.decode (k.accGet m i j).toNat) rm (r.theta cs))
  (outs.flatMap fun o => (r.putElem o.1 o.2.1).map fun b => (b.1.toNat, b.2), outs.foldl (fun a o => a ||| o.2.2) 0)

/-- The core's drain copy is held: a fault or a store of it is outstanding, or its walk waits for the end of an edit (R296). -/
def State.drainHeld (s : State) (core : Nat) : Bool :=
  match (s.core core).drain with
  | none => false
  | some d => match d.acc with | some i => d.fault.isSome || s.inflight.any (·.id == i) | none => true

/-- The copy is stored as stores of the scalar lane's thread, in the place of its MDRAIN among that thread's accesses, or held by a
fault (R153). -/
def State.drainStore (s : State) (core : Nat) (d : Drain) : Except Fault State :=
  let set (s : State) (x : Option Drain) : State := s.modCore core fun k => { k with drain := x }
  let trap (e : Cause) : State := (set s none).heldTrap d.cmd.uids d.cmd.setf e d.cmd.ilen d.cmd.pc
  match (d.cmd.uids.head?).bind s.thread?, d.cmd.kind with
  | some t, .drain _ _ _ _ _ _ ctx priv =>
    match s.mapRanges none ctx priv .write (d.bytes.map fun b => (b.1, 1)) with
    | .error (.absent a) => .error (.absentMemory a)
    | .error (.fault va k) =>
      let q := s.newFault va ctx k .write 2 (s.handleOf t.loc) d.cmd.lnum
      .ok (set q.2 (some { d with fault := some q.1, acc := none }))
    | .error .held => .ok (set s (some { d with fault := none, acc := none }))
    | .error .ue => .ok (((set s none).flagFall d.cmd.uids d.cmd.setf).machineCheck d.cmd.uids cMemUe d.cmd.ilen d.cmd.pc true)
    | .error _ => .ok (trap cBadAddress)
    | .ok ps =>
      let bytes := d.bytes.map fun b => (keyIn ps b.1, b.2)
      let late := bytes.filter fun b => s.deferred? t b.1
      let now := bytes.filter fun b => !s.deferred? t b.1
      let persist := ps.any (·.persist)
      if s.foreignVault t ps then .ok (trap (cDet 4))
      else if !late.isEmpty && !s.deferRoom t 1 then .ok (trap (cDet 6))
      else
        -- the flags fall with the deferred part, which performs last
        let s1 := if late.isEmpty then s else s.defer t d.cmd.key late none persist (d.cmd.uids.map fun u => (u, d.cmd.setf))
        if now.isEmpty then .ok (set s1 none)
        else
          let a := { Access.blank [t.uid] (.store now) (if late.isEmpty then d.cmd.setf else 15) d.cmd.pc d.cmd.ilen with
            id := d.cmd.id, writes := now.map fun b => (b.1, 1), also := d.cmd.uids.drop 1, persist := persist, tso := ps.any (·.tso) }
          .ok { set s1 (some { d with fault := none, acc := some d.cmd.id }) with inflight := insertBy (·.id) a s1.inflight }
  | _, _ => .ok (set s none)

/-- How long a command other than a pass occupies the engine (R150, R151, R153), in ac. -/
def MCmd.time (c : MCmd) : Nat :=
  match c.kind with
  | .pass p => p.time
  | .zero => 4
  | .put _ n => n
  | .drain .. => 64
  | .chk _ => 40

/-- The command at the head of the queue may start (R134, R148, R153): a pass 4 ac after its issue and once the array run before it has
ended and needs no recomputation, any other once every earlier command has completed; an MDRAIN waits for the core's copy. A halted
workgroup's commands stay queued, until a pre-emption or a kill runs them out (R284, R139, R133). -/
def State.matStarts (s : State) (core : Nat) (c : MCmd) : Bool :=
  let k := s.core core
  let halted : Bool := match s.wg? c.lnum c.wg with | some g => g.halted && !g.killed && g.stopping.isNone | none => false
  !halted &&
  match c.kind with
  | .pass _ => c.issued + 4 * Config.ac ≤ s.clock &&
      (match k.mexec with
       | some e => e.prod.isSome && e.ends ≤ s.clock
       | none => true)
  | .drain .. => k.executing.isEmpty && !s.drainHeld core
  | _ => k.executing.isEmpty

/-- MATRIX_COMMAND_START (R134, R145, R146, R148, R150, R151, R153): the engine starts the command at the head of its queue. -/
def execMatrixCommandStart (core : Nat) (s : State) : Host.Outcome State Fault Refusal :=
  match (s.core core).mqueue with
  | [] => .next s
  | c :: rest =>
    if !s.matStarts core c then .next s
    else
      let pop := s.modCore core fun k => { k with mqueue := rest, mland := k.executing, mexec := none }
      match c.kind with
      | .pass p =>
        let inj := ((s.core core).inject.find? (·.1 == c.acc)).map (·.2)
        .next ((pop.modCore core fun k => { k with inject := k.inject.filter (·.1 != c.acc) }).runPass core c p inj false)
      | _ => .next (pop.modCore core fun k =>
          { k with mexec := some { cmd := c, inj := none, prod := none, ends := s.clock + c.time * Config.ac } })

/-- The correction of a pass is due to be counted: its checksums were compared, 4 ac after its array run (R146, R148). -/
def MExec.fixDue (e : MExec) (now : Nat) : Bool := e.fixed && e.ends + 4 * Config.ac ≤ now

/-- Corrections of passes on these accumulators are counted (R135, R136). -/
def CoreSt.countFixed (k : CoreSt) (accs : List Nat) : CoreSt :=
  accs.foldl (fun k a => { k with mstat := k.mstat.modify a fun x => { x with corr := min 255 (x.corr + 1) }
                                  icntCorr := min 0xFFFF (k.icntCorr + 1) }) k

/-- The corrections that are due are counted. -/
def CoreSt.fixes (k : CoreSt) (now : Nat) : CoreSt :=
  let seen (e : MExec) : MExec := if e.fixDue now then { e with fixed := false } else e
  let k1 := k.countFixed ((k.executing.filter (·.fixDue now)).map (·.cmd.acc))
  { k1 with mland := k1.mland.map seen, mexec := k1.mexec.map seen }

/-- MATRIX_RECOMPUTE (R146 to R148): the checksums are compared, 4 ac after the array run: a correction is counted, and where they mismatch
the pass is computed again, or fails. -/
def execMatrixRecompute (core : Nat) (s : State) : Host.Outcome State Fault Refusal :=
  if (s.core core).executing.any (·.fixDue s.clock) then .next (s.modCore core fun k => k.fixes s.clock)
  else
  match (s.core core).mexec with
  | some { cmd := c, inj := inj, prod := none, again := again, ends := ends, .. } =>
    match c.kind with
    | .pass p =>
      .next (if s.clock < ends + 4 * Config.ac then s
             else if again then s.matFail core c cMatrixIntegrity
             else
               (s.modCore core fun k =>
                 { k with mstat := k.mstat.modify c.acc fun x => { x with retry := min 255 (x.retry + 1) }
                          icntRetry := min 0xFFFF (k.icntRetry + 1) }).runPass core c p inj true)
    | _ => .next s
  | _ => .next s

/-- One element after a pass, and its conditions (R145). -/
def accumulate (p : Pass) (old : Word) (i j : Nat) (v : Int) : Nat × Word :=
  let ea := p.ea.getD i 0
  let eb := p.eb.getD j 0
  let s : Int := (ea : Int) + eb - 254 - ((p.ma : Int) - 2) - ((p.mb : Int) - 2)
  if ea == 0xFF || eb == 0xFF then (fmtF32.nanPat, stINV)
  else
    let x := scaled (decide (v < 0)) v.natAbs s
    fmtF32.finish ((fmtF32.decode old.toNat).add x false) .rne 0

/-- The elements of an accumulator after accepted products are added, each with one rounding, and the conditions (R145). -/
def CoreSt.accumulated (k : CoreSt) (acc : Nat) (p : Pass) (m : List (List Int)) : List (Nat × Word) × Word :=
  let outs := (List.range 64).flatMap fun i => (List.range 64).map fun j =>
    (64 * i + j, accumulate p (k.accGet acc i j) i j ((m.getD i []).getD j 0))
  (outs.map fun o => (o.1, BitVec.ofNat 32 o.2.1), outs.foldl (fun a o => a ||| o.2.2) 0)

/-- The effect on the accumulators of a pass with these products, of MZERO and of MPUT (R145, R150, R151). -/
def CoreSt.apply (k : CoreSt) (c : MCmd) (m : Option (List (List Int))) : CoreSt :=
  match c.kind with
  | .pass p =>
    let r := k.accumulated c.acc p (m.getD (products p))
    { k.accPut c.acc r.1 with mstat := k.mstat.modify c.acc fun x => x.with r.2 }
  | .zero =>
    { k with acc := k.acc.filter fun a => a.1 / 4096 != c.acc, mstat := k.mstat.set c.acc MStat.clear
             accBad := k.accBad.filter (·.1 != c.acc) }
  | .put ws _ => { k.accPut c.acc ws with accBad := k.accBad.filter fun b => !(b.1 == c.acc && ws.any (·.1 == b.2)) }
  | _ => k

/-- A command reads uncorrectable elements of its accumulator (R238). -/
def CoreSt.readsBad (k : CoreSt) (c : MCmd) : Bool :=
  (match c.kind with | .pass _ => true | .drain .. => true | _ => false) && k.accBad.any (·.1 == c.acc)

/-- An MDRAIN's copy is taken (R153): the status word is returned with the conversion's conditions, and cleared or, with KEEP, kept with
them (R135); then the copy is stored. -/
def State.drainEnd (s : State) (core : Nat) (c : MCmd) (d : Reg) (keep : Bool) (rm : Rm) (r : TRec) (row0 col0 : Nat) :
    Except Fault State :=
  let k := s.core core
  let out := drainBytes k c.acc rm r row0 col0
  let st := (k.stat c.acc).with out.2
  let s1 := s.modCore core fun k =>
    ({ k with mexec := none, mstat := k.mstat.set c.acc (if keep then st else MStat.clear) }).mgetSee s.clock c.id c.acc
  (c.uids.foldl (fun s u => s.writeRegs u (wr1 d st.bits tagINT)) s1).drainStore core { cmd := c, bytes := out.1, fault := none, acc := none }

/-- When an executing command completes: a pass 8 ac after its array run, any other at its end (R148). -/
def MExec.due (e : MExec) : Nat := e.ends + (match e.cmd.kind with | .pass _ => 8 * Config.ac | _ => 0)

/-- The oldest executing command completes now: a pass whose products its check accepts. -/
def CoreSt.accDue (k : CoreSt) (clock : Nat) : Bool :=
  match k.executing with
  | [] => false
  | e :: _ => e.due ≤ clock && (match e.cmd.kind with | .pass _ => e.prod.isSome | _ => true)

/-- The checksums of the pass that the array has run mismatch, or a correction is due to be counted (R146 to R148). -/
def CoreSt.redoDue (k : CoreSt) (clock : Nat) : Bool :=
  k.executing.any (·.fixDue clock) ||
  match k.mexec with
  | some e => e.prod.isNone && e.ends + 4 * Config.ac ≤ clock && (match e.cmd.kind with | .pass _ => true | _ => false)
  | none => false

/-- MATRIX_ACCUMULATE (R145, R148, R150, R151, R153): the oldest command that the engine executes completes: a pass 8 ac after its array
run, any other at its end. -/
def execMatrixAccumulate (core : Nat) (s : State) : Host.Outcome State Fault Refusal :=
  let k := s.core core
  match k.executing with
  | [] => .next s
  | e :: rest =>
    let c := e.cmd
    if !k.accDue s.clock then .next s
    else if k.readsBad c then .next (s.matFail core c cMatrixAccEcc)
    else
      -- what stays executing is all landing passes but the newest
      let left (k : CoreSt) : CoreSt := { k with mland := rest.dropLast, mexec := rest.getLast? }
      match c.kind with
      | .chk p =>
        let s1 := s.modCore core fun k => { left k with flips := [] }
        .next ((c.uids.foldl (fun s u => s.writePred u p k.flips.isEmpty) s1).flagFall c.uids c.setf)
      | .drain d keep rm r row0 col0 _ _ => outcomeOf (s.drainEnd core c d keep rm r row0 col0)
      | _ =>
        let k1 := left (k.apply c e.prod)
        let k2 : CoreSt := if e.fixed then k1.countFixed [c.acc] else k1
        .next ((s.setCore core (k2.mgetSee s.clock c.id c.acc)).flagFall c.uids c.setf)

/-- The accumulators after each of these commands in turn. -/
def CoreSt.futures (k : CoreSt) : List (MCmd × Option (List (List Int))) → List CoreSt
  | [] => []
  | c :: cs => k.apply c.1 c.2 :: CoreSt.futures (k.apply c.1 c.2) cs

/-- The elements that an MGET without SYNC may see when it lands (R152): as they stood at its issue, after each command since, and after
each that has entered the queue. -/
def CoreSt.mgetSees (k : CoreSt) (g : MGetPend) : List (List Word) :=
  if g.sync then g.hist
  else
    let rest := (k.executing.map fun e => (e.cmd, e.prod)) ++ k.mqueue.map fun c => (c, none)
    g.hist ++ (k.futures (rest.filter (·.1.acc == g.acc))).map fun q => q.tile g.acc g.tr g.row0 g.cnt

/-- The results of an MGET land in its participants (R152): each element as it stood after one of the commands it may see. An
uncorrectable element that it reads is a machine check (R238). -/
def State.mgetLand (s : State) (core : Nat) (g : MGetPend) : State :=
  let s1 := s.modCore core fun k => { k with mgets := k.mgets.filter (·.id != g.id) }
  let sees := (s.core core).mgetSees g
  let pick (i : Nat) : Word :=
    let h := sees.getD ((Config.freeWord (s.free + i)).toNat % max 1 sees.length) []
    h.getD i 0
  let s2 := if sees.length ≤ 1 then s1 else { s1 with free := s1.free + 64 * g.cnt }
  let ts := g.uids.filterMap s.thread?
  let places := ts.flatMap fun t => (List.range g.cnt).map fun i => (g.acc, tilePlace g.tr g.row0 t.loc.lane i)
  if (s.core core).accBad.any (places.contains ·) then
    s1.matFail core { id := g.id, acc := g.acc, lnum := g.lnum, wg := g.wg, uids := g.uids, setf := g.setf, pc := g.pc
                      ilen := g.ilen, kind := .zero } cMatrixAccEcc
  else
  (g.uids.foldl (fun s u =>
    match s.thread? u with
    | some t => s.writeRegs u ((List.range g.cnt).flatMap fun i =>
        if g.d == 255 then [] else [(g.d.toNat + i, { val := pick (64 * i + t.loc.lane), tag := tagF32, scale := 0 })])
    | none => s) s2).flagFall g.uids g.setf

end Sys2Proof.Machine
end

