-- ==== Sys2Proof/Machine/Yealm.lean ====
section
/-! DEFINITION. YACQ, YREL, YHINT (R184) and the yealm engine's events YEALM_STREAM_START, YEALM_ARRIVE, SHARD_REBUILD
(R289, R290, R313 to R315). -/

namespace Sys2Proof.Machine

/-- The scalar lane's descriptor and yealm (R114, R184), or the cause of R158. -/
def yealmArgs (t : Thread) (a b : Reg) : Except Cause (Nat × Nat) :=
  if canonical (t.pair a) then .ok ((t.pair a).toNat, (t.val b).toNat) else .error cBadAddress

/-- Adds a pin of a wave, which is the thatch's latest acquire (R184, R314). -/
def State.pinYealm (s : State) (wid desc yealm : Nat) : State :=
  let s1 := s.modThatch desc fun t =>
    { t with pins := if t.pins.any (·.1 == yealm) then t.pins.map fun p => if p.1 == yealm then (p.1, p.2 + 1) else p
                     else t.pins ++ [(yealm, 1)]
             lastAcq := yealm }
  s1.modWave wid fun w =>
    { w with pins := if w.pins.any (fun p => p.1 == desc && p.2.1 == yealm)
                     then w.pins.map fun p => if p.1 == desc && p.2.1 == yealm then (p.1, p.2.1, p.2.2 + 1) else p
                     else w.pins ++ [(desc, yealm, 1)] }

/-- Holds the participants of a collective at it; the others pass. -/
def State.collectiveHold (s : State) (c : Ctl) (ts : List Thread) (h : Hold) : State :=
  let on := (participants c ts).map (·.uid)
  { s with threads := s.threads.map fun t =>
      if on.contains t.uid then { t with hold := h, setf := c.setf, ilen := c.len.bytes }
      else if ts.any (·.uid == t.uid) then t.skip s.clock c else t }

/-- YACQ for the wave (R184, R315). -/
def State.yacq (s : State) (c : Ctl) (a b : Reg) (ts : List Thread) : State :=
  match (participants c ts).head? with
  | none => s.collectiveEnd c 0 ts (.ok fun _ => {}) 0
  | some t =>
    match yealmArgs t a b with
    | .error e => s.collectiveEnd c 0 ts (.error e) 0
    | .ok (d, y) =>
      match s.thatch? d with
      | none => s.collectiveEnd c 0 ts (.error cYealmInvalid) 0
      | some h =>
        if h.nyealm ≤ y || h.pinsOf y == 65535 then s.collectiveEnd c 0 ts (.error cYealmInvalid) 0
        else if (s.slotOf d y).isSome then (s.pinYealm t.wid d y).collectiveEnd c 0 ts (.ok fun _ => {}) 0
        else
          match s.requestYealm d y with
          | some s1 => s1.collectiveHold c ts (.yacq d y)
          | none =>
            if s.windowShut (s.lnumOf t) (s.wgIdxOf t) then s.collectiveEnd c 0 ts (.error cYealmWindow) 0
            else s.collectiveHold c ts (.yacq d y)

def execYacq (c : Ctl) (a b : Reg) (s : State) : Host.Outcome State Fault Refusal :=
  .next (s.collective c fun ts s => s.yacq c a b ts)

/-- YREL for the wave (R184). -/
def State.yrel (s : State) (c : Ctl) (a b : Reg) (ts : List Thread) : State :=
  match (participants c ts).head? with
  | none => s.collectiveEnd c 0 ts (.ok fun _ => {}) 0
  | some t =>
    match yealmArgs t a b with
    | .error e => s.collectiveEnd c 0 ts (.error e) 0
    | .ok (d, y) =>
      match s.thatch? d with
      | none => s.collectiveEnd c 0 ts (.error cYealmInvalid) 0
      | some h =>
        if h.nyealm ≤ y || h.pinsOf y == 0 then s.collectiveEnd c 0 ts (.error cYealmInvalid) 0
        else
          let s1 := s.modThatch d fun (x : Thatch) => x.unpin fun p => if p == y then 1 else 0
          let s2 := s1.modWave t.wid fun w =>
            { w with pins := (w.pins.map fun p => if p.1 == d && p.2.1 == y then (p.1, p.2.1, p.2.2 - 1) else p).filter fun p => p.2.2 != 0 }
          s2.collectiveEnd c 0 ts (.ok fun _ => {}) 0

def execYrel (c : Ctl) (a b : Reg) (s : State) : Host.Outcome State Fault Refusal :=
  .next (s.collective c fun ts s => s.yrel c a b ts)

/-- YHINT for the wave (R184): it asks for the yealm when the device holds it, and otherwise does nothing. -/
def State.yhint (s : State) (c : Ctl) (a b : Reg) (ts : List Thread) : State :=
  match (participants c ts).head? with
  | none => s.collectiveEnd c 0 ts (.ok fun _ => {}) 0
  | some t =>
    match yealmArgs t a b with
    | .error e => s.collectiveEnd c 0 ts (.error e) 0
    | .ok (d, y) =>
      let ask := match s.thatch? d with | some h => decide (y < h.nyealm) | none => false
      (if ask then (s.requestYealm d y).getD s else s).collectiveEnd c 0 ts (.ok fun _ => {}) 0

def execYhint (c : Ctl) (a b : Reg) (s : State) : Host.Outcome State Fault Refusal :=
  .next (s.collective c fun ts s => s.yhint c a b ts)

/-! The yealm engine. -/

/-- The yealms asked for by held YACQs, waiting reads, engine commands and peers' accesses (R315), each with the workgroup that asks; a
peer is none. -/
def State.asked (s : State) : List ((Nat × Nat) × (Nat × Nat)) :=
  (s.threads.filterMap fun t => match t.hold with
    | .yacq d y => some ((d, y), (s.lnumOf t, s.wgIdxOf t))
    | .retry (.swap d y) => some ((d, y), (s.lnumOf t, s.wgIdxOf t))
    | _ => none) ++
  (s.thatches.swaps.filterMap fun w => (s.thread? w.entry.uid).map fun t => ((w.desc, w.yealm), (s.lnumOf t, s.wgIdxOf t))) ++
  (s.cmds.filterMap fun c => c.swap.map fun p => (p, (c.lnum, c.wg))) ++
  s.cmd.remote.filterMap fun w => w.swap.map fun p => (p, (0, 2 ^ 64))

/-- The yealms asked for. -/
def State.wanted (s : State) : List (Nat × Nat) := s.asked.map (·.1)

/-- Requests not yet given a slot get one, if there is one (R313, R315). -/
def State.giveSlots (s : State) : State :=
  s.wanted.foldl (fun s p => if (s.thatch? p.1).isSome then (s.requestYealm p.1 p.2).getD s else s) s

/-- A stream is running. -/
def State.streaming (s : State) : Option (Nat × Nat × Nat) :=
  (List.range s.thatches.slots.length).findSome? fun n =>
    match s.thatches.slots.getD n .empty with
    | .filling d y => some (n, d, y)
    | _ => none

/-- The SCM DPA of byte i of data shard d (or parity k and k + 1) of a yealm (R310). -/
def Thatch.shardAt (t : Thatch) (d yealm i : Nat) : Nat :=
  0x100000000000 + t.scmStacks.getD d 0 * 2 ^ 39 + t.soff + yealm * (t.ysize / t.k) + i

/-- The first data shard of a yealm that holds uncorrectable data. -/
def State.badShard (s : State) (t : Thatch) (yealm : Nat) : Option Nat :=
  (List.range t.k).find? fun d => s.poison.any fun p =>
    t.shardAt d yealm 0 ≤ p * 64 + 63 && p * 64 < t.shardAt d yealm 0 + t.ysize / t.k

/-- The moves that fill a slot (R310, R313): destination key, source DPA and size of each part that one data shard and one 2 MiB
block of the slot (R358) share. -/
def State.slotMoves (s : State) (n : Nat) (t : Thatch) (yealm : Nat) : List (Nat × Nat × Nat) :=
  let sh := t.ysize / t.k
  let parts := (s.slotKeys n).foldl (fun (a : List (Nat × Nat × Nat) × Nat) p => (a.1 ++ [(p.1, p.2, a.2)], a.2 + p.2)) ([], 0)
  parts.1.flatMap fun p => (List.range t.k).filterMap fun d =>
    let lo := max p.2.2 (d * sh)
    let hi := min (p.2.2 + p.2.1) ((d + 1) * sh)
    if lo < hi then some (p.1 + (lo - p.2.2), t.shardAt d yealm (lo - d * sh), hi - lo) else none

/-- A yealm is resident: its slot's L1 lines are discarded everywhere, its bytes written whole, and its lines tagged (R318, R290,
R344). -/
def State.fillSlot (s : State) (n : Nat) (t : Thatch) (yealm : Nat) : State :=
  let base := s.slotBase n
  let moves := s.slotMoves n t yealm
  let mem := moves.foldl (fun m p => memMove m p.1 p.2.1 p.2.2) s.mem
  let filled (q : Nat) : Bool := moves.any fun p => p.1 < q * 64 + 64 && q * 64 < p.1 + p.2.2
  let lines := moves.flatMap fun p => (List.range ((p.2.2 + 63) / 64)).map (p.1 / 64 + ·)
  let drop (p : Nat × CoreSt) : Nat × CoreSt :=
    (p.1, { p.2 with l1 := p.2.l1.filter fun l => !(base < l.1 * 256 + 256 && l.1 * 256 < base + s.slotSize) })
  let s0 := lines.foldl (fun s l => s.setTag l (s.ckpt.step.setWidth 8)) s
  let s1 := { s0 with mem := mem, cores := s.cores.map drop, poison := s.poison.filter fun q => !filled q }
  let s2 := (s1.setSlot n (.resident t.desc yealm)).modThatch t.desc fun x =>
    { x with loads := (x.loads.map fun l => (l.1, l.2.filter (· != yealm))).filter fun l => !l.2.isEmpty }
  -- a THATCH load completes with its last yealm (R374)
  (t.loads.filter fun l => l.2.all (· == yealm)).foldl (fun s l => s.packetDone (some l.1)) s2

/-- YEALM_ARRIVE (R184, R290, R313, R315): the stream ends: the yealm is resident and what waits for it goes on, or a shard
returned an uncorrectable error and the slot stays reserved. The write of the slot waits for the end of an edit (R296). -/
def execYealmArrive (failedShard : Option Nat) (s : State) : Host.Outcome State Fault Refusal :=
  match s.streaming with
  | none => .next s
  | some (n, d, y) =>
    match s.thatch? d with
    | none => .next (s.setSlot n .empty)
    | some t =>
      match failedShard <|> s.badShard t y with
      | some k =>
        if t.k ≤ k then .next s
        else
          let s1 := s.setSlot n (.reserved d y)
          .next { s1 with thatches := { s1.thatches with failed := s1.thatches.failed ++ [(d, y, k)] } }
      | none =>
        if s.mmu.ilvEdit then .next s
        else
        let s1 := (s.fillSlot n t y).wakeSwap fun a b => a == d && b == y
        let ws := s1.thatches.swaps.filter fun w => w.desc == d && w.yealm == y
        outcomeOf ((replaySwaps ws s1).bind fun s2 => serveAgain (s2.cmd.remote.filter fun w => w.swap == some (d, y)) s2)

/-- The bytes of one shard from the stripe's others (R349), none where they do not suffice. -/
def State.rebuildShard (s : State) (t : Thatch) (yealm lost : Nat) : Option (List Byte) :=
  let sh := t.ysize / t.k
  let bad (d : Nat) : Bool := d == lost || s.poison.any fun p =>
    t.shardAt d yealm 0 ≤ p * 64 + 63 && p * 64 < t.shardAt d yealm 0 + sh
  let byte (d i : Nat) : Option Nat := if bad d then none else some (memGet s.mem (t.shardAt d yealm i)).toNat
  let out := (List.range sh).map fun i =>
    (recoverByte ((List.range t.k).map fun d => byte d i) (if 1 ≤ t.m then byte t.k i else none)
      (if t.m == 2 then byte (t.k + 1) i else none)).map fun ds => (BitVec.ofNat 8 (ds.getD lost 0) : Byte)
  if out.all (·.isSome) then some (out.map (·.getD 0)) else none

/-- SHARD_REBUILD (R290): the ridge pair rebuilds a failed shard and queues the stream again. A stripe that cannot be rebuilt
leaves the yealm not resident and its waiters held. -/
def execShardRebuild (unrecoverable : Bool) (s : State) : Host.Outcome State Fault Refusal :=
  match s.thatches.failed with
  | [] => .next s
  | (d, y, k) :: rest =>
    let s1 := { s with thatches := { s.thatches with failed := rest } }
    match s1.thatch? d with
    | none => .next s1
    | some t =>
      if unrecoverable then .next s1
      else
        match s1.rebuildShard t y k with
        | none => .next s1
        | some bs =>
          let at_ := t.shardAt k y 0
          let s2 := s1.putHome ((List.range bs.length).map fun i => (at_ + i, bs.getD i 0)) true
          .next { s2 with poison := s2.poison.filter fun p => !(at_ ≤ p * 64 && p * 64 + 64 ≤ at_ + bs.length)
                          thatches := { s2.thatches with queue := s2.thatches.queue ++ [(d, y)] } }

end Sys2Proof.Machine
end

