-- ==== Sys2Proof/Machine/Work.lean ====
section
/-! DEFINITION. Tickets (R201, R202), work instructions FETCHW, EMIT, GATE, RELEASE (R203 to R206), supersteps OWN and SSTEP
(R208 to R210), CBAR (R211), and their events WORK_ID_DISPENSE, PRODUCER_END, SUPERSTEP_COMMIT, CLUSTER_BARRIER_COMPLETE. -/

namespace Sys2Proof.Machine

/-! Tickets. -/

/-- A ticket instruction: TICKET_STATE in every participant without a current identifier (R201); `f` gets the wave and the
identifier. -/
def State.ticket (s : State) (c : Ctl) (f : Wave → Ident → List Thread → State → State) : State :=
  s.collective c fun ts s =>
    match (participants c ts).head?.bind s.waveOf with
    | none => s.collectiveEnd c 0 ts (.ok fun _ => {}) 0
    | some w =>
      match w.cur with
      | none => s.collectiveEnd c 0 ts (.error cTicketState) 0
      | some i => f w i ts s

/-- TKGET (R201); its result lands 2 ac after issue (log 25). -/
def execTkget (c : Ctl) (d : Reg) (_ : BitVec 2) (s : State) : Host.Outcome State Fault Refusal :=
  .next (s.ticket c fun _ i ts s =>
    s.collectiveEnd c 2 ts (.ok fun _ => { regs := wr1 d (BitVec.ofNat 32 i.rank) tagINT }) 0)

/-- TKWAIT (R201). -/
def execTkwait (c : Ctl) (seq : BitVec 2) (s : State) : Host.Outcome State Fault Refusal :=
  .next (s.ticket c fun _ _ ts s => s.collectiveHold c ts (.ticket seq.toNat))

/-- TKADV (R201): a release, after which the ticket is advanced. -/
def execTkadv (c : Ctl) (seq : BitVec 2) (s : State) : Host.Outcome State Fault Refusal :=
  .next (s.ticket c fun w i ts s =>
    if w.adv.contains seq.toNat then s.collectiveEnd c 0 ts (.error cTicketState) 0
    else
      let ps := participants c ts
      let uids := ps.map (·.uid)
      let s1 := ps.foldl (fun s t => s.flushOwn t) s
      let s2 := ((s1.collectiveEnd c 0 ts (.ok fun _ => {}) 0).modThreads uids (·.flagAdd c.setf)).modWave w.wid fun w =>
        { w with adv := w.adv ++ [seq.toNat] }
      s2.enqueue { Access.blank uids (.ticket seq.toNat i.rank) c.setf ((ps.head?.map (·.pc)).getD 0) c.len.bytes with rel := true })

/-- Every lower ticket of a sequence is advanced or void (R201). -/
def State.ticketsClear (s : State) (l : Launch) (rank seq : Nat) : Bool :=
  (List.range rank).all fun r => s.ticketClear l r seq

/-! The dispenser. -/

/-- A field of the identifier (R41, R256): offset, and the launch's extent. -/
def Launch.fields (l : Launch) : List (Nat × Nat) :=
  if l.hdr.full then [(0, l.ext.getD 0 0)]
  else
    ((l.hdr.widths.takeWhile (· != 0)).foldl (fun (a : List (Nat × Nat) × Nat) w =>
      (a.1 ++ [(a.2, l.ext.getD a.1.length 0)], a.2 + w)) ([], 0)).1

/-- The number of identifiers (R256). -/
def Launch.idCount (l : Launch) : Nat := l.fields.foldl (fun n f => n * f.2) 1

/-- The identifier of a rank (R204, R257): identifiers in increasing order with every field below its extent. -/
def Launch.idOf (l : Launch) (rank : Nat) : DWord :=
  BitVec.ofNat 64 ((l.fields.foldl (fun (a : Nat × Nat) f => (a.1 + a.2 % f.2 * 2 ^ f.1, a.2 / f.2)) (0, rank)).1)

/-- Every producer of the input queue has ended (R204, R259); a queue without a producer yet has not (log 25). -/
def InQueue.over (q : InQueue) : Bool := !q.producers.isEmpty && q.producers.all (q.ended.contains ·)

/-- What the dispenser answers next (R204): none while it must wait, an identifier, or exhaustion. -/
def Launch.dispense (l : Launch) : Option (Option Ident) :=
  if l.exhausted then some none
  else
    match l.inq with
    | none =>
      if l.nextRank < l.idCount then some (some { id := l.idOf l.nextRank, rank := l.nextRank, batch := none }) else some none
    | some q =>
      let e := l.hdr.emitbatch
      let n := l.nextRank
      let full := (List.range e).all fun i => q.written.contains (n * e + i)
      let count := if full then e else if q.over && n * e < q.next then q.next - n * e else 0
      if count != 0 then
        some (some { id := BitVec.ofNat 64 (n % 2 ^ 52 + (count - 1) * 2 ^ 52), rank := n, batch := some n })
      else if q.over then some none
      else none

/-- The last 16 item times of a workgroup (R278). -/
def pushItem (xs : List Nat) (x : Nat) : List Nat := (xs ++ [x]).drop (xs.length + 1 - 16)

/-- FETCHW for the wave (R202 to R205): its identifier is given up, and the request goes to the dispenser. -/
def State.fetchw (s : State) (c : Ctl) (d p : Reg) (ts : List Thread) : State :=
  match (participants c ts).head? with
  | none => s.collectiveEnd c 0 ts (.ok fun _ => {}) 0
  | some t =>
    if isControl t.loc.core then s.collectiveEnd c 0 ts (.error cWorkState) 0
    else
      match s.waveOf t, s.wgOf t with
      | some w, some g =>
        let uids := (participants c ts).map (·.uid)
        let held := g.hdr.emitbatch != 0 || g.draining
        let req : FetchReq := { uids := uids, d := d, p := p, setf := c.setf, at_ := s.clock, held := held }
        let s1 := match w.fetchTime with
          | some x => s.modWg w.lnum w.wg fun g => { g with items := pushItem g.items (s.clock - x) }
          | none => s
        let s2 := (s1.dropIdent w).modWave w.wid fun w =>
          { w with fetches := w.fetches ++ [req], fetchAt := ts.map (fun t => (t.uid, t.pc, t.retired))
                   fetchTime := some s.clock, emitted := false }
        if held then s2.collectiveHold c ts .fetchw
        else (s2.collectiveEnd c 0 ts (.ok fun _ => {}) 0).modThreads uids (·.flagAdd c.setf)
      | _, _ => s

def execFetchw (c : Ctl) (d p : Reg) (s : State) : Host.Outcome State Fault Refusal :=
  .next (s.collective c fun ts s => s.fetchw c d p ts)

/-- A request is answered (R204): its result lands no sooner than 187.5 ns after the collective issued. The identifier is given up at
once where the wave has ended, or has executed a later FETCHW already (R202, log 149). -/
def State.serveFetch (s : State) (w : Wave) (r : FetchReq) (ans : Option Ident) : State :=
  let due := max s.clock (r.at_ + 63000)
  let id : DWord := match ans with | some i => i.id | none => BitVec.allOnes 64
  let out : Pend := { due := due, regs := wr2 r.d id tagINT, preds := wrp r.p ans.isSome
                      flag := if r.setf == 15 then none else some r.setf.toNat, answer := true }
  let past := 1 < w.fetches.length || !s.unitLives (.wave w.wid)
  let s0 := s.modWave w.wid fun w => { w with cur := if past then none else ans, reserved := none, fetches := w.fetches.drop 1 }
  let s1 := match ans with | some i => if past then s0.voidIdent w i else s0 | none => s0
  s1.modThreads r.uids fun t =>
    if t.status == .exited then t
    else
      let t1 := if r.held && t.hold == .fetchw then (t.pass s.clock).flagAdd r.setf else t
      { t1 with pend := t1.pend ++ [out] }

/-- The oldest request of a launch whose workgroup is not being drained, and its wave: one of a placed workgroup, or one that an ended
workgroup issued. -/
def State.oldestFetch (s : State) (lnum : Nat) : Option (Wave × FetchReq) :=
  let rs := s.waves.filterMap fun w =>
    match w.fetches.head?, s.wg? w.lnum w.wg with
    | some r, some g => if w.lnum == lnum && !g.draining && (g.state == .placed || g.state == .ended) then some (w, r) else none
    | _, _ => none
  rs.foldl (fun (best : Option (Wave × FetchReq)) x =>
    match best with
    | some b => if x.2.at_ < b.2.at_ then some x else best
    | none => some x) none

/-- WORK_ID_DISPENSE (R204, R257): the dispenser serves the oldest request. An identifier reserved for its wave is given
first; with an input queue the request waits for a batch. -/
def execWorkIdDispense (lnum : Nat) (s : State) : Host.Outcome State Fault Refusal :=
  match s.launch? lnum, s.oldestFetch lnum with
  | some l, some (w, r) =>
    match w.reserved with
    | some i => .next (s.serveFetch w r (some i))
    | none =>
      match l.dispense with
      | none => .next s
      | some ans =>
        .next ((s.serveFetch w r ans).modLaunch lnum fun l =>
          match ans with
          | some _ => { l with nextRank := l.nextRank + 1 }
          | none => { l with exhausted := true })
  | _, _ => .next s

/-- A workgroup has ended (R263): it was placed, and its last live thread has exited. -/
def State.wgOver (s : State) (g : Wg) : Bool :=
  g.state == .ended || g.killed || (g.state == .placed && (s.wgThreads g.lnum g.idx).isEmpty)

/-- A launch's workgroups have all ended and its EMITs are written (R259, R263). -/
def State.producerOver (s : State) (lnum : Nat) : Bool :=
  (s.wgs.any (·.lnum == lnum)) && s.wgs.all (fun g => g.lnum != lnum || s.wgOver g) &&
  !s.inflight.any fun a => (match a.op with | .emit .. => true | _ => false) &&
    a.uids.any fun u => (s.thread? u).map s.lnumOf == some lnum

/-- PRODUCER_END (R259): each successor counts the producer as ended. -/
def execProducerEnd (lnum : Nat) (s : State) : Host.Outcome State Fault Refusal :=
  if !s.producerOver lnum then .next s
  else .next { s with launches := s.launches.map fun l =>
    { l with inq := l.inq.map fun q => if q.producers.contains lnum && !q.ended.contains lnum then { q with ended := q.ended ++ [lnum] } else q } }

/-! EMIT, GATE, RELEASE. -/

/-- The 32 bytes of a record in eight registers (R205). -/
def emitBytes (t : Thread) (a : Reg) : List Byte :=
  (List.range 8).flatMap fun i => bytesOf 4 (t.runReg a i).val.toNat

/-- The slot of the next record of a queue is free (R205): its last record's batch has been freed. -/
def Launch.slotFree (l : Launch) (qcap : Nat) : Bool :=
  match l.inq with
  | none => false
  | some q => q.next < qcap || l.freed.contains ((q.next - qcap) / max 1 l.hdr.emitbatch)

/-- One lane of EMIT (R205). A page that faults holds the thread at the instruction (log 24). Records are numbered in the order of issue
(log 144). -/
def State.emitLane (s : State) (c : Ctl) (a : Reg) (q : Nat) (t : Thread) : Except Fault State :=
  let wrong : Except Fault State := .ok (s.trapLane t c cWorkState)
  if isControl t.loc.core then wrong
  else
    match (s.launch? (s.lnumOf t)).bind fun l => l.succ[q]? with
    | none => wrong
    | some k =>
      if k.lnum == 0 then wrong
      else
        match s.launch? k.lnum with
        | none => wrong
        | some l =>
          match l.inq with
          | none => wrong
          | some iq =>
            if !l.slotFree k.qcap then .ok (s.holdAt t.uid (.retry (.emit k.lnum)))
            else
              let va := k.qbase + BitVec.ofNat 64 (32 * (iq.next % max 1 k.qcap))
              let bs := (List.range 32).map fun i => ((va + BitVec.ofNat 64 i).toNat, (emitBytes t a).getD i 0)
              match s.mapBytes t bs with
              | .error .bad => .ok (s.trapLane t c cBadAddress)
              | .error .ue => .ok (s.machineCheck [t.uid] cMemUe c.len.bytes t.pc)
              | .error (.absent d) => .error (.absentMemory d)
              | .error (.swap ..) => .ok (s.trapLane t c cBadAddress)
              | .error .held => .ok (s.holdAt t.uid (.retry .edit))
              | .error (.fault va f) =>
                let r := s.newFault va t.ctx f .write 0 (s.handleOf t.loc) (s.lnumOf t)
                .ok (r.2.holdAt t.uid (.retry (.fault r.1)))
              | .ok (out, ps) =>
                let s1 := (((s.flushOwn t).issueMem t c).modLaunch k.lnum fun l =>
                  { l with inq := l.inq.map fun q => { q with next := q.next + 1 } }).modWave t.wid fun w => { w with emitted := true }
                .ok (s1.enqueue { Access.blank [t.uid] (.emit k.lnum iq.next out) c.setf t.pc c.len.bytes with
                  writes := out.map fun b => (b.1, 1), rel := true, persist := ps.any (·.persist), tso := ps.any (·.tso) })

/-- EMIT (R205). -/
def execEmit (c : Ctl) (a : Reg) (q : BitVec 2) (s : State) : Host.Outcome State Fault Refusal :=
  s.memLanes c fun s t => s.emitLane c a q.toNat t

/-- Whether every workgroup of a launch's predecessor counts as released for a gate (R206, R260). -/
def State.gateClear (s : State) (lnum gate : Nat) : Bool :=
  match s.launch? lnum with
  | none => true
  | some l =>
    l.pred == 0 ||
    (match s.launch? l.pred with
     | none => true
     | some p => p.ended || s.wgs.all fun g => g.lnum != p.lnum || (p.cancelled && g.state == .waiting) || s.gateOpen g.lnum g.idx gate)

/-- GATE (R206). -/
def execGate (c : Ctl) (g : BitVec 4) (s : State) : Host.Outcome State Fault Refusal :=
  s.memLanes c fun s t =>
    .ok (if isControl t.loc.core then s.trapLane t c cWorkState
         else if ((s.launch? (s.lnumOf t)).map (·.pred)).getD 0 == 0 then s.passLane t c
         else s.modThread t.uid fun x => { x with hold := .gate g.toNat, setf := c.setf, ilen := c.len.bytes })

/-- RELEASE (R206). -/
def execRelease (c : Ctl) (g : BitVec 4) (s : State) : Host.Outcome State Fault Refusal :=
  s.memLanes c fun s t =>
    .ok (if isControl t.loc.core then s.trapLane t c cWorkState
         else ((s.flushOwn t).issueMem t c).enqueue
           { Access.blank [t.uid] (.release g.toNat) c.setf t.pc c.len.bytes with rel := true })

/-! Supersteps. -/

/-- OWN (R208): the lines of global memory among those named are claimed for the workgroup. A page that faults holds the
thread at the instruction (log 24). -/
def execOwn (c : Ctl) (a n : Reg) (s : State) : Host.Outcome State Fault Refusal :=
  s.memLanes c fun s t =>
    let va := t.pair a
    let k := (t.val n).toNat
    if !s.isDet t then .ok (s.trapLane t c (cDet 5))
    else if k == 0 || 4096 < k then .ok (s.trapLane t c (cDet 3))
    else if !canonical va then .ok (s.trapLane t c cBadAddress)
    else
      match s.mapRanges (some t.loc.core) t.ctx t.priv .read [(va.toNat / 256 * 256, 256 * k)] with
      | .error .bad => .ok (s.trapLane t c cBadAddress)
      | .error .ue => .ok (s.machineCheck [t.uid] cMemUe c.len.bytes t.pc)
      | .error (.absent d) => .error (.absentMemory d)
      | .error (.swap ..) => .ok (s.passLane t c)
      | .error .held => .ok (s.holdAt t.uid (.retry .edit))
      | .error (.fault v f) =>
        let r := s.newFault v t.ctx f .read 0 (s.handleOf t.loc) (s.lnumOf t)
        .ok (r.2.holdAt t.uid (.retry (.fault r.1)))
      | .ok ps =>
        let lines := (List.range k).filterMap fun i =>
          let key := keyIn ps (va.toNat / 256 * 256 + 256 * i)
          if Config.vwin ≤ key then none else some (key / 256, s.wgIdxOf t)
        .ok ((s.passLane t c).modLaunch (s.lnumOf t) fun l => { l with claims := l.claims ++ lines })

/-- SSTEP (R208, R210): the thread is held until the commit. -/
def execSstep (c : Ctl) (s : State) : Host.Outcome State Fault Refusal :=
  s.memLanes c fun s t =>
    .ok (if !s.isDet t then s.trapLane t c (cDet 5)
         else (s.flushOwn t).modThread t.uid fun x => { x with hold := .sstep, setf := c.setf, ilen := c.len.bytes })

/-- Every live thread of every workgroup of a launch is held in a way; a workgroup whose threads have all exited counts
(R210). -/
def State.allHeld (s : State) (lnum : Nat) (h : Hold → Bool) : Bool :=
  s.wgs.all (fun g => g.lnum != lnum || g.state != .waiting) &&
  s.threads.all fun t => s.lnumOf t != lnum || t.status == .exited || (t.status == .live && h t.hold)

/-- No access or faulted access of these threads is outstanding, nor a store of an MDRAIN of theirs (R153). -/
def State.settled (s : State) (uids : List Nat) : Bool :=
  !(s.inflight.any fun a => a.uids.any (uids.contains ·)) && !(s.mmu.log.any fun e => uids.contains e.uid) &&
  !(s.mmu.waiters.any fun w => uids.contains w.uid) && !(s.thatches.swaps.any fun w => uids.contains w.entry.uid) &&
  (s.drainsOf uids).isEmpty

/-- The live threads of a launch. -/
def State.launchThreads (s : State) (lnum : Nat) : List Nat :=
  ((s.threads.filter fun t => s.lnumOf t == lnum && t.status != .exited)).map (·.uid)

/-- Whether a deferred entry commits before another (R209). -/
def deferredLt (a b : Deferred) : Bool :=
  a.rank < b.rank || (a.rank == b.rank && (a.retired < b.retired || (a.retired == b.retired && a.lane < b.lane)))

/-- Inserts a deferred entry in key order, after equal keys. -/
def insertDeferred (x : Deferred) : List Deferred → List Deferred
  | [] => [x]
  | y :: ys => if deferredLt x y then x :: y :: ys else y :: insertDeferred x ys

/-- The bytes that a deferred entry writes. -/
def Deferred.keys (d : Deferred) : List Nat :=
  match d.red with
  | none => d.bytes.map (·.1)
  | some (_, w64, _, key, _) => (List.range (if w64 then 8 else 4)).map (key + ·)

/-- One deferred entry commits (R210): its bytes go to their home, through the persistence domain where its page is PERSIST (R334), and
its flags fall (R160, R196). A reduction of uncorrectable data writes nothing (R354). -/
def State.commitOne (s : State) (d : Deferred) : State :=
  let s1 := match d.red with
    | none => s.putHome d.bytes d.persist d.nt
    | some (op, w64, u, key, b) =>
      let n := if w64 then 8 else 4
      if s.poisoned key n then s.machineCheck (d.falls.map (·.1)) (ueCause key) d.ilen d.pc true
      else s.putHome (bytesAt key n (atomicStep op u (8 * n) (s.readHome key n) (b.toNat % 2 ^ (8 * n)))) d.persist d.nt
  d.falls.foldl (fun s f => s.flagFall [f.1] f.2) s1

/-- A deferred entry may commit: its HBM is not being edited (R296), and no forced save waits for room (R347). -/
def State.commitReady (s : State) (d : Deferred) : Bool :=
  !s.editHolds d.keys && (d.keys.map (· / 64)).all fun l => !s.stagingFull l

/-- Entries of the ridge ownership table that other launches leave free (R208). -/
def State.ownRoom (s : State) (lnum : Nat) : Nat :=
  2 ^ 20 - (s.launches.filter (·.lnum != lnum)).foldl (fun n l => n + l.owned.length) 0

/-- The lines private to one workgroup in the next superstep (R208): claimed by it alone, as many as the table has room for, in claim
order. -/
def ownedOf (room : Nat) (claims : List (Nat × Nat)) : List (Nat × Nat) :=
  (claims.eraseDups.filter fun c => claims.all fun d => d.1 != c.1 || d.2 == c.2).take room

/-- A launch whose workgroups have all ended or been killed has ended (R374), a deterministic one once its last superstep's entries
are committed (R210). -/
def State.launchCheck (s : State) (lnum : Nat) : State :=
  match s.launch? lnum with
  | none => s
  | some l =>
    if !l.ended && l.deferred.isEmpty && s.wgs.all fun g => g.lnum != lnum || g.state == .ended || g.killed then
      (s.modLaunch lnum fun l => { l with ended := true, owned := [] }).packetDone l.ring
    else s

/-- The threads whose accesses a commit waits for: every one, an exited one's too, since the owners' direct writes stand first
(R210, R335). -/
def State.commitUids (s : State) (lnum : Nat) : List Nat := (s.threads.filter fun t => s.lnumOf t == lnum).map (·.uid)

/-- SUPERSTEP_COMMIT (R210, R335): every workgroup has arrived, one whose threads have all exited too. With no thread left, the entries
that the exits left commit, and the launch may end. -/
def execSuperstepCommit (lnum : Nat) (s : State) : Host.Outcome State Fault Refusal :=
  let uids := s.launchThreads lnum
  match s.launch? lnum with
  | none => .next s
  | some l =>
    if !l.hdr.det || (uids.isEmpty && l.deferred.isEmpty) || !s.allHeld lnum (· == .sstep) || !s.settled (s.commitUids lnum) ||
        !l.deferred.all s.commitReady then .next s
    else
      let s1 := (l.deferred.foldl (fun xs d => insertDeferred d xs) []).foldl (fun s d => s.commitOne d) s
      let s2 := s1.modLaunch lnum fun l =>
        { l with deferred := [], owned := ownedOf (s.ownRoom lnum) l.claims, claims := [], superstep := l.superstep + 1
                 start := s1.mem }
      .next ((s2.passAll uids).launchCheck lnum)

/-! The cluster barrier. -/

/-- CBAR (R211). -/
def execCbar (c : Ctl) (id : BitVec 2) (s : State) : Host.Outcome State Fault Refusal :=
  s.memLanes c fun s t =>
    .ok (if t.home.isSome then s.trapLane t c cMigratedSync
         else (s.flushOwn t).modThread t.uid fun x => { x with hold := .cbar id.toNat, setf := c.setf, ilen := c.len.bytes })

/-- CLUSTER_BARRIER_COMPLETE (R211). -/
def execClusterBarrierComplete (lnum cluster id : Nat) (s : State) : Host.Outcome State Fault Refusal :=
  let gs := s.wgs.filter fun g => g.lnum == lnum && s.clusterOf g.core == cluster && g.state != .ended
  let ts := gs.flatMap fun g => s.wgThreads g.lnum g.idx
  let uids := ts.map (·.uid)
  if uids.isEmpty || gs.any (fun g => g.state != .placed) || !s.settled uids ||
      ts.any (fun t => t.home.isSome || t.status != .live || t.hold != .cbar id) then .next s
  else .next (s.passAll uids)

end Sys2Proof.Machine
end

