-- ==== Sys2Proof/Machine/Wake.lean ====
section
/-! DEFINITION. Landings and wakes: RESULT_WRITEBACK, DIRECTIONAL_WRITE (R27, R79, R116, R138, R152), WAVE_COLLECTIVE_ISSUE
(R106), the wakes of held threads (R265, R266), SLEEP_EXPIRE (R85), FUSE_HOLD_EXPIRE (R83, R271). -/

namespace Sys2Proof.Machine

/-- The core whose convergence registers a thread belongs to (R137, R139). -/
def Thread.homeCore (t : Thread) : Nat := (t.home.getD t.loc).core

/-- Convergence-register writes of a thread that are due (R138). One that issued before its register became complete lands while it is
complete (log 121). -/
def State.ksigLand (s : State) (t : Thread) : State :=
  (t.pend.filter (·.due ≤ s.clock)).foldl (fun s p =>
    match p.ksig with
    | some k => s.modCore t.homeCore fun c => c.kChange t.uid k.1 k.2
    | none => s) s

/-- MGETs of a core whose results are due (R152). -/
def State.mgetsDue (s : State) (core uid : Nat) : List MGetPend :=
  (s.core core).mgets.filter fun g => g.due ≤ s.clock && g.waits.isEmpty && g.uids.contains uid

/-- RESULT_WRITEBACK (R27, R79, R138, R152): the results of a thread that are due land. -/
def execResultWriteback (uid : Nat) (s : State) : Host.Outcome State Fault Refusal :=
  match s.thread? uid with
  | none => .next s
  | some t =>
    let s1 := (s.ksigLand t).modThread uid (·.landDue s.clock)
    .next ((s1.mgetsDue t.homeCore uid).foldl (fun s g => s.mgetLand t.homeCore g) s1)

/-- DIRECTIONAL_WRITE (R115 to R117): the directional writes of a wave that are due land. -/
def execDirectionalWrite (wid : Nat) (s : State) : Host.Outcome State Fault Refusal :=
  .next (s.modWave wid fun w =>
    { (w.dpend.filter (·.due ≤ s.clock)).foldl (fun w p => w.dLand p) w with dpend := w.dpend.filter fun p => s.clock < p.due })

/-- Every live thread of a wave has arrived at the collective point, and runs. -/
def State.waveArrived (s : State) (wid : Nat) : Bool :=
  !(s.liveOf wid).isEmpty && (s.liveOf wid).all fun t => t.status == .live && t.hold == .collective && s.runs t

/-- An instruction whose checks these participants pass, so that it adds a command to the matrix queue (R134, log 131). -/
def State.queuesMatrix (s : State) (ps : List Thread) : Instr → Bool
  | .mzero .. => true
  | .mput _ x => (mputCause x ps).isNone
  | .mdrain _ x =>
    match ps.head? with
    | some t => (match s.recLook t (t.pair x.a) with | .ok r => drainOk r (t.optVal x.c).toNat | _ => false)
    | none => false
  | .mchk .. => true
  | _ => false

/-- A wave stands ready with a command for the matrix queue (R134). -/
def State.waveQueues (s : State) (wid : Nat) : Bool :=
  match (s.liveOf wid).head? with
  | none => false
  | some t =>
    s.waveArrived wid && (s.liveOf wid).all (·.pc == t.pc) && s.holdsEngine t &&
    match s.peek t with
    | some i =>
      (match ctlOf i with
       | some c => let ps := participants c (s.liveOf wid); !ps.isEmpty && s.queuesMatrix ps i
       | none => false)
    | none => false

/-- The arrived members of a convergence register, by quadrant and lane. -/
def State.kThreads (s : State) (core k : Nat) : List Thread :=
  sortBy (fun t => t.loc.quad * 64 + t.loc.lane) ((((s.core core).k.getD k { members := [], arrived := [] }).arrived).filterMap s.thread?)

/-- A register is complete and its check has been made: 20 ac after the last arrival (R144). -/
def State.kReady (s : State) (core k : Nat) : Bool :=
  let r := (s.core core).k.getD k { members := [], arrived := [] }
  r.complete && r.since + 20 * Config.ac ≤ s.clock && (s.kThreads core k).all s.runs

/-- The pass that a ready register's members stand ready to queue (R134, R144): the lowest quadrant that has a participant. -/
def State.kQueues (s : State) (core k : Nat) : Option Nat :=
  let ts := s.kThreads core k
  match ts.head? with
  | none => none
  | some t =>
    let go (c : Ctl) (x : MmaArgs) : Option Nat :=
      match s.mmaFate c x core ts with
      | .push _ => (participants c ts).head?.map (·.loc.quad)
      | _ => none
    if !s.kReady core k || ts.any (·.pc != t.pc) then none
    else
      match s.peek t with
      | some (.mma c x) => go c (Mma.toArgs x)
      | some (.mmas c x) => go c (Mmas.toArgs x)
      | _ => none

/-- A lower-numbered quadrant of the core has a command ready for the queue, which enters first (R134). -/
def State.lowerQueues (s : State) (core quad : Nat) : Bool :=
  (s.waves.any fun w => w.core == core && w.quad < quad && s.waveQueues w.wid) ||
  (List.range 16).any fun k => match s.kQueues core k with | some q => decide (q < quad) | none => false

/-- WAVE_COLLECTIVE_ISSUE (R106, R134): the instruction issues once for the wave, or traps every arrived thread where they stand at
different instructions. A command for the matrix queue waits for an entry, which those of lower-numbered quadrants take first. -/
def execWaveCollectiveIssue (wid : Nat) (s : State) : Host.Outcome State Fault Refusal :=
  if !s.waveArrived wid || s.issue.isSome then .next s
  else
    let ts := s.liveOf wid
    match ts.head? with
    | none => .next s
    | some t =>
      if ts.all (·.pc == t.pc) then
        (if s.waveQueues wid && (!s.matRoom t.loc.core || s.lowerQueues t.loc.core t.loc.quad) then .next s
         else .next { s with issue := some { core := t.loc.core, quad := t.loc.quad, pc := t.pc, uids := ts.map (·.uid), kind := .wave } })
      else .next (s.modThreads (ts.map (·.uid)) fun u => u.trap (s.trapIds u) cCollMismatch u.ilen u.pc)

/-- CONVERGENCE_COMPLETE (R137, R144, R134): 20 ac after the last arrival a complete register's members trap, when they stand at
different instructions, or their collective issues; a pass waits for an entry of the queue, which lower-numbered quadrants take first. -/
def execConvergenceComplete (core k : Nat) (s : State) : Host.Outcome State Fault Refusal :=
  let ts := s.kThreads core k
  match ts.head? with
  | none => .next s
  | some t =>
    if !s.kReady core k || s.issue.isSome then .next s
    else if ts.any fun u => u.pc != t.pc then
      .next ((s.kDone core k).modThreads (ts.map (·.uid)) fun u => u.trap (s.trapIds u) cCollMismatch u.ilen u.pc)
    else
      let waits : Bool := match s.kQueues core k with
        | some q => !s.matRoom core || s.lowerQueues core q
        | none => false
      if waits then .next s
      else .next { s with issue := some { core := core, quad := t.loc.quad, pc := t.pc, uids := ts.map (·.uid), kind := .converge k } }

/-- A thread held by a FUSE passes when every other thread of its wave is held or has exited (R83). A thread that is asleep or
stopped is not held: R268 and R270 name these beside it. -/
def State.fuseAlone (s : State) (t : Thread) : Bool :=
  (s.liveOf t.wid).all fun x => x.uid == t.uid ||
    (x.status == .live && match x.hold with | .free => false | .asleep _ => false | _ => true)

/-- A BWAIT is answered (R180): released by the port, or by the phase as the port holds it once the thread's earlier accesses to the
object performed. -/
def State.barrierWake (s : State) (t : Thread) (key : Nat) (parity checked : Bool) : State :=
  let b := s.barGet key
  match s.woken.find? (·.1 == t.uid) with
  | some w =>
    let s1 := { s with woken := s.woken.filter (·.1 != t.uid) }
    if checked && w.2 then s1.modThread t.uid fun x => x.trap (s.trapIds t) cBarrierPoison t.ilen t.pc
    else s1.modThread t.uid (·.pass s.clock)
  | none =>
  if b.phase == parity || !s.vaultUp key || (s.inflight.any fun a => a.uids.contains t.uid && rangesMeet (a.reads ++ a.writes) [(key, 32)]) then s
  else if s.poisoned key 32 then s.machineCheck [t.uid] cVaultUe t.ilen t.pc
  else if checked && b.last / 2 % 2 == 1 then s.modThread t.uid fun x => x.trap (s.trapIds t) cBarrierPoison t.ilen t.pc
  else s.modThread t.uid (·.pass s.clock)

/-- The participants of a wave's collective that are held in this way. -/
def State.heldMates (s : State) (t : Thread) (h : Hold) : List Nat :=
  ((s.liveOf t.wid).filter fun x => x.hold == h && x.status == .live).map (·.uid)

/-- A YACQ is answered (R184, R315). -/
def State.yacqWake (s : State) (t : Thread) (desc yealm : Nat) : State :=
  let uids := s.heldMates t t.hold
  match s.thatch? desc with
  | none => s.modThreads uids fun x => x.trap (s.trapIds x) cYealmInvalid x.ilen x.pc
  | some _ =>
    if (s.slotOf desc yealm).isSome then (s.pinYealm t.wid desc yealm).passAll uids
    else if (s.requestYealm desc yealm).isNone && s.windowShut (s.lnumOf t) (s.wgIdxOf t) then
      s.modThreads uids fun x => x.trap (s.trapIds x) cYealmWindow x.ilen x.pc
    else s

/-- Whether the condition a thread waits for to issue again is met. -/
def State.retryOk (s : State) (t : Thread) (why : Retry) : Bool :=
  match why with
  | .kbusy k => !((s.core t.homeCore).k.getD k { members := [], arrived := [] }).complete
  | .mqueue => s.matRoom t.homeCore
  | .engine e => decide (s.engQueued t.loc.core e < engCapacity e)
  | .emit lnum =>
    (match s.launch? lnum, (s.launch? (s.lnumOf t)).bind fun l => l.succ.find? (·.lnum == lnum) with
     | some l, some k => l.slotFree k.qcap
     | _, _ => true)
  | .lockRoom => decide (s.lockQueued < 65536)
  | .flags => (List.range 12).all t.flagSet
  | .fault r => !s.mmu.recs.any fun q => q.id == r && !q.closed
  | .swap d y => (s.slotOf d y).isSome || (s.thatch? d).isNone
  | .edit => !s.mmu.ilvEdit
  | .vault k => s.vaultUp k

/-- SLEEP_EXPIRE (R85). -/
def execSleepExpire (uid : Nat) (s : State) : Host.Outcome State Fault Refusal :=
  match s.thread? uid with
  | none => .next s
  | some t =>
    match t.hold with
    | .asleep til => .next (if til ≤ s.clock && s.runs t then s.holdAt uid .free else s)
    | _ => .next s

/-- FUSE_HOLD_EXPIRE (R83, R271). -/
def execFuseHoldExpire (uid : Nat) (s : State) : Host.Outcome State Fault Refusal :=
  match s.thread? uid with
  | none => .next s
  | some t =>
    match t.hold with
    | .fuse til => .next (if til ≤ s.clock && s.runs t then s.modThread uid (·.pass s.clock) else s)
    | _ => .next s

end Sys2Proof.Machine
end

