-- ==== Sys2Proof/Machine/Place.lean ====
section
/-! DEFINITION. Kernel headers (R41), the start of threads (R50, R250), and placement, end and kill of workgroups (R249, R250,
R259, R263, R264, R181, R133), with their events, and the start of a control kernel (R373). -/

namespace Sys2Proof.Machine

/-! Reads by the ridge pair and the workers. -/

/-- Bytes read through translation by the ridge pair or a worker, none where they cannot be read. -/
def State.devRead (s : State) (ctx : Nat) (priv : Bool) (va : DWord) (n : Nat) : Option (List Byte) :=
  match s.mapRanges none ctx priv .read [(va.toNat, n)] with
  | .ok ps =>
    let ks := (List.range n).map fun i => keyIn ps (va.toNat + i)
    if ks.any fun k => s.poisoned k 1 then none else some (ks.map fun k => memGet s.mem k)
  | .error _ => none

/-- A read or write by the ridge pair, a worker or the host waits for the home of what it names (R296, R342, R347, R360). -/
def State.devWaits (s : State) (ctx : Nat) (priv : Bool) (k : AccKind) (va : DWord) (n : Nat) : Bool :=
  match s.mapRanges none ctx priv k [(va.toNat, n)] with
  | .error .held => true
  | .ok ps => !s.homeFree ((List.range n).map fun i => keyIn ps (va.toNat + i)) (k == .write) (ps.any (·.persist))
  | _ => false

/-- n bytes at an offset, little-endian. -/
def field (bs : List Byte) (off n : Nat) : Nat := natOfBytes ((bs.drop off).take n)

/-- The first width list of WIDFIELDS: field j at bits [6j + 5 : 6j]. -/
def widFields (w : Nat) : List Nat := (List.range 6).map fun j => w / 64 ^ j % 64

/-- A kernel header (R41), none where it breaks a rule. -/
def Header.read (addr : Nat) (bs : List Byte) : Option Header :=
  let f := field bs
  let hflags := f 2 2
  let nvreg := f 4 2
  let npred := f 6 1
  let nwave := f 7 1
  let entry : DWord := BitVec.ofNat 64 (f 8 8)
  let codesz := f 0x10 4
  let vaultsz := f 0x14 4
  let trapen := f 0x18 4
  let batch := f 0x1C 2
  let ndecl := f 0x1E 2
  let rolemap := f 0x20 16
  let wid := f 0x30 8
  let decl := f 0x38 8
  let ws := widFields wid
  let full := wid / 2 ^ 36 % 2 == 1
  let used := ws.takeWhile (· != 0)
  if addr % 64 == 0 && bs.length == 64 && f 0 2 == 1 && hflags < 4 &&
      32 ≤ nvreg && nvreg ≤ 256 && nvreg % 8 == 0 && 1 ≤ npred && npred ≤ 96 && 1 ≤ nwave && nwave ≤ 64 &&
      canonical entry && entry.toNat % 32 == 0 && codesz % 32 == 0 && vaultsz % 4096 == 0 && vaultsz ≤ Config.vaultBytes &&
      trapen < 2 ^ 10 && batch ≤ 4096 && rolemap / 4 ^ nwave == 0 && wid / 2 ^ 37 == 0 &&
      (if full then wid % 2 ^ 36 == 0 else (ws.drop used.length).all (· == 0) && used.foldl (· + ·) 0 ≤ 64) &&
      (ndecl != 0 || decl == 0) then
    some { det := hflags % 2 == 1, idem := hflags / 2 == 1, nvreg := nvreg, npred := npred, nwave := nwave, entry := entry
           codesz := codesz, vaultsz := vaultsz, trapen := BitVec.ofNat 32 trapen, emitbatch := batch, ndecl := ndecl
           roles := (List.range nwave).map fun i => rolemap / 4 ^ i % 4, widths := used, full := full
           decl := BitVec.ofNat 64 decl }
  else none

/-- The kernel header at an address, none where it cannot be read or breaks R41. -/
def State.headerAt (s : State) (ctx : Nat) (priv : Bool) (va : DWord) : Option Header :=
  (s.devRead ctx priv va 64).bind fun bs => Header.read va.toNat bs

/-! Threads and waves at their start (R50, R250). -/

/-- A thread at its start. -/
def newThread (uid wid : Nat) (loc : Loc) (h : Header) (argp : DWord) (priv : Bool) (ctx : Nat) : Thread :=
  { uid := uid, wid := wid, loc := loc, home := none, pc := h.entry
    v := ({ val := argp.setWidth 32, tag := 0, scale := 0 } : VReg) :: { val := (argp >>> 32).setWidth 32, tag := 0, scale := 0 } ::
      List.replicate (h.nvreg - 2) VReg.zero
    preds := 0, flags := List.replicate 12 0, sticky := 0, priv := priv, ctx := ctx, retired := 0, lastIssue := none, ready := none
    yielded := false, gave := false, status := .live, hold := .free, setf := 15, ilen := 0, pend := [] }

/-- A wave at its start. -/
def newWave (wid lnum wg idx core quad slot role order : Nat) : Wave :=
  { wid := wid, lnum := lnum, wg := wg, idx := idx, core := core, quad := quad, slot := slot, role := role, order := order
    d := List.replicate 16 (List.replicate 256 0), n := List.replicate 16 0x80000000, dpend := [], dseq := 0
    dlast := List.replicate 16 0, nlast := List.replicate 16 0, cur := none, adv := [], reserved := none, emitted := false
    pins := [], fetches := [], fetchAt := [], fetchTime := none }

/-- A workgroup that waits for its core. -/
def newWg (lnum idx core : Nat) (h : Header) : Wg :=
  { lnum := lnum, idx := idx, core := core, hdr := h, state := .waiting, vaultBase := 0, party := [], released := [], items := []
    draining := false, stopping := none, killed := false, halted := false, haltedAt := 0, haltRec := none, mcheck := false, saved := none }

/-! Room on a core (R249). -/

/-- The workgroups placed on a core. -/
def State.residents (s : State) (core : Nat) : List Wg := s.wgs.filter fun g => g.core == core && g.state == .placed && g.lnum != 0

/-- Slots of a quadrant taken by waves of placed workgroups. -/
def State.slotsUsed (s : State) (core quad : Nat) : List Nat :=
  (s.waves.filter fun w => w.core == core && w.quad == quad &&
    match s.wg? w.lnum w.wg with | some g => g.state == .placed | none => false).map (·.slot)

/-- The slots of a workgroup's waves in their order (R250): each the lowest free of its quadrant. -/
def State.pickSlots (s : State) (core nwave : Nat) : Option (List Nat) :=
  (List.range nwave).foldl (fun acc i =>
    match acc with
    | none => none
    | some sl =>
      let mine := (List.range i).filterMap fun j => if j % 4 == i % 4 then some (sl.getD j 0) else none
      match (List.range 16).find? fun x => !(s.slotsUsed core (i % 4)).contains x && !mine.contains x with
      | some x => some (sl ++ [x])
      | none => none) (some [])

/-- Every lane has registers for a workgroup's waves (R3). -/
def State.lanesFit (s : State) (core : Nat) (h : Header) : Bool :=
  (List.range 4).all fun q =>
    let n := ((List.range h.nwave).filter fun i => i % 4 == q).length * h.nvreg
    n == 0 || (List.range 64).all fun l => s.laneRegs core q l + n ≤ 512

/-- A free range of a core's vault (R249): the lowest (log 27). -/
def State.vaultRange (s : State) (core size : Nat) : Option Nat :=
  if size == 0 then some 0
  else
    let taken := (s.residents core).filterMap fun g => if g.hdr.vaultsz == 0 then none else some (g.vaultBase - vaultBase core, g.hdr.vaultsz)
    let starts := 0 :: taken.map fun r => r.1 + r.2
    (sortBy id starts).find? fun a => a + size ≤ Config.vaultBytes && taken.all fun r => a + size ≤ r.1 || r.1 + r.2 ≤ a

/-- The kernel names a wave of role matrix (R133). -/
def Header.matrix (h : Header) : Bool := h.roles.any (· == 2)

/-- The matrix engine is free and has run out its last holder's commands (R133, R249). -/
def State.engineFree (s : State) (core : Nat) : Bool :=
  let k := s.core core
  k.owner.isNone && k.mqueue.isEmpty && k.mexec.isNone && k.mland.isEmpty && k.drain.isNone && k.mgets.isEmpty

/-- The launch order of the workgroups waiting for a core. -/
def State.firstWaiting (s : State) (core : Nat) : Option Nat :=
  (s.launches.find? fun l => s.wgs.any fun g => g.lnum == l.lnum && g.core == core && g.state == .waiting).map (·.lnum)

/-- A dependent launch's workgroup waits for its predecessor's on the same core (R249, R260). -/
def State.predUnplaced (s : State) (l : Launch) (core : Nat) : Bool :=
  l.pred != 0 && (match s.launch? l.pred with
    | some p => !p.cancelled && s.wgs.any fun g => g.lnum == p.lnum && g.core == core && g.state == .waiting
    | none => false)

/-- Places of a workgroup on its core: the waves' slots and the vault offset; none where R249 is not met. -/
def State.roomFor (s : State) (core : Nat) (h : Header) : Option (List Nat × Nat) :=
  let launches := ((s.residents core).map (·.lnum)).eraseDups
  if launches.length < 4 && s.lanesFit core h && (!h.matrix || s.engineFree core) &&
      s.power.dieState.getD (s.physCore core / 84) 0 == 0 then
    match s.pickSlots core h.nwave, s.vaultRange core h.vaultsz with
    | some sl, some v => some (sl, v)
    | _, _ => none
  else none

/-- The bytes that prepare one declared object (R181, R182). -/
def declBytes (base : Nat) (e : List Byte) : List (Nat × Byte) :=
  let at_ := base + field e 4 4
  if field e 0 1 == 1 then bytesAt at_ 32 0
  else if field e 0 1 == 2 then
    bytesAt at_ 64 (field e 1 1 + field e 2 2 * 2 ^ 16) ++ bytesAt (at_ + 0x40) (64 * field e 1 1) 0
  else []

/-- The entries of a declaration table, none where it cannot be read (R43). -/
def State.declTable (s : State) (ctx : Nat) (priv : Bool) (h : Header) : Option (List (List Byte)) :=
  if h.ndecl == 0 then some []
  else (s.devRead ctx priv h.decl (16 * h.ndecl)).map fun bs => (List.range h.ndecl).map fun i => (bs.drop (16 * i)).take 16

/-- A declaration-table entry passes R43: a kind from 1 to 3, and zeros in the fields that its kind does not use (log 122). -/
def declOk (e : List Byte) : Bool :=
  let kind := field e 0 1
  1 ≤ kind && kind ≤ 3 && (kind == 2 || (field e 1 1 == 0 && field e 2 2 == 0)) && (kind != 3 || field e 4 4 == 0) &&
  (kind == 3 || field e 8 8 == 0)

/-- A core's matrix engine as its holder's workgroup starts (R50, R135, R137). -/
def CoreSt.engineStart (k : CoreSt) (owner : Nat × Nat) : CoreSt :=
  { k with owner := some owner, acc := [], mstat := CoreSt.reset.mstat, inject := [], accBad := [], k := CoreSt.reset.k }

/-- The threads and waves of a workgroup at its placement. -/
def State.seat (s : State) (l : Launch) (g : Wg) (slots : List Nat) (vbase : Nat) : State :=
  let base := s.nextId
  let n := g.hdr.nwave
  let waves := (List.range n).map fun i => newWave (base + i) l.lnum g.idx i g.core (i % 4) (slots.getD i 0) (g.hdr.roles.getD i 0) (base + i)
  let threads := (List.range n).flatMap fun i => (List.range 64).map fun j =>
    newThread (base + n + 64 * i + j) (base + i) { core := g.core, quad := i % 4, lane := j, slot := slots.getD i 0 } g.hdr l.argp l.priv l.ctx
  let s1 := { s with nextId := base + 65 * n, waves := s.waves ++ waves, threads := s.threads ++ threads }
  let s2 := s1.modWg l.lnum g.idx fun x => { x with state := .placed, vaultBase := vbase }
  if g.hdr.matrix then s2.modCore g.core fun k => k.engineStart (l.lnum, g.idx) else s2

/-- WORKGROUP_PLACE (R249, R250, R181): a waiting workgroup is placed whole, in launch order on its core. -/
def execWorkgroupPlace (lnum wg : Nat) (s : State) : Host.Outcome State Fault Refusal :=
  match s.launch? lnum, s.wg? lnum wg with
  | some l, some g =>
    if g.state != .waiting || s.cmd.ridge != .running || s.firstWaiting g.core != some lnum || s.predUnplaced l g.core then .next s
    else
      match s.roomFor g.core g.hdr with
      | none => .next s
      | some (sl, v) =>
        let vb := if g.hdr.vaultsz == 0 then 0 else vaultBase g.core + v
        let s1 := s.seat l g sl vb
        .next (l.objs.foldl (fun s e => s.writeHome (declBytes vb e) false) s1)
  | _, _ => .next s

/-! The end of a workgroup (R263, R259). -/

/-- Nothing of a workgroup is outstanding: memory operations, deferred stores among them (R209), engine commands, drains (R263). -/
def State.wgQuiet (s : State) (lnum idx : Nat) : Bool :=
  let uids := (s.threads.filter fun t => s.lnumOf t == lnum && s.wgIdxOf t == idx).map (·.uid)
  s.settled uids && ((s.launch? lnum).map fun l => !l.deferred.any (·.wg == idx)).getD true && !(s.cmds.any fun c => c.lnum == lnum && c.wg == idx) &&
  !(s.cores.any fun p =>
    (p.2.wcb.any fun l => l.owners.any fun o => uids.contains o.1) ||
    (match p.2.drain with | some d => d.cmd.lnum == lnum && d.cmd.wg == idx | none => false))

/-- The engine is given up: its registers empty, its accumulators discarded (R133). -/
def CoreSt.engineEnd (k : CoreSt) : CoreSt :=
  { k with owner := none, acc := [], mstat := CoreSt.reset.mstat, inject := [], accBad := [], k := CoreSt.reset.k }

/-- WORKGROUP_END (R263, R264): its last thread has exited, and everything it issued has completed. The accumulators stay until
the commands already issued have run out (R133). -/
def execWorkgroupEnd (lnum wg : Nat) (s : State) : Host.Outcome State Fault Refusal :=
  match s.wg? lnum wg with
  | none => .next s
  | some g =>
    let k := s.core g.core
    let busy := k.owner == some (lnum, wg) && !(k.mqueue.isEmpty && k.mexec.isNone && k.mland.isEmpty && k.drain.isNone)
    if g.state != .placed || lnum == 0 || !(s.wgThreads lnum wg).isEmpty || !s.wgQuiet lnum wg || busy then .next s
    else
      let s1 := s.modWg lnum wg fun x => { x with state := .ended, party := [] }
      let s2 := if k.owner == some (lnum, wg) then s1.modCore g.core CoreSt.engineEnd else s1
      .next (s2.launchCheck lnum)

/-- A workgroup is killed (R264): one that is not placed ends at once. -/
def State.killAny (s : State) (lnum wg : Nat) : State :=
  match s.wg? lnum wg with
  | none => s
  | some g =>
    match g.state with
    | .ended => s
    | .placed => (s.killWg lnum wg).launchCheck lnum
    | _ => ((s.killWg lnum wg).modWg lnum wg fun x => { x with state := .ended, saved := none, party := [] }).launchCheck lnum

/-- WORKGROUP_KILL (R264): by the host or the ridge pair. -/
def execWorkgroupKill (lnum wg : Nat) (s : State) : Host.Outcome State Fault Refusal :=
  .next (if lnum == 0 then s else s.killAny lnum wg)

/-! Control kernels (R373). -/

/-- The lowest free slot of a control core: one whose last thread owes no memory operation (R82). -/
def State.controlSlot (s : State) (core : Nat) : Option Nat :=
  (List.range 16).find? fun x => !s.threads.any fun t => t.loc.core == core && t.loc.slot == x && s.keepsSlot t

/-- The one lane of a control core has v registers for n more (R3). -/
def State.controlRoom (s : State) (core n : Nat) : Bool :=
  (s.threads.filter fun t => t.loc.core == core && s.keepsSlot t).foldl (fun k t => k + t.v.length) 0 + n ≤ 512

/-- The read of a control kernel's header waits for its home: an edit of the interleave table (R296), or a core reset (R360). -/
def State.cgoWaits (s : State) : Bool := s.devWaits (s.cmd.csel.toNat / 2 ^ 8 % 16) true .read s.cmd.chdr 64

/-- The start of a control kernel's thread: SYSREG where R373 refuses it, or the lane's registers would pass R3's total (log 123). -/
def State.cgoStart (s : State) : Except Cause State :=
  let sel := s.cmd.csel.toNat
  let core := if sel % 32 == 16 then 688 else 672 + sel % 32
  let ctx := sel / 2 ^ 8 % 16
  if 17 ≤ sel % 32 then .error cSysreg
  else
    match s.headerAt ctx true s.cmd.chdr, s.controlSlot core with
    | some h, some slot =>
      if h.nwave == 1 && h.roles == [0] && h.vaultsz == 0 && h.ndecl == 0 && h.emitbatch == 0 && !h.det && !h.idem && s.controlRoom core h.nvreg then
        let w := s.nextId
        .ok { s with
          nextId := w + 2
          wgs := s.wgs ++ [{ newWg 0 w core h with state := .placed }]
          waves := s.waves ++ [newWave w 0 w 0 core 0 slot 0 w]
          threads := s.threads ++ [newThread (w + 1) w { core := core, quad := 0, lane := 0, slot := slot } h s.cmd.carg true ctx] }
      else .error cSysreg
    | _, _ => .error cSysreg

/-- CORE_CGO (R373). A refused start does nothing. -/
def execCoreCgo (s : State) : Host.Outcome State Fault Refusal :=
  .next (if s.cgoWaits then s else match s.cgoStart with | .ok s1 => s1 | .error _ => s)

end Sys2Proof.Machine
end

