-- ==== Sys2Proof/Machine/Stripe.lean ====
section
/-! DEFINITION. Stripes of a snapshot: which member holds which shard (R348), parity and rebuilding (R349, R351). -/

namespace Sys2Proof.Machine

/-- The ranks that hold stripe j's parity, h from 0 (R348). -/
def parityRanks (gbase k m j : Nat) : List Nat := (List.range m).map fun h => gbase + (j + h) % (k + m)

/-- The ranks that give stripe j its data shards, in increasing rank (R348). -/
def dataRanks (gbase k m j : Nat) : List Nat :=
  ((List.range (k + m)).map (gbase + ·)).filter fun r => !(parityRanks gbase k m j).contains r

/-- Which of its K shards of a round a member gives to stripe j (R348). -/
def shardSlot (gbase k m rank j : Nat) : Nat :=
  ((List.range (k + m)).filter fun x => (dataRanks gbase k m x).contains rank).findIdx (· == j)

/-- A member's shard t of round q of a region; what it lacks reads 0. -/
def shardOf (data : List Byte) (k size q t : Nat) : List Byte :=
  let b := (data.drop (q * k * size + t * size)).take size
  b ++ List.replicate (size - b.length) 0

/-- The shard that a member gives stripe j of round q of region i. -/
def SnapGen.shardFor (g : SnapGen) (rank : Nat) (data : List (List Byte)) (i q j : Nat) : List Byte :=
  shardOf (data.getD i []) g.k g.shard q (shardSlot g.gbase g.k g.m rank j)

/-- Parity h of a stripe's data shards (R349). -/
def parityShard (size h : Nat) (ds : List (List Byte)) : List Byte :=
  (List.range size).map fun b =>
    let col := ds.map fun d => (d.getD b 0).toNat
    BitVec.ofNat 8 (if h == 0 then parityP col else parityQ col)

/-- Rounds of a region (R348): a shorter tail is not protected. -/
def SnapGen.rounds (g : SnapGen) (size : Nat) : Nat := if g.k == 0 then 0 else size / (g.k * g.shard)

/-- The stripes of the group, as region, round and number. -/
def SnapGen.stripes (g : SnapGen) : List (Nat × Nat × Nat) :=
  (List.range g.regions.length).flatMap fun i =>
    (List.range (g.rounds ((g.regions.getD i (0, 0)).2))).flatMap fun q => (List.range (g.k + g.m)).map fun j => (i, q, j)

/-- The data of a member of the group: this package's own, or a peer's; a rank outside the job holds nothing. -/
def SnapGen.memberData (g : SnapGen) (peers : List PeerSnap) (rank : Nat) : List (List Byte) :=
  if rank == g.rank then g.data else ((peers.find? (·.rank == rank)).map (·.data)).getD []

/-- The parity shards that this package holds, from every member's data (R348, R349). -/
def SnapGen.makeParity (g : SnapGen) (peers : List PeerSnap) : List ParityShard :=
  g.stripes.flatMap fun (i, q, j) =>
    (List.range g.m).filterMap fun h =>
      if (parityRanks g.gbase g.k g.m j).getD h 0 != g.rank then none
      else
        let ds := (dataRanks g.gbase g.k g.m j).map fun r => g.shardFor r (g.memberData peers r) i q j
        some { region := i, round := q, stripe := j, h := h, bytes := parityShard g.shard h ds }

/-- Bytes this package writes for a step: its data and its parity shards (R350). -/
def SnapGen.bytes (g : SnapGen) : Nat :=
  (g.data.foldl (fun n d => n + d.length) 0) + g.parity.foldl (fun n p => n + p.bytes.length) 0

/-- The parity shard h of a stripe that a rank holds. -/
def SnapGen.parityAt (g : SnapGen) (peers : List PeerSnap) (rank i q j h : Nat) : Option (List Byte) :=
  let ps := if rank == g.rank then g.parity else ((peers.find? (·.rank == rank)).map (·.parity)).getD []
  (ps.find? fun p => p.region == i && p.round == q && p.stripe == j && p.h == h).map (·.bytes)

/-- This member's shard of a stripe meets uncorrectable data (R353, R354). -/
def SnapGen.shardBad (g : SnapGen) (i q j : Nat) : Bool :=
  let a := (g.regions.getD i (0, 0)).1 + q * g.k * g.shard + shardSlot g.gbase g.k g.m g.rank j * g.shard
  g.bad.any fun l => l * 64 < a + g.shard && a < l * 64 + 64

/-- The data shard of a rank as a survivor gets it: none from a lost member, one that has not answered, or uncorrectable data. -/
def SnapGen.dataAt (g : SnapGen) (peers : List PeerSnap) (lost : List Nat) (rank i q j : Nat) : Option (List Byte) :=
  if lost.contains rank || (rank != g.rank && !peers.any (·.rank == rank)) || (rank == g.rank && g.shardBad i q j) then none
  else some (g.shardFor rank (g.memberData peers rank) i q j)

/-- Data shards of one stripe recovered from the survivors (R349): none when they do not suffice. -/
def SnapGen.recover (g : SnapGen) (peers : List PeerSnap) (lost : List Nat) (i q j : Nat) : Option (List (List Byte)) :=
  let ranks := dataRanks g.gbase g.k g.m j
  let ds := ranks.map fun r => g.dataAt peers lost r i q j
  let par (h : Nat) : Option (List Byte) :=
    match (parityRanks g.gbase g.k g.m j)[h]? with
    | some r => if lost.contains r then none else g.parityAt peers r i q j h
    | none => none
  let cols := (List.range g.shard).map fun b =>
    recoverByte (ds.map fun d => d.map fun x => (x.getD b 0).toNat) ((par 0).map fun x => (x.getD b 0).toNat)
      ((par 1).map fun x => (x.getD b 0).toNat)
  -- a surviving shard that cannot be read ends it, whatever the code could still recover (R353)
  let lacks := ((ranks.zip ds).any fun p => !lost.contains p.1 && p.2.isNone) ||
    (List.range g.m).any fun h => !lost.contains ((parityRanks g.gbase g.k g.m j).getD h 0) && (par h).isNone
  if !lacks && cols.all (·.isSome) then
    some ((List.range ranks.length).map fun t => cols.map fun c => BitVec.ofNat 8 ((c.getD []).getD t 0))
  else none

/-- The data shards that this survivor rebuilds (R351), in increasing stripe index: those of lost members in stripes where it
is the lowest-ranked surviving parity holder. None when a shard of a lost member cannot be rebuilt (R353). -/
def SnapGen.rebuild (g : SnapGen) (peers : List PeerSnap) (lost : List Nat) : Option (List (List Byte)) :=
  g.stripes.foldl (fun acc (i, q, j) =>
    match acc with
    | none => none
    | some out =>
      let ranks := dataRanks g.gbase g.k g.m j
      if !ranks.any (lost.contains ·) then some out
      else
        match g.recover peers lost i q j with
        | none => none
        | some ds =>
          let alive := (parityRanks g.gbase g.k g.m j).filter fun r => !lost.contains r
          if alive.all (g.rank ≤ ·) && alive.contains g.rank then
            some (out ++ (((ranks.zip ds).filter fun p => lost.contains p.1).map (·.2)))
          else some out) (some [])

end Sys2Proof.Machine
end

