-- ==== Sys2Proof/Machine/Snap.lean ====
section
/-! DEFINITION. Device steps and snapshots: STEPADV, CKPT (R220), and the events STEP_ADVANCE, CKPT_SELF_ADVANCE,
CKPT_TIMER_EXPIRE, SWEEP_LINE, FORCED_SAVE, SNAPSHOT_COMPLETE, PERSIST_DRAIN, CKPT_EN_WRITE (R341 to R350). -/

namespace Sys2Proof.Machine

/-! Registers with effects of their own (R341, R345). -/

/-- EN is set: the moment and the step from which the triggers count (R345). -/
def State.enSet (s : State) : State :=
  { s with ckpt := { s.ckpt with lastTime := s.clock, lastStep := s.ckpt.step, timerDue := false } }

/-- Every line of a range gets a tag. -/
def State.retag (s : State) (base size : Nat) (t : Byte) : State :=
  (List.range (size / 64)).foldl (fun s i => s.setTag (s.homed (base + 64 * i) / 64) t) s

/-- RSIZE of region i is written, and the lines of the region retagged (R341). -/
def State.rsizeSet (s : State) (i : Nat) (v : DWord) : State :=
  { s with ckpt := { s.ckpt with rsize := s.ckpt.rsize.set i v } }.retag (s.ckpt.rbase.getD i 0).toNat v.toNat
    ((s.ckpt.step - 1).setWidth 8)

/-- CKPT_EN_WRITE (R345). -/
def execCkptEnWrite (s : State) : Host.Outcome State Fault Refusal :=
  .next ({ s with ckpt := { s.ckpt with en := true } }.enSet)

/-! Step advances (R220, R345). -/

/-- The timer period has elapsed since the last snapshot. -/
def State.timerElapsed (s : State) : Bool :=
  s.ckpt.timer != 0 && s.ckpt.lastTime + s.ckpt.timer * Config.us ≤ s.clock

/-- A CKPT.0 that no snapshot has taken up. -/
def CkptReq.waitsSnap (r : CkptReq) : Bool := !r.mode && r.step.isNone

/-- Whether the advance from the current step is a trigger (R345). A CKPT.0 was accepted with EN set, and makes the next one a trigger (R220,
log 129). -/
def State.trigger (s : State) : Bool :=
  s.ckpt.rolled || s.ckpt.reqs.any (·.waitsSnap) ||
  (s.ckpt.en &&
    ((s.ckpt.nstep != 0 && (s.ckpt.step + 1).toNat % s.ckpt.nstep == 0) || s.ckpt.timerDue || s.timerElapsed || 128 ≤ (s.ckpt.step + 1 - s.ckpt.lastStep).toNat))

/-- CKPT_TIMER_EXPIRE (R345): the next advance is a trigger. -/
def execCkptTimerExpire (s : State) : Host.Outcome State Fault Refusal :=
  .next (if s.timerElapsed then { s with ckpt := { s.ckpt with timerDue := true } } else s)

/-- The step advances, and a trigger starts the sweep of the step that ends (R220, R345). The device's `own` advance for a CKPT.0 always
does, since that request was accepted with EN set (log 129). -/
def State.advance (s : State) (own : Bool := false) : State :=
  let c := s.ckpt
  if own || s.trigger then
    { s with ckpt := { c with
        step := c.step + 1, rolled := false, timerDue := false, lastTime := s.clock, lastStep := c.step + 1, forced := 0
        sweep := some { step := c.step, region := 0, offset := 0, image := [], started := s.clock }
        reqs := c.reqs.map fun (r : CkptReq) => if r.waitsSnap then { r with step := some c.step } else r } }
  else { s with ckpt := { c with step := c.step + 1 } }

/-- A trigger waits for a running sweep (R345). -/
def State.advanceWaits (s : State) : Bool := s.trigger && s.ckpt.sweep.isSome

/-- STEPADV (R220): the thread is held until the step advances. -/
def execStepadv (c : Ctl) (d : Reg) (s : State) : Host.Outcome State Fault Refusal :=
  s.memLanes c fun s t =>
    .ok (if !((s.launch? (s.lnumOf t)).map (·.step)).getD false then s.trapLane t c cPrivilege
         else (s.flushOwn t).modThread t.uid fun x => { x with hold := .stepadv d, setf := c.setf, ilen := c.len.bytes })

/-- A held thread passes STEPADV and receives the new step. -/
def Thread.stepPass (t : Thread) (now : Nat) (v : Word) : Thread :=
  match t.hold with
  | .stepadv d =>
    let t1 := (t.pass now).flagAdd t.setf
    { t1 with pend := t1.pend ++ [{ due := now + 2 * Config.ac, regs := wr1 d v tagINT, preds := []
                                    flag := if t.setf == 15 then none else some t.setf.toNat }] }
  | _ => t

/-- STEP_ADVANCE (R220, R345): every workgroup of a step launch has arrived. -/
def execStepAdvance (lnum : Nat) (s : State) : Host.Outcome State Fault Refusal :=
  let uids := s.launchThreads lnum
  let stepHold : Hold → Bool := fun h => match h with | .stepadv _ => true | _ => false
  if uids.isEmpty || !s.allHeld lnum stepHold || !s.settled uids || s.advanceWaits then .next s
  else
    let s1 := s.advance
    .next (s1.modThreads uids fun t => t.stepPass s.clock s1.ckpt.step)

/-- A launch with the step attribute is resident (R220). -/
def State.stepResident (s : State) : Bool := s.launches.any fun l => l.step && !l.ended

/-- CKPT_SELF_ADVANCE (R220, R345): with no such launch, the device advances the step for a pending CKPT.0, once no sweep runs. -/
def execCkptSelfAdvance (s : State) : Host.Outcome State Fault Refusal :=
  .next (if s.ckpt.reqs.any (·.waitsSnap) && !s.stepResident && s.ckpt.sweep.isNone then s.advance true else s)

/-! The sweep (R346, R347). -/

/-- The rounds of a swept image as the member's own data of the step (R348). -/
def State.makeGen (s : State) (w : Sweep) : SnapGen :=
  let regions := (List.range s.ckpt.nreg).map fun i => ((s.ckpt.rbase.getD i 0).toNat, (s.ckpt.rsize.getD i 0).toNat)
  let g : SnapGen := { step := w.step, gbase := s.ckpt.gbase, k := s.ckpt.k, m := s.ckpt.m, shard := 32 * s.ckpt.shard
                       rank := s.cmd.rank, regions := regions, data := [], bad := [], parity := [], ranks := List.range s.cmd.npkg }
  let line (l : Nat) : List Byte := ((w.image.find? (·.1 == s.homed (l * 64) / 64)).map (·.2.1)).getD (List.replicate 64 0)
  { g with
    data := regions.map fun r =>
      ((List.range (r.2 / 64)).flatMap fun i => line (r.1 / 64 + i)).take (g.rounds r.2 * g.k * g.shard)
    bad := (w.image.filter (·.2.2)).map fun l => s.dpaOf (l.1 * 64) / 64 }

/-- SWEEP_LINE (R346): the line at the cursor is copied unless it was saved already, and the cursor advances; past the last
region the sweep ends. An edit of the interleave table holds it (R296). -/
def execSweepLine (s : State) : Host.Outcome State Fault Refusal :=
  match s.ckpt.sweep with
  | none => .next s
  | some w =>
    if s.ckpt.nreg ≤ w.region then
      .next (if s.ckpt.image.isSome then s
             else { s with ckpt := { s.ckpt with sweep := none, image := some (s.makeGen w) } })
    else if (s.ckpt.rsize.getD w.region 0).toNat ≤ w.offset then
      .next { s with ckpt := { s.ckpt with sweep := some { w with region := w.region + 1, offset := 0 } } }
    else
      let line := s.homed ((s.ckpt.rbase.getD w.region 0).toNat + w.offset) / 64
      let w1 := { w with offset := w.offset + 64 }
      if s.editHolds [line * 64] then .next s
      else if s.oldLine w.step line then
        let bs := (List.range 64).map fun i => memGet s.mem (line * 64 + i)
        let s1 := s.setTag line (w.step.setWidth 8)
        .next { s1 with ckpt := { s1.ckpt with sweep := some { w1 with image := w1.image ++ [(line, bs, s.poison.contains line)] } } }
      else .next { s with ckpt := { s.ckpt with sweep := some w1 } }

/-- FORCED_SAVE (R347): the lines that a held write is about to change are copied. -/
def execForcedSave (id : Nat) (s : State) : Host.Outcome State Fault Refusal :=
  match s.ready? id with
  | none => .next s
  | some a =>
    .next ((linesOf (a.writes.flatMap fun r => (List.range r.2).map fun i => (r.1 + i, (0 : Byte))) 64).foldl
      (fun s l => if s.spaceOf (s.dpaOf (l * 64)) == .hbm then s.forceLine l else s) s)

/-! Completion (R220, R350). -/

/-- The completion record (R350). -/
def ckptRecord (status : Nat) (mode : Bool) (step : Word) (bytes start duration : Nat) : List Byte :=
  bytesOf 4 status ++ bytesOf 4 (if mode then 1 else 0) ++ bytesOf 8 step.toNat ++ bytesOf 8 bytes ++ bytesOf 8 start ++
    bytesOf 8 duration ++ bytesOf 24 0

/-- A CKPT ends or is refused: its record is written as an engine write, and its barrier credited (R220). -/
def State.ckptFinish (s : State) (r : CkptReq) (status : Nat) (step : Word) (bytes : Nat) : State :=
  let bs := ckptRecord status r.mode step bytes (r.issued / Config.ns) ((s.clock - r.issued) / Config.ns)
  s.queueCmd { id := 0, core := r.core, engine := 5, uid := r.uid.getD 0, lnum := 0, wg := 0, ctx := r.ctx, priv := true, setf := 0
               bar := r.bar.getD 0, op := .record r.va bs (status != 0), after := [], written := [], credited := 0, cond := 0
               fault := none, swap := none, data := none, ring := r.ring }

/-- A CKPT request (R220, R350): refused at once while one of its mode runs, or for mode 0 with EN clear. -/
def State.ckptRequest (s : State) (r : CkptReq) : State :=
  if s.ckpt.reqs.any (·.mode == r.mode) then s.ckptFinish r 2 s.ckpt.step 0
  else if !r.mode && !s.ckpt.en then s.ckptFinish r 3 s.ckpt.step 0
  else { s with ckpt := { s.ckpt with reqs := s.ckpt.reqs ++ [r] } }

/-- CKPT (R220): SETF falls when the ridge pair has accepted the request. -/
def execCkpt (c : Ctl) (bar a : Reg) (mode : Bool) (s : State) : Host.Outcome State Fault Refusal :=
  s.memLanes c fun s t =>
    .ok (match s.barOperand t (t.pair bar) with
      | .error e => s.trapLane t c e
      | .ok k =>
        if !s.engAddr (t.pair a) || !s.engAddr (t.pair a + 63) then s.trapLane t c cBadAddress
        else
          let r : CkptReq := { mode := mode, uid := some t.uid, va := t.pair a, bar := some k, ctx := t.ctx, priv := true
                               ring := none, issued := s.clock, step := none, core := t.loc.core }
          ((s.issueMem t c).ckptRequest r).enqueue (Access.blank [t.uid] (.ack true) c.setf t.pc c.len.bytes))

/-- Bytes at consecutive keys. -/
def cellsAt (a : Nat) (bs : List Byte) : List (Nat × Byte) := ((List.range bs.length).zip bs).map fun b => (a + b.1, b.2)

/-- What a generation writes to SCM: its own data shards by region, then the parity shards that it holds (R348). -/
def SnapGen.flat (g : SnapGen) : List Byte := g.data.flatMap id ++ g.parity.flatMap (·.bytes)

/-- Where a generation of n bytes goes in the snapshot area (R348): after its 64 KiB header, or after the generation that holds LASTOK
where that one stands there (log 28); none where the area is not SCM. -/
def State.genPlace (s : State) (n : Nat) : Option Nat :=
  let base := s.ckpt.scmbase.toNat
  let first := base + 0x10000
  let p := match s.ckpt.gens.head? with
    | some k => (match k.place with
      | some q => if first < q + k.bytes && q < first + n then up64 (q + k.bytes) else first
      | none => first)
    | none => first
  if s.spaceOf base == .scm && s.spaceOf (p + n) == .scm then some p else none

/-- The snapshot area header (log 28): the step, and 1. -/
def headerBytes (step : Word) : List Byte := bytesOf 4 step.toNat ++ bytesOf 4 1

/-- What the completion of a snapshot writes: its shards, and then the header that names it (R348, R350). -/
def SnapGen.cells (g : SnapGen) : List (Nat × Byte) :=
  match g.place with
  | none => []
  | some p => cellsAt p g.flat ++ cellsAt g.area (headerBytes g.step)

/-- Pieces of a list with these lengths. -/
def cutBy : List Nat → List Byte → List (List Byte)
  | [], _ => []
  | n :: ns, bs => bs.take n :: cutBy ns (bs.drop n)

/-- A generation as its shards in SCM now are, with what of them is uncorrectable (R348, R353): such a parity shard is not there. -/
def State.genNow (s : State) (g : SnapGen) : SnapGen :=
  match g.place with
  | none => g
  | some p =>
    let sizes := g.data.map (·.length)
    let start (i : Nat) : Nat := p + (sizes.take i).foldl (· + ·) 0
    let par := p + sizes.foldl (· + ·) 0
    let own := cutBy sizes ((List.range (sizes.foldl (· + ·) 0)).map fun i => memGet s.mem (p + i))
    let bad := (List.range sizes.length).flatMap fun i => ((List.range ((sizes.getD i 0 + 63) / 64)).filter fun l =>
      s.poisoned (start i + 64 * l) 64).map fun l => (g.regions.getD i (0, 0)).1 / 64 + l
    let shards := (List.range g.parity.length).filterMap fun i => (g.parity[i]?).bind fun x =>
      let a := par + ((g.parity.take i).map (·.bytes.length)).foldl (· + ·) 0
      if s.poisoned a x.bytes.length then none
      else some { x with bytes := (List.range x.bytes.length).map fun b => memGet s.mem (a + b) }
    { g with data := own, bad := g.bad ++ bad, parity := shards }

/-- Every other member of the stripe group has given its data. A rank outside the job holds nothing. -/
def SnapGen.allHere (g : SnapGen) (peers : List PeerSnap) : Bool :=
  (List.range (g.k + g.m)).all fun i =>
    g.gbase + i == g.rank || g.ranks.length ≤ g.gbase + i || peers.any (·.rank == g.gbase + i)

/-- A swept image with its parity, at its place in the snapshot area. -/
def State.genDone (s : State) (g : SnapGen) (peers : List PeerSnap) : SnapGen :=
  let g1 := { g with parity := g.makeParity peers, area := s.ckpt.scmbase.toNat }
  { g1 with place := s.genPlace g1.bytes }

/-- SNAPSHOT_COMPLETE (R348, R350): every shard of the step is in its holder's persistence domain; `peers` hold what the other
members gave the stripes. The shards go through the persist queue into the snapshot area, and after them the header. LASTOK becomes the
step, and a CKPT.0 that asked for it ends. -/
def execSnapshotComplete (peers : List PeerSnap) (s : State) : Host.Outcome State Fault Refusal :=
  match s.ckpt.image with
  | none => .next s
  | some g =>
    if !g.allHere peers then .next s
    else
    let g1 := s.genDone g peers
    let done := s.ckpt.reqs.filter fun r => !r.mode && r.step == some g.step
    let s1 := { s with ckpt := { s.ckpt with image := none, lastok := g.step, gens := g1 :: s.ckpt.gens.take 1
                                             reqs := s.ckpt.reqs.filter fun r => !(!r.mode && r.step == some g.step) } }
    .next (done.foldl (fun s r => s.ckptFinish r 0 g.step g1.bytes) (s1.putHome g1.cells true))

/-! The persist queue (R342). -/

/-- PERSIST_DRAIN (R342, R347): the oldest entry reaches the SCM media; with the queue empty, an entry of the sweep's staging buffer. -/
def execPersistDrain (s : State) : Host.Outcome State Fault Refusal :=
  match s.pq with
  | [] => .next { s with ckpt := { s.ckpt with sweep := s.ckpt.sweep.map fun w => { w with staged := w.staged - 1 } } }
  | e :: rest => .next ({ s with pq := rest }.persisted [e])

end Sys2Proof.Machine
end

