-- ==== Sys2Proof/Machine/System.lean ====
section
/-! DEFINITION. System registers: SYSRD, SYSWR (R214, R283, R296, R300, R306, R341, R361, R373, R378, R385, R394, R396), the
common trigger STRIG (R220, R361), IDRD, CLKRD (R217, R218, R272), HEAPSET, TLBINV, L1INV (R219, R299), TRET (R216), BRK,
DBGHALT (R86, R221, R283), WEAR, PWRREQ (R222, R397, R398), and the events ILV_EDIT to QFRZ that write registers. -/

namespace Sys2Proof.Machine

/-! The register map. -/

/-- A register's width and privilege marks (R214). `fixed`: SYSWR to it traps (R225). -/
structure SysInfo where
  w64 : Bool
  uRead : Bool := false
  uWrite : Bool := false
  fixed : Bool := false
  deriving DecidableEq, Repr

/-- A register that is no snapshot register; none for an unassigned number. -/
def sysBase (n : Nat) : Option SysInfo :=
  let within (lo k : Nat) : Bool := lo ≤ n && n < lo + k
  if n == 0x010 then some { w64 := false, uRead := true, uWrite := true }
  else if n == 0x013 then some { w64 := true, uRead := true, fixed := true }
  else if n == 0x408 || n == 0x404 then some { w64 := true, uRead := true }
  else if [0x011, 0x012, 0x100, 0x200, 0x300, 0x400, 0x401, 0x402, 0x406, 0x407, 0x530].contains n || within 0x520 8 then
    some { w64 := false, uRead := true }
  else if [0x105, 0x106, 0x350, 0x370, 0x405, 0x40A, 0x40B, 0x40C, 0x700].contains n || within 0x310 64 || within 0x410 16 then
    some { w64 := true }
  else if [0x104, 0x107, 0x108, 0x351, 0x360, 0x361, 0x362, 0x371, 0x403, 0x409, 0x500, 0x5E0, 0x600, 0x601, 0x602, 0x701,
      0x702].contains n || within 0x510 8 || within 0x580 36 || within 0x5B0 36 then some { w64 := false }
  else none

/-- The register a snapshot register copies (R361), by block and index; index 15 is the sequence number. -/
def snapSource (n : Nat) : Option (Nat × Nat) :=
  if 0x100 ≤ n && n < 0x800 && 0xF0 ≤ n % 256 then some (n / 256, n % 16) else none

/-- What a register number names (R214, R361). The sequence number has the privilege of the block's first register. -/
def sysInfo (n : Nat) : Option SysInfo :=
  match snapSource n with
  | none => sysBase n
  | some (b, 15) => some { w64 := false, uRead := 1 ≤ b && b ≤ 4 }
  | some (b, i) => (sysBase (b * 256 + i)).map fun x => { x with uWrite := false }

/-- An access to a register is refused (R214, R225). -/
def sysCheck (t : Thread) (n : Nat) (w64 write : Bool) : Option Cause :=
  match sysInfo n with
  | none => some cSysreg
  | some x =>
    if x.w64 != w64 || (write && x.fixed) then some cSysreg
    else if !t.priv && !(if write then x.uWrite else x.uRead) then some cPrivilege
    else none

/-- The bits of a boolean. -/
def bitIf (b : Bool) (n : Nat) : Nat := if b then 2 ^ n else 0

/-- The value of a 64-bit register from its number. -/
def dw (n : Nat) : DWord := BitVec.ofNat 64 n

/-- CKPT.CTL (R341). -/
def Ckpt.ctl (c : Ckpt) : Nat := bitIf c.en 31 + bitIf c.mcroll 30 + c.nstep * 2 ^ 16 + c.nreg
/-- CKPT.STRIPE (R341). -/
def Ckpt.stripe (c : Ckpt) : Nat := c.gbase * 2 ^ 32 + c.shard * 2 ^ 24 + c.k * 2 ^ 20 + c.m * 2 ^ 18
/-- CKPT.CECNT (R357). -/
def Ckpt.cecnt (c : Ckpt) : Nat := c.cecHbm * 2 ^ 48 + c.cecScm * 2 ^ 32 + c.cecAcc * 2 ^ 16 + c.cecVault

/-- MMU.ILVDAT: V, K, CH of the entry that ILVIDX names (R296). -/
def Mmu.ilvdat (m : Mmu) : Nat := (m.ilvShown m.ilvIdx).toNat
/-- MMU.ILVCTL (R296). -/
def Mmu.ilvctl (m : Mmu) : Nat := (if m.ilvEdit then m.nchEdit else m.nch) * 2 ^ 16 + bitIf m.ilvErr 2 + bitIf m.ilvEdit 0

/-- Every workgroup of DBG.LAUNCH is halted (R283). -/
def State.allHalted (s : State) : Bool :=
  let gs := s.wgs.filter fun g => g.lnum == s.cmd.dbgLaunch.toNat && g.state != .ended
  !gs.isEmpty && gs.all (·.halted)

/-- DBG.CTL (R283). -/
def State.dbgCtl (s : State) : Nat :=
  match s.launch? s.cmd.dbgLaunch.toNat with
  | some l => bitIf s.cmd.qfrz 5 + bitIf s.allHalted 4 + bitIf l.halten 1 + bitIf l.brken 0
  | none => bitIf s.cmd.qfrz 5

/-- MATRIX.ICNT of a core (R136). -/
def CoreSt.icnt (k : CoreSt) : Nat := k.icntRetry * 2 ^ 16 + k.icntCorr

/-- Registers of the executing thread's core, of which there is one per core. -/
def perCore (n : Nat) : Bool := n == 0x108 || n == 0x200

/-- A register that belongs to no thread (R214). CORE.CGO is write-only and reads as 0 (R7). -/
def State.devReg (s : State) (core n : Nat) : DWord :=
  let c := s.ckpt
  let m := s.mmu
  let at64 (xs : List DWord) (i : Nat) : DWord := xs.getD i 0
  if n == 0x100 then s.cmd.bootstat.setWidth 64
  else if n == 0x104 then s.cmd.csel.setWidth 64
  else if n == 0x105 then s.cmd.chdr
  else if n == 0x106 then s.cmd.carg
  else if n == 0x108 then dw (s.core core).htimer
  else if n == 0x200 then dw (s.core core).icnt
  else if 0x310 ≤ n && n < 0x320 then at64 m.ptroot (n - 0x310)
  else if 0x320 ≤ n && n < 0x330 then at64 m.hbase (n - 0x320)
  else if 0x330 ≤ n && n < 0x340 then at64 m.hlimit (n - 0x330)
  else if 0x340 ≤ n && n < 0x350 then at64 m.hoff (n - 0x340)
  else if n == 0x350 then m.fbase
  else if n == 0x351 then m.fctl.setWidth 64
  else if n == 0x360 then dw m.ilvIdx
  else if n == 0x361 then dw m.ilvdat
  else if n == 0x362 then dw m.ilvctl
  else if n == 0x370 then m.winbase
  else if n == 0x371 then m.wincfg.setWidth 64
  else if n == 0x400 then dw c.ctl
  else if n == 0x401 then c.step.setWidth 64
  else if n == 0x402 then c.lastok.setWidth 64
  else if n == 0x403 then dw c.timer
  else if n == 0x404 then dw c.stripe
  else if n == 0x405 then c.scmbase
  else if n == 0x406 then dw (bitIf c.sweep.isSome 31 + c.forced)
  else if n == 0x407 then dw ((s.pq.length + 1023) / 1024)
  else if n == 0x408 then dw c.cecnt
  else if n == 0x409 then dw c.eccthr
  else if n == 0x40A then c.freemap
  else if n == 0x40B then c.spare
  else if n == 0x40C then c.rbld
  else if 0x410 ≤ n && n < 0x420 then at64 (if n % 2 == 0 then c.rbase else c.rsize) ((n - 0x410) / 2)
  else if n == 0x500 then dw (s.power.reserve * 2 ^ 16 + s.power.total)
  else if 0x510 ≤ n && n < 0x518 then dw (s.power.defs.getD (n - 0x510) 0)
  else if 0x520 ≤ n && n < 0x528 then dw (s.power.grants.getD (n - 0x520) 0)
  else if n == 0x530 then dw (s.power.outlet * 2 ^ 16 + s.power.inlet)
  else if 0x580 ≤ n && n < 0x5A4 then (s.link (n - 0x580)).ctl.setWidth 64
  else if 0x5B0 ≤ n && n < 0x5D4 then (s.link (n - 0x5B0)).stat.setWidth 64
  else if n == 0x5E0 then dw s.power.berthr
  else if n == 0x600 then s.cmd.dbgLaunch.setWidth 64
  else if n == 0x601 then dw s.dbgCtl
  else if n == 0x602 then ((s.launch? s.cmd.dbgLaunch.toNat).map (·.brktag.setWidth 64)).getD 0
  else if n == 0x700 then dw Config.trapqBase
  else if n == 0x701 then dw (s.cmd.trapWr % 2 ^ 32)
  else if n == 0x702 then dw (s.cmd.trapRd % 2 ^ 32)
  else 0

/-! The common trigger (R361). -/

/-- The registers that a trigger latches. -/
def latchNums : List Nat :=
  (((List.range 7).flatMap fun b => (List.range 15).map fun i => (b + 1) * 256 + i)).filter fun n => (sysBase n).isSome && n != 0x300

/-- The common trigger: every block latches, and the sequence number rises. -/
def State.latch (s : State) : State :=
  let own := (latchNums.filter perCore).flatMap fun n => s.cores.map fun p => (p.1, n, s.devReg p.1 n)
  let all := (latchNums.filter fun n => !perCore n).map fun n => (0, n, s.devReg 0 n)
  { s with free := s.free + 1, cmd := { s.cmd with snaps := own ++ all, trigger := s.cmd.trigger + 1 } }

/-- A snapshot register (R361). The latch of MMU.CTX, which no thread executes, is a free value (log 29). -/
def State.snapReg (s : State) (core b i : Nat) : DWord :=
  let n := b * 256 + i
  if i == 15 then dw (s.cmd.trigger % 2 ^ 32)
  else if n == 0x300 then Config.freeWord s.cmd.trigger &&& 15
  else ((s.cmd.snaps.find? fun x => x.2.1 == n && x.1 == (if perCore n then core else 0)).map (·.2.2)).getD 0

/-- The base of a thread's workgroup's vault allocation (R225, R250). -/
def State.vaultOf (s : State) (t : Thread) : Nat := ((s.wgOf t).map (·.vaultBase)).getD 0

/-- SYSRD's value (R214). -/
def State.sysRead (s : State) (t : Thread) (n : Nat) : DWord :=
  match snapSource n with
  | some (b, i) => s.snapReg t.loc.core b i
  | none =>
    if n == 0x010 then t.sticky.setWidth 64
    else if n == 0x011 then dw (bitIf t.priv 0)
    else if n == 0x012 then (s.handleOf t.loc).setWidth 64
    else if n == 0x013 then dw (s.vaultOf t)
    else if n == 0x300 then dw t.ctx
    else s.devReg t.loc.core n

/-- SYSRD (R213, R214): tagged RAW, after 2 ac. -/
def execSysrd (c : Ctl) (x : SysArgs) (s : State) : Host.Outcome State Fault Refusal :=
  let s1 := s.issueAll c 2 fun t =>
    match sysCheck t x.num.toNat x.w64 false with
    | some e => .error e
    | none => .ok { regs := wrw x.w64 x.r (s.sysRead t x.num.toNat) tagRAW }
  .next { s1 with free := s1.free + 1 }

/-! Debugger (R283 to R285). -/

/-- HALTREQ (R283): every workgroup of the launch halts, its record carrying all ones for the program counter and the
identifier; the trigger fires. HANDLE, ILEN and STICKY name no thread and are free values (log 6). -/
def State.haltReq (s : State) : State :=
  let gs := s.wgs.filter fun g => g.lnum == s.cmd.dbgLaunch.toNat && g.lnum != 0 && g.state != .ended && !g.halted
  gs.foldl (fun s g =>
    let a := s.takeFree
    let b := a.2.takeFree
    b.2.haltWg g.lnum g.idx (a.1.setWidth 32) ((b.1 &&& 0xFFFF).toNat) (BitVec.allOnes 64)
      (BitVec.allOnes 64, BitVec.ofNat 32 g.lnum) ((b.1 >>> 32).setWidth 32)) s.latch

/-- RESUME of every halted workgroup of DBG.LAUNCH (R285). -/
def State.resumeReq (s : State) : State :=
  (s.wgs.filter fun g => g.lnum == s.cmd.dbgLaunch.toNat && g.lnum != 0).foldl (fun s g => s.resumeWg g.lnum g.idx) s

/-- A write to DBG.CTL (R283): HALTREQ prevails over RESUME. HALTEN and BRKEN stand in a launch with the debug attribute
(R376). -/
def State.dbgWrite (s : State) (v : Nat) : State :=
  let s1 := { s with cmd := { s.cmd with qfrz := v / 32 % 2 == 1 } }
  let s2 := s1.modLaunch s.cmd.dbgLaunch.toNat fun l =>
    if l.debug then { l with halten := v / 2 % 2 == 1, brken := v % 2 == 1 } else l
  if v / 4 % 2 == 1 then s2.haltReq else if v / 8 % 2 == 1 then s2.resumeReq else s2

/-- HALTREQ (R283). -/
def execHaltreq (s : State) : Host.Outcome State Fault Refusal := .next s.haltReq

/-- RESUME (R285). -/
def execResume (s : State) : Host.Outcome State Fault Refusal := .next s.resumeReq

/-- QFRZ (R283). -/
def execQfrz (on : Bool) (s : State) : Host.Outcome State Fault Refusal :=
  .next { s with cmd := { s.cmd with qfrz := on } }

/-- The launch of the first participating thread, and that thread. -/
def State.firstOn (s : State) (c : Ctl) : Option (Thread × Launch) :=
  ((s.onUids c).head?.bind s.thread?).bind fun t => (s.launch? (s.lnumOf t)).map fun l => (t, l)

/-- BRK (R86, R283): with BRKEN it halts the workgroup, reports its tag and fires the trigger. -/
def execBrk (c : Ctl) (tag : Word) (s : State) : Host.Outcome State Fault Refusal :=
  match s.firstOn c with
  | none => .next (s.nopAll c)
  | some (t, l) =>
    if l.brken then .next ((((s.nopAll c).modLaunch l.lnum fun l => { l with brktag := tag }).haltBy t c).latch)
    else .next (s.nopAll c)

/-- DBGHALT (R221, R283). -/
def execDbghalt (c : Ctl) (s : State) : Host.Outcome State Fault Refusal :=
  match s.firstOn c with
  | none => .next (s.nopAll c)
  | some (t, l) => if l.halten then .next (((s.nopAll c).haltBy t c).latch) else .next (s.nopAll c)

/-! Writes. -/

/-- A write restarts a core's timer (R221). -/
def State.htimerSet (s : State) (core period : Nat) : State :=
  s.modCore core fun k => { k with htimer := period % 2 ^ 24, htimerSince := s.clock }

/-- HTIMER_WRITE (R221). -/
def execHtimerWrite (core : Nat) (period : Nat) (s : State) : Host.Outcome State Fault Refusal :=
  .next (s.htimerSet core period)

/-- A core's threads held by HALT.0 go on (R221). -/
def State.wakeHalt0 (s : State) (core : Nat) : State :=
  s.passAll ((s.threads.filter fun t => t.loc.core == core && t.hold == .halt0).map (·.uid))

/-- HTIMER_EVENT (R221): PERIOD microseconds have elapsed; the next period counts on from there. -/
def execHtimerEvent (core : Nat) (s : State) : Host.Outcome State Fault Refusal :=
  let k := s.core core
  let due := k.htimerSince + k.htimer * Config.us
  if k.htimer == 0 || s.clock < due then .next s
  else .next ((s.modCore core fun k => { k with htimerSince := due }).wakeHalt0 core)

/-- The window slots follow WINCFG (R300): NSLOT slots, none while the slot size is 0. -/
def State.setWincfg (s : State) (v : Word) : State :=
  let n := if v.toNat % 2 ^ 16 == 0 then 0 else v.toNat / 2 ^ 20 + 1
  { s with mmu := { s.mmu with wincfg := v }
           thatches := { s.thatches with slots := s.thatches.slots.take n ++ List.replicate (n - s.thatches.slots.length) .empty } }

/-- A write to ILVDAT: to the shadow table while EDIT is set (R296); otherwise nothing changes, since a COMMIT alone replaces T. -/
def Mmu.setIlvdat (m : Mmu) (v : Nat) : Mmu :=
  if m.ilvEdit then
    { m with shadow := (m.ilvIdx, BitVec.ofNat 16 v &&& 0xF1FF) :: m.shadow.filter (·.1 != m.ilvIdx) }
  else m

/-- A write to ILVCTL (R296): EDIT opens the edited table before NCH and COMMIT act on it, and closes it after them. -/
def State.setIlvctl (s : State) (v : Nat) : State :=
  let on := v % 2 == 1
  let s1 := if on then s.ilvSetEdit true else s
  let m := s1.mmu
  let s2 := { s1 with mmu := { m with nchEdit := if m.ilvEdit then v / 2 ^ 16 % 2 ^ 10 else m.nchEdit
                                      ilvErr := m.ilvErr && v / 4 % 2 == 0 } }
  let s3 := if v / 2 % 2 == 1 then s2.ilvDoCommit else s2
  if on then s3 else s3.ilvSetEdit false

/-- Region i would be base and size: within present HBM, apart from the other regions and the window (R341). -/
def State.regionOk (s : State) (i base size : Nat) : Bool :=
  let blocks := (List.range ((base % 2 ^ 21 + size + 2 ^ 21 - 1) / 2 ^ 21)).map fun b => base / 2 ^ 21 + b
  base % 4096 == 0 && size % 64 == 0 &&
  (if size == 0 then base < 0x8000000000 && s.hbmPresent base else
    base + size ≤ 0x8000000000 && blocks.all (fun b => s.hbmPresent (b * 2 ^ 21)) && !s.meetsWindow base size) &&
  (List.range 8).all fun j =>
    let b := (s.ckpt.rbase.getD j 0).toNat
    let n := (s.ckpt.rsize.getD j 0).toNat
    j == i || size == 0 || n == 0 || b + n ≤ base || base + size ≤ b

/-- NREC is a power of two from 64 to 32,768 (R306). -/
def nrecOk (n : Nat) : Bool := [64, 128, 256, 512, 1024, 2048, 4096, 8192, 16384, 32768].contains n

/-- A written value passes the register's checks (R306, R341, R348, R396). -/
def State.sysOk (s : State) (n : Nat) (v : DWord) : Bool :=
  let x := v.toNat
  let rb (i : Nat) : Nat := (s.ckpt.rbase.getD i 0).toNat
  let rs (i : Nat) : Nat := (s.ckpt.rsize.getD i 0).toNat
  let p := s.power
  let sum (ds : List Nat) : Nat := ds.foldl (· + ·) 0
  if n == 0x351 then x / 2 ^ 31 % 2 == 0 || nrecOk (x % 2 ^ 16)
  else if n == 0x400 then x % 16 ≤ 8
  else if n == 0x404 then
    let m := x / 2 ^ 18 % 4
    (m == 1 || m == 2) && x / 2 ^ 32 + x / 2 ^ 20 % 16 + m ≤ s.cmd.npkg
  else if n == 0x405 then x % 65536 == 0
  else if 0x410 ≤ n && n < 0x420 then
    let i := (n - 0x410) / 2
    if n % 2 == 0 then s.regionOk i x (rs i) else s.regionOk i (rb i) x
  else if n == 0x500 then
    let total := x % 2 ^ 16
    let res := x / 2 ^ 16 % 2 ^ 16
    res ≤ total && sum p.defs ≤ total - res
  else if 0x510 ≤ n && n < 0x518 then sum (p.defs.set (n - 0x510) (x % 2 ^ 16)) ≤ p.total - p.reserve
  else true

/-- A register that waits for the end of a sweep (R341). -/
def sweepHeld (n : Nat) : Bool := n == 0x404 || n == 0x405 || (0x410 ≤ n && n < 0x420)

/-- RSIZE_WRITE (R341): a value that a SYSWR would refuse changes nothing; a sweep holds the write back. -/
def execRsizeWrite (i : Nat) (v : DWord) (s : State) : Host.Outcome State Fault Refusal :=
  .next (if i < 8 && s.sysOk (0x411 + 2 * i) v && s.ckpt.sweep.isNone then s.rsizeSet i v else s)

/-- A write to CKPT.CTL (R341, R345). -/
def State.setCkptCtl (s : State) (x : Nat) : State :=
  let on := x / 2 ^ 31 % 2 == 1
  let s1 := { s with ckpt := { s.ckpt with en := on, mcroll := x / 2 ^ 30 % 2 == 1, nstep := x / 2 ^ 16 % 2 ^ 8, nreg := x % 16 } }
  if on && !s.ckpt.en then s1.enSet else s1

/-- A register is written, its checks passed (R214 and the registers' rules). Read-only registers stay. -/
def State.sysApply (s : State) (core n : Nat) (v : DWord) : State :=
  let x := v.toNat
  let c := s.ckpt
  let m := s.mmu
  if n == 0x104 then { s with cmd := { s.cmd with csel := v.setWidth 32 &&& 0xF1F } }
  else if n == 0x105 then { s with cmd := { s.cmd with chdr := v } }
  else if n == 0x106 then { s with cmd := { s.cmd with carg := v } }
  else if n == 0x108 then s.htimerSet core x
  else if 0x310 ≤ n && n < 0x320 then { s with mmu := { m with ptroot := m.ptroot.set (n - 0x310) (v &&& 0x0000FFFFFFFFF001) } }
  else if n == 0x350 then { s with mmu := { m with fbase := v } }
  else if n == 0x351 then { s with mmu := { m with fctl := v.setWidth 32 &&& 0x8000FFFF } }
  else if n == 0x360 then { s with mmu := { m with ilvIdx := x % 4096 } }
  else if n == 0x361 then { s with mmu := m.setIlvdat x }
  else if n == 0x362 then s.setIlvctl x
  else if n == 0x370 then { s with mmu := { m with winbase := v } }
  else if n == 0x371 then s.setWincfg (v.setWidth 32 &&& 0xFFF0FFFF)
  else if n == 0x400 then s.setCkptCtl x
  else if n == 0x401 then { s with ckpt := { c with step := v.setWidth 32 } }
  else if n == 0x402 then { s with ckpt := { c with lastok := v.setWidth 32 } }
  else if n == 0x403 then { s with ckpt := { c with timer := x, timerDue := false } }
  else if n == 0x404 then
    { s with ckpt := { c with gbase := x / 2 ^ 32, shard := x / 2 ^ 24 % 2 ^ 8, k := x / 2 ^ 20 % 16, m := x / 2 ^ 18 % 4 } }
  else if n == 0x405 then { s with ckpt := { c with scmbase := v } }
  else if n == 0x409 then { s with ckpt := { c with eccthr := x % 2 ^ 16 } }
  else if n == 0x40A then { s with ckpt := { c with freemap := v } }
  else if n == 0x40B then { s with ckpt := { c with spare := v } }
  else if n == 0x40C then { s with ckpt := { c with rbld := v } }
  else if 0x410 ≤ n && n < 0x420 then
    let i := (n - 0x410) / 2
    if n % 2 == 0 then { s with ckpt := { c with rbase := c.rbase.set i v } } else s.rsizeSet i v
  else if n == 0x500 then { s with power := { s.power with reserve := x / 2 ^ 16 % 2 ^ 16, total := x % 2 ^ 16 } }
  else if 0x510 ≤ n && n < 0x518 then { s with power := { s.power with defs := s.power.defs.set (n - 0x510) (x % 2 ^ 16) } }
  else if 0x580 ≤ n && n < 0x5A4 then s.modLink (n - 0x580) (·.request (v.setWidth 16))
  else if n == 0x5E0 then { s with power := { s.power with berthr := x % 256 } }
  else if n == 0x600 then { s with cmd := { s.cmd with dbgLaunch := v.setWidth 32 } }
  else if n == 0x601 then s.dbgWrite x
  else if n == 0x702 then { s with cmd := { s.cmd with trapRd := x % 2 ^ 32 } }
  else s

/-- One lane of SYSWR (R214, R341, R373): its effect stands before the thread's next instruction; a write to RSIZE keeps SETF
raised until the lines are retagged. -/
def State.syswrLane (s : State) (c : Ctl) (x : SysArgs) (t : Thread) : State :=
  let n := x.num.toNat
  let v := t.opnd x.w64 x.r
  match sysCheck t n x.w64 true with
  | some e => s.trapLane t c e
  | none =>
    if (snapSource n).isSome then s.passLane t c
    else if !s.sysOk n v then s.trapLane t c cSysreg
    else if n == 0x010 then
      (s.passLane t c).modThread t.uid fun u => { u with sticky := u.sticky &&& ~~~(v.setWidth 32 &&& 0x3FF) }
    else if n == 0x107 then
      if v.getLsbD 0 && s.cgoWaits then s.holdAt t.uid (.retry (if s.mmu.ilvEdit then .edit else .vault s.cmd.chdr.toNat))
      else if v.getLsbD 0 then
        match s.cgoStart with
        | .error e => s.trapLane t c e
        | .ok s1 => s1.passLane t c
      else s.passLane t c
    else if sweepHeld n && s.ckpt.sweep.isSome then
      s.modThread t.uid fun u => { u with hold := .sysWrite n v, setf := c.setf, ilen := c.len.bytes }
    else if 0x410 ≤ n && n < 0x420 && n % 2 == 1 then
      ((s.issueMem t c).sysApply t.loc.core n v).enqueue (Access.blank [t.uid] (.ack false) c.setf t.pc c.len.bytes)
    else (s.passLane t c).sysApply t.loc.core n v

/-- SYSWR (R213, R214). -/
def execSyswr (c : Ctl) (x : SysArgs) (s : State) : Host.Outcome State Fault Refusal :=
  s.memLanes c fun s t => .ok (s.syswrLane c x t)

/-- A thread held by its register write goes on when no sweep runs (R341): the write is made without a new check. -/
def State.sysWriteWake (s : State) (t : Thread) (n : Nat) (v : DWord) : State :=
  if s.ckpt.sweep.isSome then s
  else
    let s1 := (s.modThread t.uid (·.pass s.clock)).sysApply t.loc.core n v
    if 0x410 ≤ n && n < 0x420 && n % 2 == 1 then
      (s1.modThread t.uid (·.flagAdd t.setf)).enqueue (Access.blank [t.uid] (.ack false) t.setf t.pc t.ilen)
    else s1

/-- STRIG (R220): vd receives the sequence number; SETF falls when every block has latched. Several threads of one issue fire one
trigger, and each receives its number (log 142). -/
def execStrig (c : Ctl) (d : Reg) (s : State) : Host.Outcome State Fault Refusal :=
  let on := s.onUids c
  let s1 := if on.isEmpty then s else s.latch
  .next (s1.issueAll c 2 fun _ => .ok { regs := wr1 d (BitVec.ofNat 32 s1.cmd.trigger) tagRAW })

/-! Identities and clocks (R217, R218, R272). -/

/-- The place a thread's logical identity comes from: its home while it has migrated (R217). -/
def Thread.homeLoc (t : Thread) : Loc := t.home.getD t.loc

/-- IDRD's value; none where the selector is privileged and the thread is not. The logical core, die, cluster and workgroup of
a control core are free values (log 22). -/
def State.identity (s : State) (t : Thread) (sel : Nat) (det : Bool) : Option Word :=
  let w := s.waveOf t
  let idx := (w.map (·.idx)).getD 0
  let h := t.homeLoc
  let control := isControl t.loc.core
  let free (n : Nat) : Word := if control then (Config.freeWord s.free).setWidth 32 else BitVec.ofNat 32 n
  let n (x : Nat) : Word := BitVec.ofNat 32 x
  match sel with
  | 0 => some (n h.lane)
  | 1 => some (n (if det then idx % 4 else h.quad))
  | 2 => some (n idx)
  | 3 => some (n (if det then idx / 4 else t.loc.slot))
  | 4 => some (if det then n (s.wgIdxOf t) else free h.core)
  | 5 => some (free (s.dieOf h.core))
  | 6 => some (free (s.clusterOf h.core))
  | 7 => some (n s.cmd.rank)
  | 8 => some (n s.cmd.npkg)
  | 9 => some (n s.enabled.length)
  | 10 => some (free (s.wgIdxOf t))
  | 16 => if t.priv then some (n (s.physCore t.loc.core)) else none
  | 17 => if t.priv then some (n (if control then 8 else s.physCore t.loc.core / 84)) else none
  | 18 => if t.priv then some Config.packageId else none
  | _ => none

/-- IDRD (R217, R272). -/
def execIdrd (c : Ctl) (d : Reg) (sel : BitVec 8) (s : State) : Host.Outcome State Fault Refusal :=
  let s1 := s.issueAll c 2 fun t =>
    match s.identity t sel.toNat (s.isDet t) with
    | some v => .ok { regs := wr1 d v tagRAW }
    | none => .error cPrivilege
  .next { s1 with free := s1.free + 1 }

/-- CLKRD's value (R218); the instruction counts itself among those issued. -/
def State.clockValue (s : State) (t : Thread) (sel : Nat) : DWord :=
  let step := dw (((s.detLaunch t).map (·.superstep)).getD 0)
  let retired := dw (t.retired + 1)
  let logical := s.isDet t && !t.priv
  match sel with
  | 0 => if logical then retired else dw (s.clock / Config.ac)
  | 1 => if logical then step else dw (s.clock / Config.ns)
  | 2 => retired
  | _ => step

/-- CLKRD (R218). -/
def execClkrd (c : Ctl) (d : Reg) (sel : BitVec 2) (s : State) : Host.Outcome State Fault Refusal :=
  .next (s.issueAll c 2 fun t => .ok { regs := wr2 d (s.clockValue t sel.toNat) tagRAW })

/-! Translation and cache controls (R219, R299). -/

/-- A heap triple passes the checks of R299. -/
def State.heapOk (s : State) (x : Word) (base limit off : DWord) : Bool :=
  let b := base.toNat
  let l := limit.toNat
  let plain (a : DWord) : Bool := canonical a && !a.getLsbD 56
  let d := (base + off).toNat
  let blocks := (List.range ((d % 2 ^ 21 + (l - b) + 2 ^ 21 - 1) / 2 ^ 21)).map fun i => d / 2 ^ 21 + i
  x.toNat < 16 && b % 2 ^ 16 == 0 && l % 2 ^ 16 == 0 && off.toNat % 2 ^ 16 == 0 && b ≤ l &&
  (b == l ||
    (plain base && plain (limit - 1) && !(b < Config.vwinEnd && Config.vwin < l) &&
     !(s.thatches.held.any fun t => b < t.vbase + t.nyealm * t.ysize && t.vbase < l) &&
     d + (l - b) ≤ 0x8000000000 && blocks.all fun i => s.hbmPresent (i * 2 ^ 21)))

/-- HEAPSET (R219, R299): the triple changes, and SETF falls, when the ridge pair has it. -/
def execHeapset (c : Ctl) (x : HeapSet) (s : State) : Host.Outcome State Fault Refusal :=
  s.memLanes c fun s t =>
    let base := t.pair x.a
    let limit := t.pair x.b
    let off := t.optPair x.c
    .ok (if !s.heapOk (t.val x.x) base limit off then s.trapLane t c cSysreg
         else (s.issueMem t c).enqueue
           (Access.blank [t.uid] (.heapset (t.val x.x).toNat base limit off) c.setf t.pc c.len.bytes))

/-- TLBINV (R219). -/
def execTlbinv (c : Ctl) (x : TlbInv) (s : State) : Host.Outcome State Fault Refusal :=
  s.memLanes c fun s t =>
    .ok ((s.issueMem t c).enqueue
      (Access.blank [t.uid] (.tlbinv x.mode.toNat t.ctx (t.pair x.a).toNat (t.val x.b).toNat none) c.setf t.pc c.len.bytes))

/-- L1INV (R219). -/
def execL1inv (c : Ctl) (mode : BitVec 2) (s : State) : Host.Outcome State Fault Refusal :=
  s.memLanes c fun s t =>
    .ok (if mode == 3 && !t.priv then s.trapLane t c cPrivilege
         else (s.issueMem t c).enqueue (Access.blank [t.uid] (.l1inv mode.toNat) c.setf t.pc c.len.bytes))

/-! The return from a trap (R216). -/

/-- A KILL by TRET: the workgroup, or a control kernel's one thread (R264, R373). -/
def State.tretKill (s : State) (t : Thread) : State :=
  match s.waveOf t with
  | none => s
  | some w => if w.lnum == 0 then s.endThreads [t.uid] else s.killAny w.lnum w.wg

/-- The placed thread of a handle that is stopped by a trap which has happened, whether or not its record is posted (R216). -/
def State.stoppedBy (s : State) (h : Word) : Option (Thread × TrapRec) :=
  s.threads.findSome? fun t =>
    match t.status, s.wgOf t with
    | .stopped r _, some g => if g.state == .placed && s.handleOf t.loc == h && r.due ≤ s.clock then some (t, r) else none
    | _, _ => none

/-- TRET on a handle (R216): the status and the state after it. Every thread of a machine check's workgroup stays stopped. -/
def State.tret (s : State) (h : Word) (mode : TMode) (goto : DWord) : Word × State :=
  match s.stoppedBy h with
  | none => (1, s)
  | some (t, r) =>
    let mc := 0x40 ≤ r.cause.toNat
    let go (pc : DWord) : Word × State := (0, (s.keepRecord t).modThread t.uid (·.resume pc))
    match mode with
    | .kill => (0, s.tretKill t)
    | .next => if mc || (1 ≤ r.cause.toNat && r.cause.toNat ≤ 3) then (2, s) else go (r.pc + BitVec.ofNat 64 r.ilen)
    | .retry => if mc then (2, s) else go r.pc
    | .goto => if mc || !canonical goto then (2, s) else go goto

/-- TRET (R216): one lane after another; the status is tagged RAW. -/
def execTret (c : Ctl) (x : TRet) (s : State) : Host.Outcome State Fault Refusal :=
  s.memLanes c fun s t =>
    let q := s.tret (t.val x.a) x.mode (t.pair x.b)
    .ok { q.2 with threads := q.2.threads.map fun u =>
      if u.uid == t.uid then q.2.issueLane c 2 (fun _ => .ok { regs := wr1 x.d q.1 tagRAW }) u else u }

/-! Wear and power (R222, R396 to R398). -/

/-- A counter is kept for a unit (R398). -/
def wearKept (unit counter : Nat) : Bool :=
  (unit < 13 || (16 ≤ unit && unit < 32)) &&
  (match counter with
   | 0 => true
   | 1 => true
   | 2 => unit == 8
   | 3 => unit == 8
   | 4 => 16 ≤ unit && unit < 24
   | 5 => true
   | _ => false)

/-- A wear counter, by unit and counter. -/
def Power.counter (p : Power) (unit counter : Nat) : Nat :=
  ((p.wear.find? (·.1 == unit * 16 + counter)).map (·.2)).getD 0

/-- WEAR (R222, R398). -/
def execWear (c : Ctl) (d : Reg) (sel : BitVec 16) (s : State) : Host.Outcome State Fault Refusal :=
  let unit := sel.toNat % 256
  let k := sel.toNat / 256 % 16
  .next (s.issueAll c 2 fun _ =>
    if wearKept unit k then .ok { regs := wr2 d (dw (s.power.counter unit k)) tagRAW } else .error cSysreg)

/-- PWRREQ (R222, R396): the grant comes with the next interval's; on a control core 0 comes after 2 ac. -/
def execPwrreq (c : Ctl) (d a : Reg) (restore : Bool) (s : State) : Host.Outcome State Fault Refusal :=
  s.memLanes c fun s t =>
    .ok (if isControl t.loc.core then
        { s with threads := s.threads.map fun u =>
            if u.uid == t.uid then s.issueLane c 2 (fun _ => .ok { regs := wr1 d 0 tagINT }) u else u }
      else
        let die := s.physCore t.loc.core / 84
        let others := s.power.requests.filter (·.1 != die)
        let s1 := s.issueMem t c
        { s1 with power := { s1.power with
            requests := if restore then others else others ++ [(die, min 600 (t.val a).toNat)]
            waiting := s1.power.waiting ++ [{ uid := t.uid, d := d, die := die, setf := c.setf }] } })

end Sys2Proof.Machine
end

