-- ==== Sys2Proof/Machine/Eligible.lean ====
section
/-! DEFINITION. The eligibility of threads (R26, R28, R266, R270, R271, R275). -/

namespace Sys2Proof.Machine

/-! Classes of instructions. -/

/-- A special-function instruction (R79). -/
def usesSfu : Instr → Bool
  | .frcp .. => true
  | .frsq .. => true
  | .fsqrt .. => true
  | .fexp2 .. => true
  | .flog2 .. => true
  | .fsin .. => true
  | .fcos .. => true
  | .ftanh .. => true
  | .fsigm .. => true
  | _ => false

/-- What R275 holds after any entry: stores, MDRAIN's among them (R153), atomics, fences, releases, barrier arrivals, engine commands. -/
def afterLoad : Instr → Bool
  | .st .. => true
  | .stv .. => true
  | .dst .. => true
  | .atom .. => true
  | .atomc .. => true
  | .red .. => true
  | .fence .. => true
  | .pbar .. => true
  | .barr .. => true
  | .tkadv .. => true
  | .release .. => true
  | .emit .. => true
  | .qunlk .. => true
  | .sstep .. => true
  | .stepadv .. => true
  | .cbar .. => true
  | .copy .. => true
  | .gather .. => true
  | .scatter .. => true
  | .tcopy .. => true
  | .rget .. => true
  | .rput .. => true
  | .cred .. => true
  | .cgath .. => true
  | .cbcst .. => true
  | .mdrain .. => true
  | _ => false

/-- What R275 holds after an entry of a store, atomic or acquire besides: loads. -/
def isLoad : Instr → Bool
  | .ld .. => true
  | .ldv .. => true
  | .dld .. => true
  | _ => false

/-- An instruction whose lanes may take log entries (R274, R275). -/
def takesEntry : Instr → Bool
  | .migr .. => true
  | i => (i.shape.map (·.mem)).getD false

/-- How many of an instruction's register fields, in the order of its shape, are only written. -/
def destCount : Instr → Nat
  | .fetchw .. => 2
  | .nop .. => 0
  | .bra .. => 0
  | .brx .. => 0
  | .ret .. => 0
  | .exit .. => 0
  | .yield .. => 0
  | .fuse .. => 0
  | .waitf .. => 0
  | .sleep .. => 0
  | .trap .. => 0
  | .brk .. => 0
  | .emit .. => 0
  | .gate .. => 0
  | .release .. => 0
  | .migr .. => 0
  | .dst .. => 0
  | .ksign .. => 0
  | .kclr .. => 0
  | .mma .. => 0
  | .mmas .. => 0
  | .mzero .. => 0
  | .mdrain .. => 0
  | .mput .. => 0
  | .errinj .. => 0
  | .st .. => 0
  | .stv .. => 0
  | .pref .. => 0
  | .fence .. => 0
  | .pbar .. => 0
  | .pflush .. => 0
  | .copy .. => 0
  | .gather .. => 0
  | .scatter .. => 0
  | .tcopy .. => 0
  | .binit .. => 0
  | .bexp .. => 0
  | .barr .. => 0
  | .bdrop .. => 0
  | .yacq .. => 0
  | .yrel .. => 0
  | .yhint .. => 0
  | .lnkhint .. => 0
  | .rget .. => 0
  | .rput .. => 0
  | .cred .. => 0
  | .cgath .. => 0
  | .cbcst .. => 0
  | .own .. => 0
  | .syswr .. => 0
  | .heapset .. => 0
  | .tlbinv .. => 0
  | .ckpt .. => 0
  | _ => 1

/-- The operands an instruction reads, with their classes: those of its shape past the written ones, and its guards. -/
def readOps (i : Instr) : List (Reg × Cls) :=
  match i.shape with
  | none => []
  | some sh =>
    let c := sh.ctl
    let g (x : Guard) : Reg × Cls := (x.idx.setWidth 8, .p)
    sh.ops.drop (destCount i) ++ (match sh.srcc with | some (r, cls) => [(r.getD 255, cls)] | none => []) ++
      (match sh.srcd with | some r => [(r.getD 255, v1)] | none => []) ++
      g c.g0 :: (if c.gcomb == .single then [] else [g c.g1])

/-- The number of registers in the run of a BFP block (R61). -/
def bfpRunLen (tag : Byte) : Nat := if tagIsBfp tag then (32 + bfpPer (tag.toNat - 0x20) - 1) / bfpPer (tag.toNat - 0x20) else 1

/-- Runs of registers that an instruction reads and its encoding does not name: their length follows a tag or a record; and FCVT's
destination, whose other elements keep their bits (R61, R102 to R105, R164). -/
def State.readRuns (s : State) (t : Thread) : Instr → List (Reg × Cls)
  | .bfppack _ x => [(x.a, vrun (32 / elemCount (t.reg x.a).tag false))]
  | .bfpunpk _ x => [(x.a, vrun (bfpRunLen (t.reg x.a).tag))]
  | .compress _ x => [(x.a, vrun (if (t.reg x.a).tag == tagF32 || (t.reg x.a).tag == tagINT || (t.reg x.a).tag == tagRAW then 4 else 2))]
  | .expand _ x => [(x.a, vrun (if (t.reg x.a).tag == tagF32 || (t.reg x.a).tag == tagINT || (t.reg x.a).tag == tagRAW then 2 else 1))]
  | .fcvt _ x => [(x.d, x.df.cls)]
  | .stv _ x =>
    match s.recLook t (t.pair x.a) with
    | .ok r => [(x.r, vrun ((x.nm1.toNat + r.perReg) / r.perReg))]
    | _ => []
  | _ => []

/-! Eligibility. -/

/-- A register or predicate has an earlier fixed-latency write that has not landed (R271). -/
def pendingWrite (t : Thread) (w : Option Wave) (o : Reg × Cls) : Bool :=
  let r := o.1.toNat
  match o.2 with
  | .v n _ => r != 255 && t.pend.any fun p => p.regs.any fun x => r ≤ x.1 && x.1 < r + n
  | .p => t.pend.any fun p => p.preds.any (·.1 == r)
  | .d => (w.map fun w => w.dpend.any (·.reg == r)).getD false
  | .nn => (w.map fun w => w.dpend.any fun p => p.reg == r && p.norm.isSome).getD false
  | _ => false

/-- An operand is written by an MGET without SYNC that has not landed, 8 ac after its issue (R152, R271). -/
def State.mgetWrites (s : State) (t : Thread) (o : Reg × Cls) : Bool :=
  match o.2 with
  | .v n _ => o.1 != 255 && (s.core (t.home.getD t.loc).core).mgets.any fun g =>
      !g.sync && g.uids.contains t.uid && g.d != 255 && o.1.toNat < g.d.toNat + g.cnt && g.d.toNat < o.1.toNat + n
  | _ => false

/-- An operand of a thread's instruction has an earlier fixed-latency write that has not landed (R271). -/
def State.operandsWait (s : State) (t : Thread) (i : Instr) : Bool :=
  (readOps i ++ s.readRuns t i).any fun o => pendingWrite t (s.waveOf t) o || s.mgetWrites t o

/-- A thread's accesses that await replay: KIND and whether an acquire (R274, R275, R305). A DLD or DST holds the scalar lane's
thread alone (R130). Every lane of a held merged store counts as one with an entry (log 146). -/
def State.heldKinds (s : State) (uid : Nat) : List (Nat × Bool) :=
  let acq (a : Option Access) : Bool := (a.map (·.acq)).getD false
  (s.mmu.log.filter fun e => e.uid == uid || e.parts.any (·.1 == uid)).map (fun e => (e.kind, acq e.acc)) ++
  (s.thatches.swaps.filter fun w => w.entry.uid == uid).map (fun w => (1, acq w.entry.acc)) ++
  (s.mmu.waiters.filter fun w => !w.flush && w.uid == uid).map fun w => (if w.load then 1 else 2, false)

/-- A thread with entries awaiting replay is held at this instruction (R275). -/
def State.logHeld (s : State) (t : Thread) (i : Instr) : Bool :=
  let ks := s.heldKinds t.uid
  (!ks.isEmpty && afterLoad i) || (isLoad i && ks.any fun k => k.2 || k.1 == 2 || k.1 == 3 || k.1 == 4)

/-- The log condition of R275 for a thread's next instruction. -/
def State.logOk (s : State) (t : Thread) (i : Instr) : Bool :=
  !s.logHeld t i &&
  !(takesEntry i && 1024 < (s.mmu.log.filter fun e => e.core == t.loc.core && e.quad == t.loc.quad).length + 64)

/-- The stall of a thread's next instruction has elapsed (R26); that of a thread that resumed from a trap has. -/
def State.stallOver (s : State) (t : Thread) (stall : BitVec 4) : Bool :=
  match t.lastIssue with
  | some l => l + max 1 stall.toNat * Config.ac ≤ s.clock
  | none => true

/-- The conditions of R266 and R271 but for those on waves of deterministic launches. An instruction that fails a check of order 4
to 9 of R33 has been fetched whole, and the STALL, WAIT and SETF fields of its first parcel hold the thread as R266 says; where no
instruction has been fetched the thread traps 1 ac after its previous issue (log 109). -/
def State.ready (s : State) (t : Thread) : Bool :=
  s.runs t && t.hold == .free &&
  (match s.look t with
   | .ok i _ =>
     (match ctlOf i with
      | none => true
      | some c =>
        s.stallOver t c.stall && t.waitOk c.wait && t.setfRoom c.setf && s.logOk t i && (!s.isDet t || !s.operandsWait t i))
   | .trap e _ _ p =>
     if e == .fetchAlign || e == .illegalLength || e == .fetchCross || e == .cut then s.stallOver t 1
     else s.stallOver t (p.extractLsb' 12 4) && t.waitOk (p.extractLsb' 16 12) && t.setfRoom (p.extractLsb' 28 4)
   | .held => false
   | _ => s.stallOver t 1)

/-! Deterministic waves (R270). -/

/-- The waves of deterministic workgroups on a core, by launch order and wave index. -/
def State.detWaves (s : State) (core : Nat) : List Wave :=
  sortBy (fun w => (s.launches.findIdx (·.lnum == w.lnum)) * 64 + w.idx)
    (s.waves.filter fun w => w.core == core &&
      match s.wg? w.lnum w.wg with | some g => g.hdr.det && g.state == .placed | none => false)

/-- Every live thread of a wave is held, stopped, halted or awaiting replay, or has yielded. -/
def State.waveIdle (s : State) (w : Wave) (yields : Bool) : Bool :=
  (s.liveOf w.wid).all fun t => (yields && t.gave) || !s.runs t || t.hold != .free || !(s.heldKinds t.uid).isEmpty

/-- The running wave of a core. It gives way when it is idle, to the first that is not; yields are then forgotten. When every
wave has yielded the first that is not held runs again. -/
def State.detSwitch (s : State) (core : Nat) : State :=
  let ws := s.detWaves core
  if ws.isEmpty then s
  else
    let stays := match (s.core core).running with
      | some w => ws.any fun x => x.wid == w && !s.waveIdle x true
      | none => false
    if stays then s
    else
      let next := (ws.find? fun w => !s.waveIdle w true) <|> (ws.find? fun w => !s.waveIdle w false)
      let ids := ws.map (·.wid)
      { s.modCore core fun k => { k with running := next.map (·.wid) } with
        threads := (s.modCore core fun k => { k with running := next.map (·.wid) }).threads.map fun t =>
          if ids.contains t.wid then { t with gave := false } else t }

/-- A thread may issue (R266): of a deterministic launch, only in the core's running wave. -/
def State.eligible (s : State) (t : Thread) : Bool :=
  s.ready t && (!s.isDet t || (s.core t.loc.core).running == some t.wid)

/-- The ready stamps follow eligibility (R268). -/
def State.stamp (s : State) : State :=
  { s with threads := s.threads.map fun t =>
      { t with ready := if s.eligible t then some (t.ready.getD s.clock) else none } }

end Sys2Proof.Machine
end

