-- ==== Sys2Proof/Machine/Image.lean ====
section
/-! DEFINITION. The context image of a pre-empted workgroup (R281, R282), the log entry (R274) and the trap record (R215) as
bytes. -/

namespace Sys2Proof.Machine

/-- A trap record as bytes (R215). -/
def TrapRec.bytes (r : TrapRec) (handle : Word) : List Byte :=
  bytesOf 4 handle.toNat ++ [r.cause, r.code] ++ bytesOf 2 r.ilen ++ bytesOf 8 r.pc.toNat ++ bytesOf 8 r.workid.toNat ++
    bytesOf 4 r.launch.toNat ++ bytesOf 4 r.sticky.toNat

/-- Bytes filled with zeros, or cut, to n. -/
def padTo (n : Nat) (bs : List Byte) : List Byte := (bs ++ List.replicate (n - bs.length) 0).take n

/-- TRECB (R281). -/
def trecb (nvreg : Nat) : Nat := up64 (128 + 6 * nvreg)

/-- The waves of a workgroup in index order. -/
def State.wgWaves (s : State) (g : Wg) : List Wave :=
  sortBy (·.idx) (s.waves.filter fun w => w.lnum == g.lnum && w.wg == g.idx)

/-- The thread of a wave in a lane. -/
def State.threadAt (s : State) (wid lane : Nat) : Option Thread :=
  s.threads.find? fun t => t.wid == wid && t.homeLoc.lane == lane

/-- A thread's entry (R282); an exited thread's is zero. -/
def threadEntry (t : Thread) (handle : Word) (rewound : Bool) : List Byte :=
  let live := t.status != .exited
  let rec_ : List Byte := match t.status with
    | .stopped r _ => r.bytes handle
    | _ => []
  let tstate := (if live then 1 else 0) + (if rec_.isEmpty then 0 else 2) + (if rewound then 4 else 0)
  if !live then []
  else
    padTo 0x30 (bytesOf 8 t.pc.toNat ++ bytesOf 4 tstate ++ bytesOf 4 t.sticky.toNat ++ bytesOf 12 t.preds.toNat ++
      t.flags.map (fun n => BitVec.ofNat 8 n) ++ bytesOf 8 t.retired) ++
    padTo 0x50 rec_ ++
    t.v.flatMap (fun v => bytesOf 4 v.val.toNat) ++ t.v.map (·.tag) ++ t.v.map (·.scale)

/-- A wave's entry (R282). -/
def waveEntry (w : Wave) : List Byte :=
  let comps := w.d.flatMap fun r => padTo 512 (r.flatMap fun h => bytesOf 2 h.toNat)
  let norms := w.n.flatMap fun n => bytesOf 4 n.toNat
  let id : DWord := match w.cur <|> w.reserved with | some i => i.id | none => BitVec.allOnes 64
  let bits := ((List.range 4).foldl (fun a i => a + (if w.adv.contains i then 2 ^ i else 0)) 0) +
    (if w.reserved.isSome then 16 else 0)
  padTo 8320 (padTo 0x2000 comps ++ padTo 64 norms ++ bytesOf 8 id.toNat ++ bytesOf 4 bits)

/-- The place of a thread in its workgroup, 64 w + L. -/
def State.memberIndex (s : State) (t : Thread) : Nat := 64 * ((s.waveOf t).map (·.idx)).getD 0 + t.homeLoc.lane

/-- The core section (R282). -/
def State.coreSection (s : State) (core : Nat) : List Byte :=
  let k := s.core core
  let acc := (List.range 8).flatMap fun m => (List.range 64).flatMap fun i => (List.range 64).flatMap fun j =>
    bytesOf 4 (k.accGet m i j).toNat
  let stats := (List.range 8).flatMap fun m => bytesOf 4 (k.stat m).bits.toNat
  let members := k.k.flatMap fun r =>
    let idx := (r.members.filterMap s.thread?).map s.memberIndex
    bytesOf 512 (idx.foldl (fun a i => a + 2 ^ i) 0)
  padTo 0x20040 (acc ++ stats) ++ padTo 8192 members

/-- A party entry (R282). -/
def State.partyEntry (s : State) (p : Party) : List Byte :=
  let unit := match p.unit with
    | .wave wid => 2 ^ 15 + ((s.wave? wid).map (·.idx)).getD 0
    | .thread uid => ((s.thread? uid).map s.memberIndex).getD 0
  let open_ := p.arrived && p.flips.toNat == (s.barGet p.key).flips
  bytesOf 8 p.key ++ bytesOf 4 p.flips.toNat ++ bytesOf 2 unit ++ bytesOf 2 (if open_ then 1 else 0)

/-- A pin entry (R282). -/
def pinEntry (w : Wave) (p : Nat × Nat × Nat) : List Byte :=
  bytesOf 8 p.1 ++ bytesOf 4 p.2.1 ++ bytesOf 2 p.2.2 ++ bytesOf 1 w.idx ++ bytesOf 1 0

/-- An engine descriptor (R282). -/
def EngCmd.entry (c : EngCmd) : List Byte :=
  let raw := c.desc.bind Instr.raw
  let opc := (raw.map (·.opc.toNat)).getD 0
  let w := (raw.map (·.w.toNat)).getD 0
  let done := c.bytes
  padTo 64 (bytesOf 4 opc ++ bytesOf 4 w ++ bytesOf 8 c.bar ++
    padTo 32 (c.args.flatMap fun a => bytesOf 8 a.toNat) ++ bytesOf 4 c.credited ++ bytesOf 4 done)

/-- DATA of a log entry (R274): a store's bytes, or an atomic's operands b and c. -/
def entryData (e : LogEntry) : List Byte :=
  match e.acc.map (fun (a : Access) => a.op) with
  | some (.atomic (lanes := ls) ..) => ls.flatMap fun l => bytesOf 8 l.b.toNat ++ bytesOf 8 l.c.toNat
  | _ => (e.parts.filter (·.1 == e.uid)).flatMap fun p => p.2.map (·.2)

/-- A log entry (R274). -/
def State.logBytes (s : State) (e : LogEntry) : List Byte :=
  let handle : Word := ((s.thread? e.uid).map fun t => s.handleOf t.loc).getD 0
  padTo 64 (bytesOf 4 handle.toNat ++ bytesOf 4 e.seq ++ bytesOf 8 e.pc.toNat ++ padTo 16 ((encode e.instr).getD []) ++
    bytesOf 8 e.addr.toNat ++ padTo 16 (entryData e) ++ bytesOf 1 e.kind ++ bytesOf 1 e.setf.toNat ++ bytesOf 2 e.fcnt)

/-- Log entries of a workgroup. -/
def State.wgLog (s : State) (g : Wg) : List LogEntry :=
  let uids := (s.wgThreads g.lnum g.idx).map (·.uid)
  s.mmu.log.filter fun e => uids.contains e.uid

/-- Engine commands of a workgroup. -/
def State.wgCmds (s : State) (g : Wg) : List EngCmd := s.cmds.filter fun c => c.lnum == g.lnum && c.wg == g.idx

/-- Pins of a workgroup, with their waves. -/
def State.wgPins (s : State) (g : Wg) : List (Wave × Nat × Nat × Nat) :=
  (s.wgWaves g).flatMap fun w => w.pins.map fun p => (w, p)

/-- The workgroup holds its core's matrix engine. -/
def State.ownsEngine (s : State) (g : Wg) : Bool := (s.core g.core).owner == some (g.lnum, g.idx)

/-- Sizes of the sections of R281 in their order, 0 for one that is absent. -/
def State.sectionSizes (s : State) (g : Wg) (kind : Nat) : List Nat :=
  [64 * g.hdr.nwave * trecb g.hdr.nvreg, 8320 * g.hdr.nwave, if s.ownsEngine g then 139328 else 0, up64 (16 * g.party.length),
   up64 (16 * (s.wgPins g).length), if kind == 1 then 0 else 64 * (s.wgCmds g).length, 64 * (s.wgLog g).length, g.hdr.vaultsz]

/-- I of R278: the image's bytes. -/
def State.imageSize (s : State) (g : Wg) (kind : Nat) : Nat := 256 + (s.sectionSizes g kind).foldl (· + ·) 0

/-- The offsets of the sections, 0 for an absent one. -/
def sectionOffsets (sizes : List Nat) : List Nat :=
  (sizes.foldl (fun (a : List Nat × Nat) n => (a.1 ++ [if n == 0 then 0 else a.2], a.2 + n)) ([], 256)).1

/-- The context image (R281, R282). -/
def State.image (s : State) (g : Wg) (kind : Nat) : List Byte :=
  let h := g.hdr
  let sizes := s.sectionSizes g kind
  let part (i : Nat) (bs : List Byte) : List Byte := padTo (sizes.getD i 0) bs
  let step := ((s.launch? g.lnum).map (·.superstep)).getD 0
  let flags := (if s.ownsEngine g then 1 else 0) + (if g.halted then 2 else 0) + (if h.det then 4 else 0)
  let header := bytesOf 2 1 ++ bytesOf 1 kind ++ bytesOf 1 flags ++ bytesOf 4 g.lnum ++ bytesOf 4 g.idx ++ bytesOf 2 h.nvreg ++
    bytesOf 1 h.npred ++ bytesOf 1 h.nwave ++ bytesOf 4 h.vaultsz ++ bytesOf 2 g.party.length ++
    bytesOf 2 (if kind == 1 then 0 else (s.wgCmds g).length) ++ bytesOf 2 (s.wgLog g).length ++ bytesOf 2 (s.wgPins g).length ++
    bytesOf 4 (trecb h.nvreg) ++ bytesOf 8 step ++ (sectionOffsets sizes).flatMap (bytesOf 8)
  let threads := (s.wgWaves g).flatMap fun w => (List.range 64).flatMap fun l =>
    padTo (trecb h.nvreg) (match s.threadAt w.wid l with
      | some t => threadEntry t (s.handleOf t.loc) (kind == 3 && w.reserved.isSome)
      | none => [])
  padTo 256 header ++ part 0 threads ++ part 1 ((s.wgWaves g).flatMap waveEntry) ++
    (if s.ownsEngine g then s.coreSection g.core else []) ++ part 3 (g.party.flatMap s.partyEntry) ++
    part 4 ((s.wgPins g).flatMap fun p => pinEntry p.1 p.2) ++
    (if kind == 1 then [] else (s.wgCmds g).flatMap EngCmd.entry) ++ (s.wgLog g).flatMap s.logBytes ++
    (List.range h.vaultsz).map fun i => memGet s.mem (g.vaultBase + i)

/-! Reading an image back (R54, R280, R282). -/

/-- Bytes of the image at a DPA. -/
def State.areaBytes (s : State) (a n : Nat) : List Byte := (List.range n).map fun i => memGet s.mem (s.homed (a + i))

/-- A number of the image. -/
def State.areaNum (s : State) (a n : Nat) : Nat := natOfBytes (s.areaBytes a n)

/-- The offset of section i, which the image's header gives (R281). -/
def State.sectAt (s : State) (area i : Nat) : Nat := area + s.areaNum (area + 0x28 + 8 * i) 8

/-- A live thread as its entry gives it; tags are taken unchanged, a reserved one too (R54). -/
def State.threadFrom (s : State) (a : Nat) (t : Thread) : Thread :=
  let n := t.v.length
  { t with
    pc := BitVec.ofNat 64 (s.areaNum a 8), sticky := BitVec.ofNat 32 (s.areaNum (a + 0x0C) 4)
    preds := BitVec.ofNat 96 (s.areaNum (a + 0x10) 12), flags := (List.range 12).map fun i => s.areaNum (a + 0x1C + i) 1
    retired := s.areaNum (a + 0x28) 8
    v := (List.range n).map fun r =>
      { val := BitVec.ofNat 32 (s.areaNum (a + 0x80 + 4 * r) 4), tag := BitVec.ofNat 8 (s.areaNum (a + 0x80 + 4 * n + r) 1)
        scale := BitVec.ofNat 8 (s.areaNum (a + 0x80 + 5 * n + r) 1) } }

/-- A wave's directional registers as its entry gives them. -/
def State.waveFrom (s : State) (a : Nat) (w : Wave) : Wave :=
  { w with
    d := (List.range 16).map fun r => (List.range 256).map fun i => BitVec.ofNat 16 (s.areaNum (a + 512 * r + 2 * i) 2)
    n := (List.range 16).map fun r => BitVec.ofNat 32 (s.areaNum (a + 0x2000 + 4 * r) 4) }

/-- A status word without PEND (R135). -/
def MStat.ofBits (x : Word) : MStat :=
  { fail := x.getLsbD 31, inv := x.getLsbD 27, ovf := x.getLsbD 26, unf := x.getLsbD 25, inx := x.getLsbD 24
    retry := x.toNat / 2 ^ 16 % 256, corr := x.toNat / 2 ^ 8 % 256 }

/-- The core's part of an image and its vault bytes, as the image gives them. -/
def State.savedFrom (s : State) (g : Wg) (area : Nat) (v : SavedWg) : SavedWg :=
  let core := s.sectAt area 2
  let acc := (List.range 32768).filterMap fun i =>
    let x := s.areaNum (core + 4 * i) 4
    if x == 0 then none else some (i, BitVec.ofNat 32 x)
  let members (k : Nat) : List Nat :=
    let set := s.areaNum (core + 0x20040 + 512 * k) 512
    (s.threads.filter fun t => s.lnumOf t == g.lnum && s.wgIdxOf t == g.idx && t.status != .exited &&
      set.testBit (s.memberIndex t)).map (·.uid)
  { v with
    acc := if g.hdr.matrix then acc else v.acc
    mstat := if g.hdr.matrix then (List.range 8).map fun m => MStat.ofBits (BitVec.ofNat 32 (s.areaNum (core + 0x20000 + 4 * m) 4))
             else v.mstat
    k := if g.hdr.matrix then (List.range 16).map fun k => { members := members k, arrived := [] } else v.k
    vault := s.areaBytes (s.sectAt area 7) v.vault.length }

/-- Threads and waves of a workgroup take what its image holds. -/
def State.imageBack (s : State) (g : Wg) (area : Nat) : State :=
  let at_ (t : Thread) : Nat := s.sectAt area 0 + trecb g.hdr.nvreg * s.memberIndex t
  { s with
    threads := s.threads.map fun t =>
      if s.lnumOf t == g.lnum && s.wgIdxOf t == g.idx && t.status != .exited then s.threadFrom (at_ t) t else t
    waves := s.waves.map fun w =>
      if w.lnum == g.lnum && w.wg == g.idx then s.waveFrom (s.sectAt area 1 + 8320 * w.idx) w else w }

end Sys2Proof.Machine
end

