-- ==== Sys2Proof/Machine/Preempt.lean ====
section
/-! DEFINITION. Pre-emption (R278 to R280), restore, the end of a CKPT (R350), HALT (R221, R395), and the events PREEMPT,
WORKGROUP_RESTORE, CKPT_COMPLETE. -/

namespace Sys2Proof.Machine

/-! The choice (R278, R279). Times are in 1/336 ns. -/

/-- S of R278: the image at 128 bytes per uc. -/
def State.moveTime (s : State) (g : Wg) (kind : Nat) : Nat := s.imageSize g kind * Config.uc / 128

/-- M of R278: the mean of the last item times, rounded up; none before an item has completed. -/
def Wg.itemTime (g : Wg) : Option Nat :=
  if g.items.isEmpty then none else some ((g.items.foldl (· + ·) 0 + g.items.length - 1) / g.items.length)

/-- A of R278: the age of the oldest current identifier. -/
def State.itemAge (s : State) (g : Wg) : Nat :=
  (s.wgWaves g).foldl (fun a w => match w.cur, w.fetchTime with
    | some _, some x => max a (s.clock - x)
    | _, _ => a) 0

/-- The matrix commands of a workgroup, queued and executing. -/
def State.wgMatrix (s : State) (g : Wg) : List MCmd :=
  let k := s.core g.core
  (k.mqueue ++ k.executing.map (·.cmd) ++ k.drain.toList.map (·.cmd)).filter fun c => c.lnum == g.lnum && c.wg == g.idx

/-- T of a matrix command in ac (R148, R149). -/
def MCmd.arrayTime (c : MCmd) : Nat :=
  match c.kind with
  | .pass p => p.time
  | .put _ t => t
  | _ => 0

/-- An access of a workgroup outside the vault windows is outstanding, one of a thread that has exited too (R82). -/
def State.farAccess (s : State) (g : Wg) : Bool :=
  let uids := (s.threads.filter fun t => s.lnumOf t == g.lnum && s.wgIdxOf t == g.idx).map (·.uid)
  s.inflight.any fun a => a.uids.any (uids.contains ·) && (a.reads ++ a.writes).any fun r => r.1 < Config.vwin

/-- Q of R278. -/
def State.settleTime (s : State) (g : Wg) : Nat :=
  let far := if s.farAccess g then 2000 * Config.ns else 0
  let eng := if (s.wgCmds g).any s.cmdReady then 1000 * Config.ns else 0
  let mat := (s.wgMatrix g).foldl (fun a c => a + (c.arrayTime + 8) * Config.ac) 0
  let mig := if (s.wgThreads g.lnum g.idx).any (·.home.isSome) then 180 * Config.ns + g.hdr.nvreg * Config.ns / 2 else 0
  max (max far eng) (max mat mig)

/-- FLUSH is a candidate (R278). -/
def State.flushable (s : State) (g : Wg) : Bool :=
  g.hdr.idem && (s.wgCmds g).isEmpty && (s.wgWaves g).all fun w => w.cur.isNone || (w.adv.isEmpty && !w.emitted)

/-- The option of R279 for a bound in ns: the cheapest candidate in time, DRAIN before SAVE before FLUSH; else SAVE. -/
def State.preemptKind (s : State) (g : Wg) (bound : Nat) : Nat :=
  let b := bound * Config.ns
  let age := s.itemAge g
  let drain := match g.itemTime with
    | some m => [(1, (m - age) + s.moveTime g 1, 2 * s.moveTime g 1)]
    | none => []
  let flush := if s.flushable g then [(3, s.moveTime g 3, 2 * s.moveTime g 3 + age)] else []
  let fit := (drain ++ [(2, s.settleTime g + s.moveTime g 2, 2 * s.moveTime g 2)] ++ flush).filter fun (c : Nat × Nat × Nat) => c.2.1 ≤ b
  match fit with
  | [] => 2
  | c :: cs => (cs.foldl (fun (best : Nat × Nat × Nat) x => if x.2.2 < best.2.2 then x else best) c).1

/-! Stopping (R280). -/

/-- Arrivals are cleared and queued locks withdrawn (R106, R139, R200, R280): the threads will arrive, or ask, again. -/
def State.withdraw (s : State) (ts : List Thread) : State :=
  let s1 := s.clearArrivals (ts.map (·.uid))
  ts.foldl (fun s t => match t.hold with
    | .lock _ => (s.lockLeave t false).modThread t.uid fun x => { x with hold := .free }
    | _ => s) s1

/-- SAVE begins: nothing issues, arrivals are cleared and queued locks withdrawn, migrated threads return, write-combined lines
leave. -/
def State.startSave (s : State) (lnum idx : Nat) (area : Option Nat) : State :=
  let ts := s.wgThreads lnum idx
  let s1 := ts.foldl (fun s t => s.flushOwn t) (s.withdraw ts)
  let s2 := ts.foldl (fun s t => if t.home.isSome then s.depart t.uid none
    else s.modThread t.uid fun x => match x.hold with | .migrating .. => { x with hold := .free } | _ => x) s1
  s2.modWg lnum idx fun g => { g with stopping := some (2, area), stopAt := if g.stopping.isSome then g.stopAt else s.clock }

/-- The log entries of these threads are dropped and their flag counts removed (R280); a merged store keeps the parts of
other threads. -/
def State.dropEntries (s : State) (uids : List Nat) : State :=
  let heads := s.mmu.log.foldl (fun (acc : List LogEntry) e =>
    if e.kind == 2 && acc.any (fun x => x.kind == 2 && x.grp == e.grp) then acc else acc ++ [e]) []
  let s1 := heads.foldl (fun s e => s.flagFall ((LogEntry.threads e).filter uids.contains) e.setf) s
  { s1 with mmu := { s1.mmu with log := cutEntries uids s1.mmu.log } }

/-- The reads of these threads that wait for a fault or a yealm are dropped. -/
def State.dropWaits (s : State) (uids : List Nat) : State :=
  let mine (w : Waiter) : Bool := uids.contains w.uid
  let swap (w : SwapWait) : Bool := uids.contains w.entry.uid
  let s1 := (s.mmu.waiters.filter mine).foldl (fun s w => s.flagFall w.uids w.setf) s
  let s2 := (s1.thatches.swaps.filter swap).foldl (fun s w =>
    s.flagFall (w.entry.uid :: ((w.entry.acc.map (·.also)).getD [])) w.entry.setf) s1
  { s2 with mmu := { s2.mmu with waiters := s2.mmu.waiters.filter fun w => !mine w }
            thatches := { s2.thatches with swaps := s2.thatches.swaps.filter fun w => !swap w } }

/-- Results in flight to the registers of these threads are discarded: those of loads, atomics and MGET; stores and atomics still perform
(R280). Results of fixed latency and of a DLD land before any state is captured (R79, R118, log 127). -/
def State.dropResults (s : State) (core : Nat) (uids : List Nat) : State :=
  let load (a : Access) : Bool := a.uids.any (uids.contains ·) && match a.op with
    | .load .. => true
    | .ldv .. => true
    | _ => false
  let s1 := (s.inflight.filter load).foldl (fun s a => s.finish a) s
  let mute (a : Access) : Access :=
    match a.op with
    | .atomic key op cas w64 u lanes d tag =>
      { a with op := .atomic key op cas w64 u (lanes.map fun l => { l with quiet := l.quiet || uids.contains l.uid }) d tag }
    | _ => a
  let s2 := { s1 with inflight := s1.inflight.map mute }
  let left (g : MGetPend) : MGetPend := { g with uids := g.uids.filter fun u => !uids.contains u }
  let s3 := (s2.core core).mgets.foldl (fun s g => s.flagFall (g.uids.filter (uids.contains ·)) g.setf) s2
  s3.modCore core fun k => { k with mgets := (k.mgets.map left).filter fun g => !g.uids.isEmpty }

/-- A wave with a current identifier returns to the FETCHW that gave it (R280); a thread on its way home lands there first. -/
def State.rewindWave (s : State) (w : Wave) : State :=
  match w.cur with
  | none => s
  | some i =>
    let uids := ((s.liveOf w.wid).filter (·.status == .live)).map (·.uid)
    let s1 := (((s.dropEntries uids).dropWaits uids).dropResults w.core uids).modThreads uids fun t =>
      match w.fetchAt.find? (·.1 == t.uid) with
      | some f => { t with pc := f.2.1, retired := f.2.2, hold := match t.hold with | .migrating d n => .migrating d n | _ => .free }
      | none => t
    (s1.modWave w.wid fun w => { w with cur := none, adv := [], reserved := some i }).modLaunch w.lnum fun l =>
      { l with deferred := l.deferred.filter fun d => !(d.wg == w.wg && d.rank == i.rank) }

/-- A pre-emption begins. -/
def State.startPreempt (s : State) (g : Wg) (kind : Nat) (area : Option Nat) : State :=
  let mark (s : State) : State := s.modWg g.lnum g.idx fun g => { g with stopping := some (kind, area), stopAt := s.clock, draining := kind == 1 }
  if kind == 1 then mark s
  else if kind == 2 then mark (s.startSave g.lnum g.idx area)
  else mark ((s.wgWaves g).foldl (fun s w => s.rewindWave w) (s.startSave g.lnum g.idx area))

/-- A thread whose next instruction waits for a replay: by R275, or by a flag or the room of its flag while an access of it is held. -/
def State.replayStuck (s : State) (t : Thread) : Bool :=
  !(s.heldKinds t.uid).isEmpty &&
  match s.peek t with
  | some i => !s.logOk t i || (match ctlOf i with | some c => !t.waitOk c.wait || !t.setfRoom c.setf | none => false)
  | none => false

/-- Every thread of a draining workgroup is held: stopped, held at its instruction, or waiting for a FETCHW or a replay; in a halted
workgroup, every one (R284). -/
def State.drained (s : State) (t : Thread) : Bool :=
  t.status != .live || (match s.wgOf t with | some g => g.halted | none => false) ||
  (match t.hold with | .free => false | .asleep _ => false | _ => true) || s.replayStuck t ||
  (match s.waveOf t with
   | some w => w.fetches.any (·.uids.contains t.uid) &&
       (match (s.peek t).bind ctlOf with | some c => !t.waitOk c.wait | none => false)
   | none => false)

/-- The workgroup is still (R280): its accesses, results and matrix commands have completed, its threads are home, and under
DRAIN every thread is held and no engine command is left. -/
def State.wgStill (s : State) (g : Wg) (kind : Nat) : Bool :=
  let all := s.threads.filter fun t => s.lnumOf t == g.lnum && s.wgIdxOf t == g.idx
  let uids := all.map (·.uid)
  let ts := s.wgThreads g.lnum g.idx
  !(s.inflight.any fun a => (a.uids ++ a.also).any (uids.contains ·)) &&
  !(s.cores.any fun p => p.2.wcb.any fun l => l.owners.any fun o => uids.contains o.1) &&
  ts.all (fun t => t.pend.isEmpty && t.home.isNone && match t.hold with | .migrating .. => false | _ => true) &&
  (s.wgWaves g).all (·.dpend.isEmpty) && (s.wgMatrix g).isEmpty &&
  !((s.core g.core).mgets.any fun m => m.lnum == g.lnum && m.wg == g.idx) &&
  (if kind == 1 then ts.all s.drained && (s.wgCmds g).isEmpty else (s.wgWaves g).all fun w => w.fetches.all (·.held))

/-- The lock words that the threads of a workgroup own (R200). -/
def State.ownedLocks (s : State) (ts : List Thread) : List (Nat × Nat) :=
  (s.locks.filter fun l => !s.lockAway l.1).filterMap fun l => (ts.find? fun t => s.ownerCode t == s.lockOwner l.1).map fun t => (l.1, t.uid)

/-- The image is written and the workgroup's places are given up (R280 to R282). -/
def State.saveWg (s : State) (g : Wg) (kind : Nat) (area : Option Nat) : State :=
  let ts := s.wgThreads g.lnum g.idx
  let uids := ts.map (·.uid)
  let s2 : State := (s.withdraw ts).modThreads uids fun t => match t.hold with
    | .asleep _ => { t with hold := .free }
    | .fuse _ => { t with hold := .free }
    | _ => t
  let k := s2.core g.core
  let saved : SavedWg :=
    { kind := kind, area := area, acc := if s2.ownsEngine g then k.acc else [], mstat := if s2.ownsEngine g then k.mstat else []
      k := if s2.ownsEngine g then k.k else []
      vault := (List.range g.hdr.vaultsz).map fun i => memGet s2.mem (g.vaultBase + i), locks := s2.ownedLocks ts }
  let bs : List Byte := s2.image g kind
  let s3 := match area with
    | some a => s2.writeHome (((List.range bs.length).zip bs).map fun (b : Nat × Byte) => (s2.homed (a + b.1), b.2)) false
    | none => s2
  let held := s3.thatches.held.map fun (t : Thatch) =>
    t.unpin fun y => (s3.wgWaves g).foldl (fun n (w : Wave) => n + w.pinCount t.desc y) 0
  -- commands are read and written again from their resume points (R171, R172); the ridge pair is told the latency (R279)
  let cmds := s3.cmds.map fun (c : EngCmd) => if c.lnum == g.lnum && c.wg == g.idx then c.rewound else c
  let told := s3.cmd.preempted ++ [(g.lnum, g.idx, kind, (s3.clock - g.stopAt) + s3.moveTime g kind)]
  let s4 := { s3 with thatches := { s3.thatches with held := held }, cmds := cmds, cmd := { s3.cmd with preempted := told } }
  let s5 := if s4.ownsEngine g then s4.modCore g.core CoreSt.engineEnd else s4
  s5.modWg g.lnum g.idx fun g => { g with state := .saved, stopping := none, draining := false, saved := some saved }

/-- The context save reads an uncorrectable element (R238): the machine check names the workgroup's first thread (log 127), the
accumulators fail, and the workgroup stops where it is. -/
def State.saveFails (s : State) (g : Wg) : State :=
  let bad := (s.core g.core).accBad.map (·.1)
  let s1 := s.modCore g.core fun k =>
    { k with mstat := (List.range k.mstat.length).zip k.mstat |>.map fun p => if bad.contains p.1 then { p.2 with fail := true } else p.2 }
  let s2 := match (s.wgThreads g.lnum g.idx).head? with
    | some t => s1.machineCheck [t.uid] cMatrixAccEcc t.ilen t.pc
    | none => s1
  s2.modWg g.lnum g.idx fun g => { g with stopping := none, draining := false, mcheck := true }

/-- A pre-emption that has become still ends; one whose image goes to HBM waits for the end of an edit (R296). -/
def State.endPreempt (s : State) (g : Wg) : State :=
  match g.stopping with
  | some (kind, area) =>
    if !s.wgStill g kind || (area.isSome && s.mmu.ilvEdit) then s
    else if s.ownsEngine g && !(s.core g.core).accBad.isEmpty then s.saveFails g
    else s.saveWg g kind area
  | none => s

/-- A workgroup that can be pre-empted: placed, with live threads, no machine check, no control kernel. -/
def State.preemptable (s : State) (g : Wg) : Bool :=
  g.state == .placed && g.lnum != 0 && !g.mcheck && !(s.wgThreads g.lnum g.idx).isEmpty

/-- PREEMPT (R278 to R280): of a workgroup not yet stopping, one at a time, it begins; of one that is stopping, it ends when
the workgroup is still. The area is 4,096-byte aligned in HBM (R281). -/
def execPreempt (lnum wg bound area : Nat) (s : State) : Host.Outcome State Fault Refusal :=
  match s.wg? lnum wg with
  | none => .next s
  | some g =>
    if !s.preemptable g then .next s
    else if g.stopping.isSome then .next (s.endPreempt g)
    else if s.cmd.ridge != .running || s.wgs.any (·.stopping.isSome) || area % 4096 != 0 || s.spaceOf area != .hbm then .next s
    else .next (s.startPreempt g (s.preemptKind g bound) (some area))

/-- The area that the ridge pair names for a workgroup's image when it saves every one (R281): 4,096-byte aligned in HBM, apart from the
others' (log 19). -/
def State.imageArea (s : State) (g : Wg) : Nat :=
  (4096 * Config.imagePage + 2 ^ 24 * s.wgs.findIdx fun x => x.lnum == g.lnum && x.idx == g.idx) % (s.mmu.nch * 2 ^ 30 - 2 ^ 24)

/-- Every running workgroup is pre-empted with SAVE, its image going to HBM (R350, R358, R395): those that are still are saved. -/
def State.saveAll (s : State) : State :=
  let gs := s.wgs.filter s.preemptable
  let s1 := gs.foldl (fun s g => match g.stopping with
    | some (2, _) => s
    | some (3, _) => s
    | some (_, a) => (s.startSave g.lnum g.idx (some (a.getD (s.imageArea g)))).modWg g.lnum g.idx fun g => { g with draining := false }
    | none => s.startSave g.lnum g.idx (some (s.imageArea g))) s
  (s1.wgs.filter s1.preemptable).foldl (fun s g => s.endPreempt g) s1

/-- No workgroup is running. -/
def State.allSaved (s : State) : Bool := !s.wgs.any s.preemptable

/-! Restore (R249, R280, R282). -/

/-- The saved workgroup's places: its core, its vault range (log 30), slots. -/
def State.roomAgain (s : State) (g : Wg) : Option (List Nat) :=
  let launches := ((s.residents g.core).map (·.lnum)).eraseDups
  let free := g.hdr.vaultsz == 0 || (s.residents g.core).all fun x =>
    x.hdr.vaultsz == 0 || g.vaultBase + g.hdr.vaultsz ≤ x.vaultBase || x.vaultBase + x.hdr.vaultsz ≤ g.vaultBase
  if free && launches.length < 4 && s.lanesFit g.core g.hdr && (!g.hdr.matrix || s.engineFree g.core) &&
      s.power.dieState.getD (s.physCore g.core / 84) 0 == 0 then s.pickSlots g.core g.hdr.nwave
  else none

/-- Words that saved threads own take their new handles (R200). -/
def State.lockReturn (s : State) (ws : List (Nat × Nat)) : State :=
  ws.foldl (fun s w => match s.thread? w.2 with
    | some t => s.lockPut w.1 (s.ownerCode t) (s.lockQueue w.1)
    | none => s) s

/-- The workgroup's threads and waves take their new slots; a stopped thread's record will be posted again. Its waves keep their order of
placement (log 145). -/
def State.reseat (s : State) (g : Wg) (slots : List Nat) : State :=
  let slot (wid : Nat) : Nat := match s.wave? wid with | some w => slots.getD w.idx 0 | none => 0
  let mine (wid : Nat) : Bool := match s.wave? wid with | some w => w.lnum == g.lnum && w.wg == g.idx | none => false
  { s with
    threads := s.threads.map fun t => if mine t.wid then
      { t with loc := { t.loc with slot := slot t.wid }, lastIssue := none, ready := none
               status := match t.status with | .stopped r _ => .stopped r false | x => x } else t
    waves := s.waves.map fun w => if mine w.wid then { w with slot := slots.getD w.idx 0 } else w }

/-- The pins of a saved workgroup: those whose yealm is not resident are asked for (R315). -/
def State.askPins (s : State) (g : Wg) : State :=
  (s.wgPins g).foldl (fun s p => if (s.thatch? p.2.1).isSome then (s.requestYealm p.2.1 p.2.2.1).getD s else s) s

/-- Every pinned yealm of a thatch that is still held is resident. -/
def State.pinsReady (s : State) (g : Wg) : Bool :=
  (s.wgPins g).all fun p => (s.thatch? p.2.1).isNone || (s.slotOf p.2.1 p.2.2.1).isSome

/-- The pins are taken again. -/
def State.repin (s : State) (g : Wg) : State :=
  (s.wgPins g).foldl (fun s p => s.modThatch p.2.1 fun t =>
    { t with pins := if t.pins.any (·.1 == p.2.2.1) then t.pins.map fun q => if q.1 == p.2.2.1 then (q.1, q.2 + p.2.2.2) else q
                     else t.pins ++ [(p.2.2.1, p.2.2.2)] }) s

/-- Entries and waiters whose record was covered while the workgroup was saved are tried again. -/
def State.retryClosed (s : State) (g : Wg) : Except Fault State :=
  let shut (r : Nat) : Bool := s.mmu.recs.any fun q => q.id == r && q.closed
  let uids := (s.wgThreads g.lnum g.idx).map (·.uid)
  match replayEntries ((s.mmu.log.filter fun e => uids.contains e.uid && shut e.frec).map (·.id)) s with
  | .error e => .error e
  | .ok s1 => replayWaiters (s1.mmu.waiters.filter fun w => uids.contains w.uid && shut w.frec) s1

/-- WORKGROUP_RESTORE (R280, R282): a saved workgroup is placed again as its image gives it; the parts of an image without an area
are those kept (log 19). No injection is armed again (log 139). -/
def execWorkgroupRestore (lnum wg : Nat) (s : State) : Host.Outcome State Fault Refusal :=
  match s.wg? lnum wg with
  | none => .next s
  | some g =>
    match g.state, g.saved with
    | .saved, some v =>
      if s.cmd.ridge != .running || s.cmd.quiesced || !s.power.retiring.isEmpty || (v.area.isSome && s.mmu.ilvEdit) then .next s
      else if !s.pinsReady g then .next (s.askPins g)
      else
        match s.roomAgain g with
        | none => .next s
        | some slots =>
          let x := match v.area with | some a => s.savedFrom g a v | none => v
          let s0 := match v.area with | some a => s.imageBack g a | none => s
          let s1 := (s0.reseat g slots).modWg lnum wg fun g => { g with state := .placed, saved := none }
          let s2 := s1.writeHome (((List.range x.vault.length).zip x.vault).map fun b => (g.vaultBase + b.1, b.2)) false
          let s3 := if g.hdr.matrix then s2.modCore g.core fun k =>
              { k with owner := some (lnum, wg), acc := x.acc, mstat := x.mstat, k := x.k, inject := [], accBad := [] }
            else s2
          outcomeOf (((s3.lockReturn v.locks).repin g).retryClosed g)
    | _, _ => .next s

/-! The end of a CKPT (R220, R350). -/

/-- What CKPT.1 copies: present HBM, every vault, and the dirty lines of the ridge cache. -/
def State.wholeImage (s : State) : List Host.Cell :=
  s.mem.filter fun c => s.spaceOf (s.dpaOf c.1) == .hbm || s.spaceOf c.1 == .vault || s.dirty.contains (c.1 / 256)

/-- The end of the present HBM addresses: NCH GiB, or beyond it the last re-homed block (R358). -/
def State.hbmSpan (s : State) : Nat := s.mmu.rehome.foldl (fun n r => max n ((r.1 + 1) * 2 ^ 21)) (s.mmu.nch * 2 ^ 30)

/-- Bytes of a CKPT.1: present HBM, the vaults, the dirty lines (R350). -/
def State.wholeBytes (s : State) : Nat :=
  s.mmu.nch * 2 ^ 30 + (s.mmu.rehome.filter fun r => s.mmu.nch * 2 ^ 30 ≤ r.1 * 2 ^ 21).length * 2 ^ 21 +
    s.enabled.length * Config.vaultBytes + s.dirty.length * 256

/-- The SCM checkpoint area (R350): it follows the generations of the snapshot area (log 28); none where SCMBASE names no SCM. -/
def State.wholeAt (s : State) : Option Nat :=
  let base := s.ckpt.scmbase.toNat
  let ends := s.ckpt.gens.filterMap fun g => g.place.map (· + g.bytes)
  let w := (ends.foldl max (base + 0x10000) + 0xFFFF) / 0x10000 * 0x10000
  let n := s.hbmSpan + s.enabled.length * Config.vaultBytes + s.dirty.length * 256
  if s.spaceOf base == .scm && s.spaceOf (w + n) == .scm then some w else none

/-- The copy itself: HBM by its own addresses, a re-homed block's contents under the block's, then the vaults, then the dirty lines; SCMWR
counts its bytes (R398). -/
def State.copyWhole (s : State) : State :=
  match s.wholeAt with
  | none => s
  | some w =>
    let vaults := w + s.hbmSpan
    let lines := vaults + s.enabled.length * Config.vaultBytes
    let cells := s.wholeImage.map fun c =>
      if Config.vwin ≤ c.1 then (vaults + (c.1 - Config.vwin), c.2)
      else if s.spaceOf (s.dpaOf c.1) == .hbm then (w + s.dpaOf c.1, c.2)
      else (lines + 256 * s.dirty.findIdx (· == c.1 / 256) + c.1 % 256, c.2)
    let put (m : List Host.Cell) : List Host.Cell := memSets (memClear m w (lines + s.dirty.length * 256 - w)) cells
    { s with mem := put s.mem, media := put s.media, power := s.power.scmRange w s.wholeBytes }

/-- CKPT_COMPLETE (R220, R350): a CKPT.1 saves every workgroup, then copies the device to SCM and ends; without one, a CKPT.0
that has begun ends when it failed. -/
def execCkptComplete (failed : Bool) (s : State) : Host.Outcome State Fault Refusal :=
  match s.ckpt.reqs.find? (·.mode) with
  | some r =>
    let s1 := s.saveAll
    if !s1.allSaved then .next s1
    else
      let bytes := s1.wholeBytes
      let s2 := { s1 with ckpt := { s1.ckpt with reqs := s1.ckpt.reqs.filter fun x => !x.mode
                                                 whole := if failed then s1.ckpt.whole else s1.wholeImage } }
      .next ((if failed then s2 else s2.copyWhole).ckptFinish r (if failed then 1 else 0) s2.ckpt.step bytes)
  | none =>
    if !failed then .next s
    else
      match s.ckpt.reqs.find? fun r => !r.mode && r.step.isSome with
      | none => .next s
      | some r =>
        let s1 := { s with ckpt := { s.ckpt with image := none, sweep := none
                                                 reqs := s.ckpt.reqs.filter fun x => !(!x.mode && x.step == r.step) } }
        .next (s1.ckptFinish r 1 (r.step.getD 0) 0)

/-! HALT (R221, R395). -/

/-- HALT: .0 waits for an event of its core; .1 quiesces the device, on the ridge pair only. -/
def execHalt (c : Ctl) (mode : Bool) (s : State) : Host.Outcome State Fault Refusal :=
  s.memLanes c fun s t =>
    .ok (if !mode then s.modThread t.uid fun x => { x with hold := .halt0, setf := c.setf, ilen := c.len.bytes }
         else if t.loc.core != 688 then s.trapLane t c cPrivilege
         else
           let s1 := s.modThread t.uid fun x => { x with hold := .quiesce, setf := c.setf, ilen := c.len.bytes }
           let rings := s1.cmd.rings.map fun (r : Ring) => { r with frozen := true }
           State.saveAll { s1 with cmd := { s1.cmd with quiesced := true, rings := rings } })

/-- The wear counters enter NVM (R398). -/
def Power.saveWear (p : Power) (clock : Nat) : Power := { p with wearSaved := p.wear, savedAt := p.held + clock }

/-- Pending training records enter NVM (R392, R395): a record's older copy gives way. -/
def State.writeRecords (s : State) : State :=
  let put (rs : List (Nat × List TrainRec)) (p : Nat × TrainRec) : List (Nat × List TrainRec) :=
    let old := ((rs.find? (·.1 == p.1)).map (·.2)).getD []
    (p.1, (p.2 :: old).take 2) :: rs.filter (·.1 != p.1)
  let power := s.power
  { s with nvm := { s.nvm with records := power.recsDue.foldl put s.nvm.records }, power := { power with recsDue := [] } }

/-- The quiesce of R395 goes on: workgroups saved, the sweep and the persist queue drained, counters and pending training records saved, READY_OFF. -/
def State.quiesceWake (s : State) (t : Thread) : State :=
  let s1 := s.saveAll
  if !s1.allSaved || s1.ckpt.sweep.isSome || !s1.pq.isEmpty || s1.ckpt.reqs.any (·.mode) then s1
  else
    let s2 : State := { s1.writeRecords with power := { s1.writeRecords.power.saveWear s1.clock with readyOff := true }
                                             cmd := { s1.cmd with outbox := s1.cmd.outbox ++ [.readyOff] } }
    s2.modThread t.uid (·.pass s.clock)

end Sys2Proof.Machine
end

