-- ==== Sys2Proof/Machine/Held.lean ====
section
/-! DEFINITION. HELD_THREAD_WAKE (R265, R266); YEALM_STREAM_START (R313) with the pre-emption of pin holders (R315). -/

namespace Sys2Proof.Machine

/-- HELD_THREAD_WAKE (R265): a held thread's condition is tested, and when it is met the thread passes the instruction, or
issues it again. -/
def execHeldThreadWake (uid : Nat) (s : State) : Host.Outcome State Fault Refusal :=
  match s.thread? uid with
  | none => .next s
  | some t =>
    let pass : State := s.modThread uid (·.pass s.clock)
    if !s.runs t then .next s
    else
      match t.hold with
      | .fuse _ => .next (if s.fuseAlone t then pass else s)
      | .waitf mem => .next (if s.waitfOk t mem then pass else s)
      | .barrier k p c => .next (s.barrierWake t k p c)
      | .ticket seq =>
        .next (match (s.waveOf t).bind (·.cur), s.launch? (s.lnumOf t) with
          | some i, some l => if s.ticketsClear l i.rank seq then s.passAll (s.heldMates t t.hold) else s
          | _, _ => s)
      | .gate g => .next (if s.gateClear (s.lnumOf t) g then pass else s)
      | .lock dpa => .next (s.lockGrant dpa)
      | .yacq d y => .next (s.yacqWake t d y)
      | .sysWrite n v => .next (s.sysWriteWake t n v)
      | .quiesce => .next (s.quiesceWake t)
      | .retry why => .next (if s.retryOk t why then s.holdAt uid .free else s)
      | _ => .next s

/-! Requests without a slot (R315). -/

/-- The requests that find neither a free slot nor a candidate, with the workgroup that asks. -/
def State.starved (s : State) : List ((Nat × Nat) × (Nat × Nat)) :=
  s.asked.filter fun p => (s.thatch? p.1.1).isSome && (s.requestYealm p.1.1 p.1.2).isNone

/-- The workgroups, other than the one that asks, that hold pins on the lowest-PRIO thatch with such pins; of equal PRIO the thatch
held earliest, as in R314. -/
def State.pinHolders (s : State) (lnum wg : Nat) : List Wg :=
  let others := s.wgs.filter fun g => g.state == .placed && !(g.lnum == lnum && g.idx == wg)
  let pinned (t : Thatch) (g : Wg) : Bool := (s.wgPins g).any fun p => p.2.1 == t.desc
  match (sortBy (·.prio) (s.thatches.held.filter fun t => others.any (pinned t))).head? with
  | none => []
  | some t => others.filter (pinned t)

/-- The ridge pair pre-empts the pin holders with SAVE, unless a candidate only waits for a load (R289). -/
def State.forcePins (s : State) : State :=
  if s.cmd.ridge != .running || s.unpinned.any (fun c => s.slotRead c.1) then s
  else
    s.starved.foldl (fun s p => (s.pinHolders p.2.1 p.2.2).foldl (fun s g =>
      if s.preemptable g && g.stopping.isNone && !s.wgs.any (fun x => x.lnum == g.lnum && x.idx == g.idx && x.stopping.isSome)
      then s.startSave g.lnum g.idx none else s) s) s

/-- The requests that will find no candidate, since no other workgroup holds a pin. A YACQ among them traps by itself. -/
def State.shutOut (s : State) : List ((Nat × Nat) × (Nat × Nat)) :=
  (s.starved.filter fun p => s.windowShut p.2.1 p.2.2).filter fun p =>
    !s.threads.any fun t => t.hold == .yacq p.1.1 p.1.2 && s.lnumOf t == p.2.1 && s.wgIdxOf t == p.2.2

/-- They are tried again, and are refused: a read traps, an engine command is cancelled, a peer is told so. -/
def State.askAgain (s : State) : Except Fault State :=
  let hit (d y lnum wg : Nat) : Bool := s.shutOut.contains ((d, y), (lnum, wg))
  let s1 : State := { s with
    threads := s.threads.map fun t => match t.hold with
      | .retry (.swap d y) => if hit d y (s.lnumOf t) (s.wgIdxOf t) then { t with hold := .free } else t
      | _ => t
    cmds := s.cmds.map fun c => match c.swap with
      | some p => if hit p.1 p.2 c.lnum c.wg then { c with swap := none } else c
      | none => c }
  let ws := s1.thatches.swaps.filter fun w => match s.thread? w.entry.uid with
    | some t => hit w.desc w.yealm (s.lnumOf t) (s.wgIdxOf t)
    | none => false
  (replaySwaps ws s1).bind fun s2 =>
    serveAgain (s2.cmd.remote.filter fun w => match w.swap with | some p => hit p.1 p.2 0 (2 ^ 64) | none => false) s2

/-- YEALM_STREAM_START (R313): the head of the queue begins to stream, or with an empty queue and a free slot the
lowest-indexed yealm of a loaded thatch that is in no slot. One stream runs at a time. Requests
without a slot first have the pin holders pre-empted, or are refused (R315). -/
def execYealmStreamStart (s : State) : Host.Outcome State Fault Refusal :=
  let s1 := s.giveSlots.forcePins
  if !s1.shutOut.isEmpty then outcomeOf s1.askAgain
  else if s1.streaming.isSome then .next s1
  else
    match s1.thatches.queue with
    | (d, y) :: rest =>
      let s2 := { s1 with thatches := { s1.thatches with queue := rest } }
      match (List.range s2.thatches.slots.length).find? fun n => s2.thatches.slots.getD n .empty == .reserved d y with
      | some n => .next (s2.setSlot n (.filling d y))
      | none => .next s2
    | [] =>
      match s1.freeSlot, (s1.thatches.held.filter (·.loaded)).findSome? (fun t =>
          ((List.range t.nyealm).find? fun y => !s1.inSlots t.desc y).map fun y => (t.desc, y)) with
      | some n, some (d, y) => .next (s1.setSlot n (.filling d y))
      | _, _ => .next s1

end Sys2Proof.Machine
end

