-- ==== Sys2Proof/Machine/Integer.lean ====
section
/-! DEFINITION. Integer, bitwise, move and address instructions, class 0x1 (R88 to R93). -/

namespace Sys2Proof.Machine

/-- A two-source integer operation that checks tags (R88), element by element: `f` gives the low bits and a condition. -/
def Thread.intBin (t : Thread) (x : IntBin) (ok : Byte → Bool) (f : (w a b : Nat) → Nat × Word) : LaneRes :=
  (resolveTags tagINT ok ((t.reg x.a).tag :: t.srcTags x.b)).map fun tag =>
    let w := elemWidth tag x.w64
    let a := elems w (elemCount tag x.w64) (t.opnd x.w64 x.a)
    outElems x.d tag x.w64 ((a.zip (t.srcElems x.b tag x.w64)).map fun (p, q) => f w p q)

/-- A one-source integer operation that checks tags (R88). -/
def Thread.intUn (t : Thread) (x : IntUn) (f : (w a : Nat) → Nat) : LaneRes :=
  (resolveTags tagINT (okInt x.w64) [(t.reg x.a).tag]).map fun tag =>
    let w := elemWidth tag x.w64
    outElems x.d tag x.w64 ((elems w (elemCount tag x.w64) (t.opnd x.w64 x.a)).map fun p => (f w p, 0))

/-- An exact integer narrowed to w bits, clamped with SAT (R88). -/
def satWrap (u sat : Bool) (w : Nat) (v : Int) : Nat :=
  let lo : Int := if u then 0 else -((2 ^ (w - 1) : Nat) : Int)
  let hi : Int := if u then (2 ^ w : Nat) - 1 else (2 ^ (w - 1) : Nat) - 1
  toBits w (if sat then max lo (min hi v) else v)

/-- IADD per element (R88). -/
def iaddElem (x : IntBin) (w a b : Nat) : Nat × Word := (satWrap x.u x.sat w (asInt x.u w a + asInt x.u w b), 0)
/-- ISUB per element (R88). -/
def isubElem (x : IntBin) (w a b : Nat) : Nat × Word := (satWrap x.u x.sat w (asInt x.u w a - asInt x.u w b), 0)

def execIadd (c : Ctl) (x : IntBin) (s : State) : Host.Outcome State Fault Refusal :=
  .next (s.issueAll c 2 fun t => t.intBin x (okInt x.w64) (iaddElem x))

def execIsub (c : Ctl) (x : IntBin) (s : State) : Host.Outcome State Fault Refusal :=
  .next (s.issueAll c 2 fun t => t.intBin x (okInt x.w64) (isubElem x))

def execImul (c : Ctl) (x : IntBin) (s : State) : Host.Outcome State Fault Refusal :=
  .next (s.issueAll c 4 fun t => t.intBin x okINT fun w a b => (a * b % 2 ^ w, 0))

def execImulh (c : Ctl) (x : IntBin) (s : State) : Host.Outcome State Fault Refusal :=
  .next (s.issueAll c 4 fun t => t.intBin x okINT fun w a b =>
    (toBits w (asInt x.u w a * asInt x.u w b / ((2 ^ w : Nat) : Int)), 0))

/-- IMAD (R88): three tag-checked operands, an absent addend being vz. -/
def Thread.imad (t : Thread) (x : IntTern) : LaneRes :=
  (resolveTags tagINT okINT ((t.reg x.a).tag :: t.srcTags x.b ++ [(t.optReg x.c).tag])).map fun tag =>
    let v := t.opnd x.w64 x.a * t.srcBits x.b x.w64 + t.opnd x.w64 (x.c.getD 255)
    outReg x.w64 x.d v tag

def execImad (c : Ctl) (x : IntTern) (s : State) : Host.Outcome State Fault Refusal :=
  .next (s.issueAll c 4 fun t => t.imad x)

/-- Latency of IDIV and IREM (R79). -/
def divLat (x : IntBin) : Nat := if x.w64 then 40 else 24

def execIdiv (c : Ctl) (x : IntBin) (s : State) : Host.Outcome State Fault Refusal :=
  .next (s.issueAll c (divLat x) fun t => t.intBin x okINT fun w a b =>
    ((idivrem x.u w a b).1, (idivrem x.u w a b).2.2))

def execIrem (c : Ctl) (x : IntBin) (s : State) : Host.Outcome State Fault Refusal :=
  .next (s.issueAll c (divLat x) fun t => t.intBin x okINT fun w a b =>
    ((idivrem x.u w a b).2.1, (idivrem x.u w a b).2.2))

def execImin (c : Ctl) (x : IntBin) (s : State) : Host.Outcome State Fault Refusal :=
  .next (s.issueAll c 2 fun t => t.intBin x (okInt x.w64) fun w a b =>
    (if asInt x.u w b < asInt x.u w a then b else a, 0))

def execImax (c : Ctl) (x : IntBin) (s : State) : Host.Outcome State Fault Refusal :=
  .next (s.issueAll c 2 fun t => t.intBin x (okInt x.w64) fun w a b =>
    (if asInt x.u w a < asInt x.u w b then b else a, 0))

def execIabs (c : Ctl) (x : IntUn) (s : State) : Host.Outcome State Fault Refusal :=
  .next (s.issueAll c 2 fun t => t.intUn x fun w a => satWrap false x.sat w (signExt w a).natAbs)

def execIneg (c : Ctl) (x : IntUn) (s : State) : Host.Outcome State Fault Refusal :=
  .next (s.issueAll c 2 fun t => t.intUn x fun w a => satWrap false x.sat w (-(signExt w a)))

/-! Bitwise, shift and count instructions check no tag (R90). -/

/-- AND, OR, XOR (R90): the tag and side scale of va. -/
def Thread.bitBin (t : Thread) (x : IntBin) (f : DWord → DWord → DWord) : LaneRes :=
  let a := t.reg x.a
  .ok { regs := wrw x.w64 x.d (f (t.opnd x.w64 x.a) (t.srcBits x.b x.w64)) a.tag a.scale }

def execLand (c : Ctl) (x : IntBin) (s : State) : Host.Outcome State Fault Refusal :=
  .next (s.issueAll c 2 fun t => t.bitBin x (· &&& ·))

def execLor (c : Ctl) (x : IntBin) (s : State) : Host.Outcome State Fault Refusal :=
  .next (s.issueAll c 2 fun t => t.bitBin x (· ||| ·))

def execLxor (c : Ctl) (x : IntBin) (s : State) : Host.Outcome State Fault Refusal :=
  .next (s.issueAll c 2 fun t => t.bitBin x (· ^^^ ·))

def execLnot (c : Ctl) (x : IntUn) (s : State) : Host.Outcome State Fault Refusal :=
  .next (s.issueAll c 2 fun t =>
    .ok { regs := wrw x.w64 x.d (~~~(t.opnd x.w64 x.a)) (t.reg x.a).tag (t.reg x.a).scale })

/-- Bits of the operand (R90). -/
def bitWidth (w64 : Bool) : Nat := if w64 then 64 else 32

/-- A shift or rotate (R90): `f` takes the width, the value and the count. The result is INT with side scale 0. -/
def Thread.shift (t : Thread) (x : IntBin) (f : (w a n : Nat) → Nat) : LaneRes :=
  let v := f (bitWidth x.w64) (t.opnd x.w64 x.a).toNat (t.srcWord x.b).toNat
  .ok (outReg x.w64 x.d (BitVec.ofNat 64 v) tagINT)

def execShl (c : Ctl) (x : IntBin) (s : State) : Host.Outcome State Fault Refusal :=
  .next (s.issueAll c 2 fun t => t.shift x fun w a n => if w ≤ n then 0 else a * 2 ^ n % 2 ^ w)

def execShr (c : Ctl) (x : IntBin) (s : State) : Host.Outcome State Fault Refusal :=
  .next (s.issueAll c 2 fun t => t.shift x fun w a n => if w ≤ n then 0 else a / 2 ^ n)

def execSar (c : Ctl) (x : IntBin) (s : State) : Host.Outcome State Fault Refusal :=
  .next (s.issueAll c 2 fun t => t.shift x fun w a n => toBits w (signExt w a / ((2 ^ min n w : Nat) : Int)))

def execRot (c : Ctl) (x : IntBin) (s : State) : Host.Outcome State Fault Refusal :=
  .next (s.issueAll c 2 fun t => t.shift x fun w a n => a * 2 ^ (n % w) % 2 ^ w + a / 2 ^ (w - n % w))

/-- Mask of a field (R91). -/
def fieldMask (len pos : Nat) : Nat := (2 ^ len - 1) * 2 ^ pos

def execBfe (c : Ctl) (x : BitField) (s : State) : Host.Outcome State Fault Refusal :=
  .next (s.issueAll c 2 fun t =>
    let f := (t.opnd x.w64 x.a).toNat / 2 ^ x.pos.toNat % 2 ^ x.len.toNat
    let v := if x.s then toBits 64 (signExt x.len.toNat f) else f
    .ok (outReg x.w64 x.d (BitVec.ofNat 64 v) tagINT))

def execBfi (c : Ctl) (x : BitField) (s : State) : Host.Outcome State Fault Refusal :=
  .next (s.issueAll c 2 fun t =>
    let m := BitVec.ofNat 64 (fieldMask x.len.toNat x.pos.toNat)
    let v := (t.opnd x.w64 x.b &&& ~~~m) ||| ((t.opnd x.w64 x.a <<< x.pos.toNat) &&& m)
    .ok (outReg x.w64 x.d v tagINT))

/-- Number of 1 bits among the low n. -/
def popCount (n : Nat) (v : DWord) : Nat := ((List.range n).filter fun i => v.getLsbD i).length

/-- Leading zeros of n bits. -/
def leadingZeros (n : Nat) (v : DWord) : Nat :=
  ((List.range n).find? fun i => v.getLsbD (n - 1 - i)).getD n

/-- Bits reversed within n. -/
def bitReverse (n : Nat) (v : DWord) : Nat :=
  (List.range n).foldl (fun a i => 2 * a + (if v.getLsbD i then 1 else 0)) 0

def execPopc (c : Ctl) (x : IntUn) (s : State) : Host.Outcome State Fault Refusal :=
  .next (s.issueAll c 2 fun t =>
    .ok { regs := wr1 x.d (BitVec.ofNat 32 (popCount (bitWidth x.w64) (t.opnd x.w64 x.a))) tagINT })

def execClz (c : Ctl) (x : IntUn) (s : State) : Host.Outcome State Fault Refusal :=
  .next (s.issueAll c 2 fun t =>
    .ok { regs := wr1 x.d (BitVec.ofNat 32 (leadingZeros (bitWidth x.w64) (t.opnd x.w64 x.a))) tagINT })

def execBrev (c : Ctl) (x : IntUn) (s : State) : Host.Outcome State Fault Refusal :=
  .next (s.issueAll c 2 fun t =>
    .ok (outReg x.w64 x.d (BitVec.ofNat 64 (bitReverse (bitWidth x.w64) (t.opnd x.w64 x.a))) tagINT))

/-- ISETP (R92): INT and RAW, resolving to INT. -/
def Thread.isetp (t : Thread) (x : ISetp) : LaneRes :=
  (resolveTags tagINT okINT ((t.reg x.a).tag :: t.srcTags x.b)).map fun _ =>
    { preds := wrp x.p (icondHolds x.cond (bitWidth x.w64) (t.opnd x.w64 x.a).toNat (t.srcBits x.b x.w64).toNat) }

def execIsetp (c : Ctl) (x : ISetp) (s : State) : Host.Outcome State Fault Refusal :=
  .next (s.issueAll c 2 fun t => t.isetp x)

/-- SEL (R93): an absent ps is pt; an immediate has tag RAW. -/
def Thread.sel (t : Thread) (x : SelArgs) : LaneOut :=
  if t.pred (x.ps.getD 127).toNat then
    { regs := wrw x.w64 x.d (t.opnd x.w64 x.a) (t.reg x.a).tag (t.reg x.a).scale }
  else
    match x.b with
    | .reg r => { regs := wrw x.w64 x.d (t.opnd x.w64 r) (t.reg r).tag (t.reg r).scale }
    | .imm _ => { regs := wrw x.w64 x.d (t.srcBits x.b x.w64) tagRAW }

def execSel (c : Ctl) (x : SelArgs) (s : State) : Host.Outcome State Fault Refusal :=
  .next (s.issueAll c 2 fun t => .ok (t.sel x))

/-- MOV (R48, R93): every register gets the tag and side scale of the first. -/
def Thread.movRegs (t : Thread) (d a : Reg) (n : Nat) : List (Nat × VReg) :=
  if d == 255 then []
  else (List.range n).map fun i =>
    (d.toNat + i, { val := if a == 255 then 0 else (t.v.getD (a.toNat + i) VReg.zero).val
                    tag := (t.reg a).tag, scale := (t.reg a).scale })

def execMov (c : Ctl) (d a : Reg) (w : MovW) (s : State) : Host.Outcome State Fault Refusal :=
  .next (s.issueAll c 2 fun t =>
    .ok { regs := t.movRegs d a (match w with | .w1 => 1 | .w2 => 2 | .w4 => 4) })

def execMovi (c : Ctl) (d : Reg) (m : MSel) (imm : Word) (s : State) : Host.Outcome State Fault Refusal :=
  .next (s.issueAll c 2 fun _ =>
    .ok { regs := match m with
            | .w32 => wr1 d imm tagRAW
            | .s64 => wr2 d (imm.signExtend 64) tagRAW
            | .u64 => wr2 d (imm.setWidth 64) tagRAW })

/-- LEA (R93): operands of any tag, and an INT result (log 119). -/
def execLea (c : Ctl) (x : LeaArgs) (s : State) : Host.Outcome State Fault Refusal :=
  .next (s.issueAll c 2 fun t =>
    let b : DWord := if x.s then (t.val x.b).signExtend 64 else (t.val x.b).setWidth 64
    .ok { regs := wr2 x.d (t.pair x.a + (b <<< x.sh.toNat)) tagINT })

def execHmul (c : Ctl) (x : IntBin) (s : State) : Host.Outcome State Fault Refusal :=
  .next (s.issueAll c 4 fun t =>
    let p := (t.opnd x.w64 x.a).toNat * (t.srcBits x.b x.w64).toNat
    .ok (outReg x.w64 x.d (BitVec.ofNat 64 (p / 2 ^ bitWidth x.w64)) tagINT))

end Sys2Proof.Machine
end

