-- ==== Sys2Proof/Machine/Traps.lean ====
section
/-! DEFINITION. What the ridge pair does with traps, events and faults: TRAP_RECORD_POST (R215, R378), TRAP_DISPOSE (R354, R355,
R378), EVENT_POST (R379), FAULT_RECORD_POST (R306 to R308), rollback (R351, R355), and the replay that a FAULTREPLAY asks for
(R309, R276, R277, R402). -/

namespace Sys2Proof.Machine

/-! Events (R379). -/

/-- The 64 bytes of an event record. -/
def EventRec.bytes (e : EventRec) : List Byte :=
  bytesOf 2 e.type ++ bytesOf 2 0 ++ bytesOf 4 e.seq ++ bytesOf 8 e.time ++ padTo 32 e.body ++ bytesOf 4 e.launch ++ bytesOf 12 0

/-- An event enters the log, which keeps 4,096, and waits for the host's ring. -/
def State.postEvent (s : State) (type : Nat) (body : List Byte) (lnum : Nat) : State :=
  let e : EventRec := { type := type, seq := s.cmd.eventSeq % 2 ^ 32, time := s.clock / Config.ns, body := padTo 32 body, launch := lnum }
  { s with cmd := { s.cmd with events := (s.cmd.events ++ [e]).drop (s.cmd.events.length + 1 - 4096)
                               eventSeq := s.cmd.eventSeq + 1, eventWait := s.cmd.eventWait ++ [e] } }

/-- EVENT_POST (R379): the oldest waiting event is written to the host's ring when it has room, and then the producer count to
the ring's header. The places of both in the ring are the model's (log 31). -/
def execEventPost (s : State) : Host.Outcome State Fault Refusal :=
  match s.cmd.eventWait with
  | [] => .next s
  | e :: rest =>
    let base := s.cmd.eventBase.toNat
    let size := s.cmd.eventSize
    let used := (e.seq + 2 ^ 32 - s.readHome s.cmd.eventWord.toNat 4) % 2 ^ 32
    let slot := base + 64 + 64 * (e.seq % max 1 size)
    if s.editHolds [s.cmd.eventWord.toNat] || size == 0 || size ≤ used || !s.apertureOk (slot + 63) then .next s
    else
      let s1 := (s.writeHome (cellsAt (s.hostKey slot) e.bytes) false).writeHome (bytesAt (s.hostKey base) 4 ((e.seq + 1) % 2 ^ 32)) false
      .next { s1 with cmd := { s1.cmd with eventWait := rest } }

/-! Trap records (R215, R378). -/

/-- The trap queue has room. -/
def State.trapRoom (s : State) : Bool := (s.cmd.trapWr + 2 ^ 32 - s.cmd.trapRd) % 2 ^ 32 < 4096

/-- A record enters the trap queue, where the ridge pair reads it (log 14), and is an event at the pair (R221). -/
def State.trapPut (s : State) (handle : Word) (r : TrapRec) : State :=
  let s1 := s.writeHome (cellsAt (Config.trapqBase + 32 * (s.cmd.trapWr % 4096)) (r.bytes handle)) false
  { s1 with cmd := { s1.cmd with trapWr := (s1.cmd.trapWr + 1) % 2 ^ 32 } }.wakeHalt0 688

/-- HANDLE of a worker (R215, R373). -/
def workerHandle (w : Nat) : Word := BitVec.ofNat 32 ((672 + w) * 2 ^ 22)

/-- A record of a halted workgroup, of a worker, or of one that outlives its thread's stop, that waits to be posted. -/
def State.postOther (s : State) (uid : Nat) : State :=
  match (s.thread? uid).bind s.wgOf with
  | some g =>
    (match g.haltRec with
     | some h => (s.trapPut h.1 h.2).modWg g.lnum g.idx fun g => { g with haltRec := none }
     | none => s)
  | none =>
    match s.cmd.workerTraps with
    | w :: rest => { s with cmd := { s.cmd with workerTraps := rest } }.trapPut (workerHandle w.1) w.2
    | [] =>
      match s.cmd.trapWait with
      | w :: rest => { s with cmd := { s.cmd with trapWait := rest } }.trapPut w.1 w.2
      | [] => s

/-- TRAP_RECORD_POST (R215, R283, R366): when the queue has room, a stopped thread's record is posted once its trap has happened (R74),
or that of its halted workgroup; an uid that names no thread posts a worker's record, or one that outlives its thread's stop. -/
def execTrapRecordPost (uid : Nat) (s : State) : Host.Outcome State Fault Refusal :=
  if !s.trapRoom then .next s
  else
    match s.thread? uid with
    | none => .next (s.postOther uid)
    | some t =>
      match t.status, s.wgOf t with
      | .stopped r false, some g =>
        if g.state != .placed || s.clock < r.due then .next s
        else .next ((s.trapPut (s.handleOf t.loc) r).modThread uid fun x => { x with status := .stopped r true })
      | _, _ => .next (s.postOther uid)

/-! Rollback (R351, R355). -/

/-- The instructions of a job's threads, and not a control kernel's. -/
def State.jobThread (s : State) (uid : Nat) : Bool :=
  match s.thread? uid with
  | some t => s.lnumOf t != 0
  | none => true

/-- Every workgroup of the job is killed, and its deferred stores are discarded (log 112); what its threads' stores have gathered in the
write-combining buffers leaves them. -/
def State.killJob (s : State) : State :=
  let s1 := (s.wgs.filter fun g => g.lnum != 0 && g.state != .ended && !g.killed).foldl (fun s g => s.killAny g.lnum g.idx)
    { s with launches := s.launches.map fun (l : Launch) => { l with deferred := [] } }
  s1.cores.foldl (fun s p => if p.2.wcb.isEmpty then s else s.flushWc p.1 fun l => l.owners.any fun o => s1.jobThread o.1) s1

/-- What the killed workgroups had issued is complete (R264): their accesses, and the commands of their matrix engines. -/
def State.jobQuiet (s : State) : Bool :=
  !(s.inflight.any fun a => a.uids.any s.jobThread) &&
  s.cores.all fun p => p.2.mqueue.isEmpty && p.2.mexec.isNone && p.2.mland.isEmpty && p.2.drain.isNone &&
    !(p.2.wcb.any fun l => l.owners.any fun o => s.jobThread o.1)

/-- Each region is rewritten from the step's own data shards, with the step's tags and marks; the device step follows
(R351, step 3; R354), as they lie in SCM. A sweep in progress and a snapshot not complete are given up, and a CKPT.0 they would have served waits
for the next (log 32). -/
def State.rollbackTo (s : State) (kept : SnapGen) : State :=
  let g := s.genNow kept
  let bs := (g.regions.zip g.data).flatMap fun r => (cellsAt r.1.1 r.2).map fun b => (s.homed b.1, b.2)
  let lines := linesOf bs 64
  let c := s.ckpt
  let s1 : State := { s with
    mem := memSets s.mem bs
    poison := s.poison.filter (fun p => !lines.contains p) ++ (g.bad.map fun l => s.homed (l * 64) / 64).filter lines.contains
    ckpt := { c with sweep := none, image := none, step := g.step + 1, rolled := true
                     reqs := c.reqs.map fun (r : CkptReq) => if r.mode then r else { r with step := none } } }
  lines.foldl (fun s l => s.setTag l (g.step.setWidth 8)) s1

/-- The snapshot that a machine check rolls back to: the last complete step; in a job of several packages, whose smallest
LASTOK only their exchange tells, one of those this package holds (log 32). -/
def State.rollGen (s : State) : Option SnapGen :=
  if s.cmd.npkg == 1 then s.ckpt.gens.find? (·.step == s.ckpt.lastok)
  else s.ckpt.gens[(Config.freeWord s.free).toNat % max 1 s.ckpt.gens.length]?

/-- Step 3 of R351, and JOB_ROLLED (R355). -/
def State.rollDone (s : State) (g : Option SnapGen) : State :=
  match g with
  | none => s.postEvent 5 (bytesOf 4 s.ckpt.lastok.toNat) 0
  | some g => (s.rollbackTo g).postEvent 5 (bytesOf 4 g.step.toNat) 0

/-- Steps 1 to 3 of R351 for the whole job, and JOB_ROLLED (R355). The rewrite waits until what the killed workgroups had issued is
complete (R264). -/
def State.rollJob (s : State) (g : Option SnapGen) : State :=
  let s1 := { s.killJob with free := s.free + 1 }
  if s1.rolling.isSome then s1
  else if s1.jobQuiet then s1.rollDone g
  else { s1 with rolling := some { lost := [], step := s1.ckpt.lastok, gen := g, peers := [], live := [] } }

/-- The thread that a posted record stopped is killed with its workgroup (R264, R378). -/
def State.killHandle (s : State) (h : Word) : State :=
  match s.stoppedBy h with
  | some (t, _) => s.tretKill t
  | none => s

/-- The thread that a machine check's record names: its workgroup, or a control kernel, is killed (R264, R355), though a participant that
had exited carries the record (log 113). -/
def State.killChecked (s : State) (h : Word) (lnum : Nat) : State :=
  match s.threads.find? fun t => s.handleOf t.loc == h && s.lnumOf t == lnum &&
      (match s.wgOf t with | some g => g.state == .placed && g.mcheck | none => false) with
  | some t => s.tretKill t
  | none => s

/-- A machine check of EN and MCROLL rolls the whole job back (R355). -/
def State.rollChecked (s : State) : State := if s.ckpt.en && s.ckpt.mcroll then s.rollJob s.rollGen else s

/-- TRAP_DISPOSE (R378, R355): the ridge pair consumes the next record and acts by its launch's TPOL. A machine check kills whatever its
core; a worker core's record also stops the worker. -/
def execTrapDispose (s : State) : Host.Outcome State Fault Refusal :=
  let n := (s.cmd.trapWr + 2 ^ 32 - s.cmd.trapRd) % 2 ^ 32
  -- a rollback rewrites HBM, after an edit of the interleave table (R296)
  if s.cmd.ridge != .running || n == 0 || 4096 < n || (s.mmu.ilvEdit && s.ckpt.en && s.ckpt.mcroll) then .next s
  else
    let bs := (List.range 32).map fun i => memGet s.mem (Config.trapqBase + 32 * (s.cmd.trapRd % 4096) + i)
    let handle := BitVec.ofNat 32 (field bs 0 4)
    let cause := field bs 4 1
    let lnum := field bs 0x18 4
    let core := handle.toNat / 2 ^ 22
    let mc := 0x40 ≤ cause && cause < 0x50
    let s1 := { s with cmd := { s.cmd with trapRd := (s.cmd.trapRd + 1) % 2 ^ 32 } }.postEvent (if mc then 2 else 1) bs lnum
    let s2 := if mc then s1.killChecked handle lnum else s1
    if cause == cHalted.cause.toNat then .next s1
    else if 672 ≤ core && core < 688 then
      let s3 := { s2 with cmd := { s2.cmd with workersStopped := (core - 672) :: s2.cmd.workersStopped } }.postEvent 11 bs 0
      .next (if mc then s3.rollChecked else s3)
    else if mc then .next s2.rollChecked
    else if ((s1.launch? lnum).map (·.tpol)) == some 0 then .next (s1.killHandle handle)
    else .next s1

/-! Fault records (R306 to R308). -/

/-- The 32 bytes of a fault record. -/
def FaultRec.bytes (r : FaultRec) (seq : Nat) : List Byte :=
  bytesOf 8 r.va.toNat ++ bytesOf 4 seq ++ bytesOf 1 r.ctx ++ bytesOf 1 r.kind ++ bytesOf 1 r.acc ++ bytesOf 1 r.src ++
  bytesOf 4 r.unit.toNat ++ bytesOf 2 r.joined ++ bytesOf 2 0 ++ bytesOf 4 r.launch ++ bytesOf 4 0

/-- RD of the fault buffer, which the host writes (R306). -/
def State.faultRd (s : State) : Nat := s.readHome (s.homed (s.mmu.fbase.toNat + 8)) 4

/-- FAULT_RECORD_POST (R306): the oldest kept record is posted while the buffer is enabled and has room, though a replay may have covered
it (log 125). It waits for the end of an edit of the interleave table (R296). -/
def execFaultRecordPost (s : State) : Host.Outcome State Fault Refusal :=
  let m := s.mmu
  let nrec := m.fctl.toNat % 2 ^ 16
  if !m.fctl.getLsbD 31 || s.editHolds [s.homed m.fbase.toNat] || nrec ≤ (m.nextSeq + 2 ^ 32 - s.faultRd) % 2 ^ 32 then .next s
  else
    match m.recs.find? fun r => r.seq.isNone with
    | none => .next s
    | some r =>
      let n := m.nextSeq
      let s1 := (s.writeHome (cellsAt (s.homed (m.fbase.toNat + 64 + 32 * (n % nrec))) (r.bytes n)) false).writeHome
        (bytesAt (s.homed m.fbase.toNat) 4 ((n + 1) % 2 ^ 32)) false
      .next { s1 with mmu := { s1.mmu with
        nextSeq := (n + 1) % 2 ^ 32
        recs := s1.mmu.recs.map fun (q : FaultRec) => if q.id == r.id then { q with seq := some n } else q } }

/-! Disposal of faults (R309). -/

/-- Every record with its sequence number: a kept one will be posted with the next number that is free in its turn (R306, log 125). -/
def Mmu.numbered (m : Mmu) : List (FaultRec × Nat) :=
  let kept := m.recs.filter (·.seq.isNone)
  m.recs.map fun r => (r, r.seq.getD ((m.nextSeq + kept.findIdx (·.id == r.id)) % 2 ^ 32))

/-- The open records of a context up to S, in modular order from RD, posted or kept (R308, R309). -/
def State.covered (s : State) (ctx seq : Nat) : List Nat :=
  let rd := s.faultRd
  let from_ (n : Nat) : Nat := (n + 2 ^ 32 - rd) % 2 ^ 32
  (s.mmu.numbered.filter fun p => !p.1.closed && p.1.ctx == ctx && from_ p.2 ≤ from_ seq).map (·.1.id)

/-- A workgroup that is saved: its held accesses wait for the restore. -/
def State.isSaved (s : State) (uid : Nat) : Bool :=
  match (s.thread? uid).bind s.wgOf with
  | some g => g.state == .saved
  | none => false

/-- Drain copies that wait on these records are stored again (R153). -/
def replayDrains (recs : List Nat) : List Nat → State → Except Fault State
  | [], s => .ok s
  | k :: ks, s =>
    match (s.core k).drain with
    | none => replayDrains recs ks s
    | some d =>
      if !((d.fault.map recs.contains).getD false) then replayDrains recs ks s
      else
        match s.drainStore k d with
        | .error e => .error e
        | .ok s1 => replayDrains recs ks s1

/-! Workers (R366, R372). -/

/-- The ring of this number. -/
def State.ring? (s : State) (n : Nat) : Option Ring := s.cmd.rings.find? (·.num == n)

/-- Changes a ring. -/
def State.modRing (s : State) (n : Nat) (f : Ring → Ring) : State :=
  { s with cmd := { s.cmd with rings := s.cmd.rings.map fun r => if r.num == n then f r else r } }

/-- A worker traps: its record waits to be posted, and its program counter and registers are its own program's (log 33). -/
def State.workerTrap (s : State) (w : Nat) (c : Cause) : State :=
  let a := s.takeFree
  let b := a.2.takeFree
  { b.2 with cmd := { b.2.cmd with workerTraps := b.2.cmd.workerTraps ++
      [(w, { cause := c.cause, code := c.code, ilen := (b.1 &&& 0xF).toNat, pc := a.1, workid := BitVec.allOnes 64, launch := 0
             sticky := (b.1 >>> 32).setWidth 32 })] } }

/-- The mark of a worker that waits for the home of its next store, and for no fault record. -/
def homeWait : Nat := 2 ^ 64

/-- The worker of a ring waits with these stores (R296, R342, R347, R360); a read waits for nothing and is made again. -/
def State.ringWait (s : State) (r : Ring) (writes : List (DWord × List Byte)) : State :=
  if writes.isEmpty then s else s.modRing r.num fun r => { r with held := some { frec := homeWait, writes := writes } }

/-- Why the ridge pair's or a worker's access stops the worker of a ring: a fault holds it, anything else traps it. -/
def State.ringStop (s : State) (r : Ring) (k : AccKind) (writes : List (DWord × List Byte)) (e : Stop) : Except Fault State :=
  match e with
  | .absent a => .error (.absentMemory a)
  | .fault va f =>
    let q := s.newFault va r.ctx f k 0 (workerHandle (r.num % 16)) 0
    .ok (q.2.modRing r.num fun r => { r with held := some { frec := q.1, writes := writes } })
  | .swap d y => .ok (((s.requestYealm d y).getD s).ringWait r writes)
  | .bad => .ok (s.workerTrap (r.num % 16) cBadAddress)
  | .ue => .ok (s.workerTrap (r.num % 16) cMemUe)
  | .held => .ok (s.ringWait r writes)

/-- The next of a worker's stores would not wait at its home, or would stop the worker. -/
def State.storeReady (s : State) (r : Ring) (w : DWord × List Byte) : Bool :=
  match s.mapRanges none r.ctx true .write [(w.1.toNat, w.2.length)] with
  | .error .held => false
  | .error (.swap ..) => false
  | .error _ => true
  | .ok ps => s.homeFree ((List.range w.2.length).map fun i => keyIn ps (w.1.toNat + i)) true (ps.any (·.persist))

/-- The stores of a ring's worker, in order; one whose page faults holds it, with those that follow (R366), and one whose home does not
serve it yet makes it wait. -/
def State.workerStores (r : Ring) : List (DWord × List Byte) → State → Except Fault State
  | [], s => .ok s
  | w :: ws, s =>
    match s.mapRanges none r.ctx true .write [(w.1.toNat, w.2.length)] with
    | .error e => s.ringStop r .write (w :: ws) e
    | .ok ps =>
      let bs := (cellsAt w.1.toNat w.2).map fun b => (keyIn ps b.1, b.2)
      let p := ps.any (·.persist)
      if s.homeFree (bs.map (·.1)) true p then State.workerStores r ws (s.putHome bs p) else .ok (s.ringWait r (w :: ws))

/-- Workers held by these records go on (R309). -/
def ringsFree (recs : List Nat) : List Ring → State → Except Fault State
  | [], s => .ok s
  | r :: rs, s =>
    match r.held with
    | none => ringsFree recs rs s
    | some h =>
      if !recs.contains h.frec then ringsFree recs rs s
      else
        match State.workerStores r h.writes (s.modRing r.num fun r => { r with held := none }) with
        | .error e => .error e
        | .ok s1 => ringsFree recs rs s1

/-- Disposition replay (R309). -/
def State.replayRecs (s : State) (recs : List Nat) : Except Fault State :=
  let ids := (s.mmu.log.filter fun e => recs.contains e.frec && e.acts.isEmpty && !s.isSaved e.uid).map (·.id)
  let ws := s.mmu.waiters.filter fun w => recs.contains w.frec && !s.isSaved w.uid
  match replayEntries ids s with
  | .error e => .error e
  | .ok s1 =>
    match replayWaiters ws s1 with
    | .error e => .error e
    | .ok s2 =>
      match replayDrains recs (s2.cores.map (·.1)) s2 with
      | .error e => .error e
      | .ok s3 =>
        let s4 : State := { s3 with
          cmds := s3.cmds.map fun (c : EngCmd) => if (c.fault.map recs.contains).getD false then { c with fault := none } else c
          threads := s3.threads.map fun (t : Thread) => match t.hold with
            | .retry (.fault r) => if recs.contains r then { t with hold := .free } else t
            | _ => t }
        match ringsFree recs s4.cmd.rings s4 with
        | .error e => .error e
        | .ok s5 => serveAgain (s5.cmd.remote.filter fun w => (w.frec.map recs.contains).getD false) s5

/-- Threads held at an instruction by a fault at its fetch or at a record read trap with MEM_FATAL; the other arrived threads of
a wave-collective instruction, which did not take part in it, pass it (R305, R402). -/
def State.fatalHeld (s : State) (recs : List Nat) : State :=
  let hit (t : Thread) : Bool := match t.hold with | .retry (.fault r) => recs.contains r | _ => false
  let ts := s.threads.filter hit
  let mate (t : Thread) : Bool := t.hold == .collective && ts.any fun x => x.wid == t.wid && x.pc == t.pc
  let len (t : Thread) : Nat := (((s.peek t).bind ctlOf).map (·.len.bytes)).getD 0
  { s with threads := s.threads.map fun t =>
      if hit t then t.trap (s.trapIds t) cMemFatal (len t) t.pc else if mate t then t.pass s.clock else t }

/-- Disposition fatal (R309, R277, R172, R366). -/
def State.fatalRecs (s : State) (recs : List Nat) : State :=
  let es := s.mmu.log.filter fun e => recs.contains e.frec && e.acts.isEmpty
  let ws := s.mmu.waiters.filter fun w => recs.contains w.frec
  let s1 := es.foldl (fun s e =>
    if s.mmu.log.any (·.id == e.id) then s.entryTrap e cMemFatal (fun x => recs.contains x.frec) else s) s
  let s2 := ws.foldl (fun s w =>
    { s with mmu := { s.mmu with waiters := s.mmu.waiters.filter (·.id != w.id) } }.heldTrap w.uids w.setf cMemFatal w.ilen w.pc) s1
  let s3 := (s2.cmds.filter fun c => (c.fault.map recs.contains).getD false).foldl (fun s c => s.cancelCmd c) s2
  let s4 := s3.cores.foldl (fun s p =>
    match p.2.drain with
    | some d => if (d.fault.map recs.contains).getD false then
        (s.modCore p.1 fun k => { k with drain := none }).heldTrap d.cmd.uids d.cmd.setf cMemFatal d.cmd.ilen d.cmd.pc else s
    | none => s) s3
  let s5 := (s4.cmd.rings.filter fun r => (r.held.map fun h => recs.contains h.frec).getD false).foldl
    (fun s r => s.workerTrap (r.num % 16) cMemFatal) (s4.fatalHeld recs)
  let dead := s5.cmd.remote.filter fun w => (w.frec.map recs.contains).getD false
  { s5 with cmd := { s5.cmd with
    remote := s5.cmd.remote.filter fun w => !dead.any (·.id == w.id)
    outbox := s5.cmd.outbox ++ dead.map fun w => .remoteAck w.pkg false } }

/-- The host disposes of fault records (R309). -/
def State.disposeFaults (s : State) (ctx seq : Nat) (fatal : Bool) : Except Fault State :=
  let recs := s.covered ctx seq
  let s1 := { s with mmu := { s.mmu with recs := s.mmu.recs.map fun (r : FaultRec) => if recs.contains r.id then { r with closed := true } else r } }
  if fatal then .ok (s1.fatalRecs recs) else s1.replayRecs recs

end Sys2Proof.Machine
end

