-- ==== Sys2Proof/Machine/Packets.lean ====
section
/-! DEFINITION. Command rings (R362 to R368, R372, R374): the packet at a ring's read index, its checks and consumption; COPY,
FENCE, SIGNAL, WAITVAL, CKPT, FAULTREPLAY, ERRQUERY and SNAPCFG packets (R375), WAITVAL_POLL and QUEUE_RESTART. -/

namespace Sys2Proof.Machine

/-- What a packet event comes to. -/
abbrev Did := Except Fault State

/-- The outcome of a packet event. -/
def didOut (r : Did) : Host.Outcome State Fault Refusal := outcomeOf r

/-- A packet that is published at the read index of a ring and has passed checks 1 to 4 of R365. -/
structure Packet where
  ring : Ring
  bytes : List Byte
  deriving DecidableEq, Repr

/-- A field of a packet. -/
def Packet.f (p : Packet) (off n : Nat) : Nat := field p.bytes off n

/-- A 64-bit field of a packet. -/
def Packet.w (p : Packet) (off : Nat) : DWord := dw (p.f off 8)

/-- Packet bytes from 0x08 outside these fields are 0 (R375). -/
def Packet.zero (p : Packet) (fields : List (Nat × Nat)) : Bool :=
  (List.range 56).all fun i =>
    (fields.any fun r => r.1 ≤ i + 8 && i + 8 < r.1 + r.2) || p.bytes.getD (i + 8) 0 == 0

/-- The worker of a ring runs and looks at it (R283, R366, R372, R378, R395). While the interleave table is edited no worker serves a
ring (R296, log 126). -/
def State.served (s : State) (r : Ring) : Bool :=
  !s.mmu.ilvEdit && !s.cmd.qfrz && !r.frozen && !s.cmd.workersStopped.contains (r.num % 16) && !s.cmd.workerTraps.any (·.1 == r.num % 16) &&
  !s.cmd.rings.any fun q => q.num % 16 == r.num % 16 && q.held.isSome

/-- The worker of a ring reads memory: packets with the ring's right (R401). A read that its home does not serve yet is
made again (R360). -/
def State.ringRead (s : State) (r : Ring) (priv : Bool) (va : DWord) (n : Nat) : Except Did (List Byte) :=
  match s.mapRanges none r.ctx priv .read [(va.toNat, n)] with
  | .error e => .error (s.ringStop r .read [] e)
  | .ok ps =>
    let ks := (List.range n).map fun i => keyIn ps (va.toNat + i)
    if !s.homeFree ks false false then .error (.ok s)
    else
    match ks.find? fun k => s.poisoned k 1 with
    | some k => .error (.ok (s.workerTrap (r.num % 16) (ueCause k)))
    | none => .ok (ks.map fun k => memGet s.mem k)

/-- The ring goes into its error state (R365, R367), and the host is told (R379). -/
def State.ringError (s : State) (r : Ring) (code : Nat) : Did :=
  let s1 := s.modRing r.num fun q => { q with err := some (r.rd, code), poll := none }
  State.workerStores r [(r.base + 8, bytesOf 4 r.rd), (r.base + 12, bytesOf 4 code), (r.base + 4, bytesOf 4 1)]
    (s1.postEvent 7 (bytesOf 4 r.num ++ bytesOf 4 r.rd ++ bytesOf 4 code) 0)

/-- The packet is consumed (R366, R374): RDIDX advances after the packet's own stores; `open_` keeps it among those not yet
complete. With it the worker's turn passes to its next ring (R372). -/
def State.consume (s : State) (r : Ring) (open_ : Bool) (stores : List (DWord × List Byte)) : Did :=
  let rd := (r.rd + 1) % 2 ^ 32
  let s0 := { s with cmd := { s.cmd with turns := (r.num % 16, r.num) :: s.cmd.turns.filter (·.1 != r.num % 16) } }
  let s1 := s0.modRing r.num fun q => { q with rd := rd, poll := none, outstanding := if open_ then q.outstanding ++ [r.rd] else q.outstanding }
  State.workerStores r (stores ++ [(r.base, bytesOf 4 rd)]) s1

/-- The header is published for packet r and passes checks 1 to 4 (R363, R365): none when not published, else the code. -/
def headerCheck (rd h tmask : Nat) : Option Nat :=
  let type := h % 256
  if h / 2 ^ 8 % 2 != 1 - rd / 16 % 2 then none
  else if h / 2 ^ 9 % 2 ^ 23 != 0 then some 3
  else if h / 2 ^ 32 != rd then some 4
  else if type == 0 || 0xC < type then some 1
  else if tmask / 2 ^ type % 2 == 0 then some 2
  else some 0

/-- A load that translated to a slot of this thatch has not returned its data (R289). -/
def State.thatchRead (s : State) (t : Thatch) : Bool :=
  (List.range s.thatches.slots.length).any fun n => (match s.thatches.slots.getD n .empty with
    | .resident d _ => d == t.desc
    | _ => false) && s.slotRead n

/-- An evict of the thatch of this descriptor waits for loads (R289). -/
def State.evictWaits (s : State) (desc : Nat) : Bool :=
  match s.thatch? desc with
  | some t => t.pins.isEmpty && s.thatchRead t
  | none => false

/-- A ring has a packet that its worker could take up now: one it executes and that waits for nothing, or one that a running ridge pair
takes. A packet that cannot be read will stop the worker, and has its turn too. -/
def State.pending (s : State) (q : Ring) : Bool :=
  s.served q && q.err.isNone && q.poll.isNone &&
  if q.fresh then true else
  match s.ringRead q q.priv (q.base + dw (0x40 + 64 * (q.rd % 16))) 64 with
  | .error _ => true
  | .ok bs =>
    let type := field bs 0 1
    field bs 0 8 / 2 ^ 8 % 2 == 1 - q.rd / 16 % 2 &&
    (if type == 3 then q.outstanding.isEmpty
     else if type == 2 then field bs 0x18 4 == 0 || s.engQueued (672 + q.num % 16) 0 < engCapacity 0
     -- a SNAPCFG that a sweep holds, and an evict that waits for loads, keep the head of their own queue alone (R375, R289)
     else if type == 6 && field bs 0x34 4 % 2 == 0 && s.ckpt.sweep.isSome then false
     else if type == 0xA && s.evictWaits (field bs 8 8) then false
     else type == 4 || type == 5 || (s.cmd.ridge == .running && s.rolling.isNone))

/-- How many turns of its worker come before a ring's (R372): the worker takes its rings in increasing number after the last served. -/
def State.turnsAway (s : State) (n : Nat) : Nat :=
  match s.cmd.turns.find? (·.1 == n % 16) with
  | some p => (n / 16 + 15 - p.2 / 16) % 16
  | none => n / 16

/-- It is a ring's turn: no ring of its worker that comes before has a packet to take up (R372, log 128). -/
def State.inTurn (s : State) (r : Ring) : Bool :=
  !s.cmd.rings.any fun q => q.num % 16 == r.num % 16 && s.turnsAway q.num < s.turnsAway r.num && s.pending q

/-- The worker takes up the index and the error state of a ring as its control block holds them (R362). -/
def Ring.take (r : Ring) (bs : List Byte) : Ring :=
  { r with rd := field bs 0 4, err := if field bs 4 4 == 0 then none else some (field bs 8 4, field bs 12 4), fresh := false }

/-- The packet at a ring's read index, when it is of this type; `wait` is a WAITVAL that polls. -/
def State.packet (s : State) (n type : Nat) (wait : Bool := false) : Except Did Packet :=
  match s.ring? n with
  | none => .error (.ok s)
  | some r =>
    if !s.served r || r.err.isSome || r.poll.isSome != wait || !s.inTurn r then .error (.ok s)
    else if r.fresh then
      match s.ringRead r true r.base 64 with
      | .error e => .error e
      | .ok bs => .error (.ok (s.modRing n (·.take bs)))
    else
      match s.ringRead r true (r.base + 0x10) 4, s.ringRead r r.priv (r.base + dw (0x40 + 64 * (r.rd % 16))) 64 with
      | .error e, _ => .error e
      | _, .error e => .error e
      | .ok m, .ok bs =>
        match headerCheck r.rd (field bs 0 8) (natOfBytes m) with
        | none => .error (.ok s)
        | some 0 => if field bs 0 1 == type then .ok { ring := r, bytes := bs } else .error (.ok s)
        | some c => .error (s.ringError r c)

/-- A packet event: the packet, then its own meaning. -/
def State.withPacket (s : State) (n type : Nat) (f : Packet → Did) : Host.Outcome State Fault Refusal :=
  didOut (match s.packet n type with | .error e => e | .ok p => f p)

/-- A packet that the worker forwards waits for a running ridge pair (R370, R372), and for the end of a rollback (R351). -/
def State.forwarded (s : State) (n type : Nat) (f : Packet → Did) : Host.Outcome State Fault Refusal :=
  if s.cmd.ridge != .running || s.rolling.isSome then .next s else s.withPacket n type f

/-! Packets that workers execute. -/

/-- COPY_PACKET (R374, R375, R401). -/
def execCopyPacket (ring : Nat) (s : State) : Host.Outcome State Fault Refusal :=
  s.withPacket ring 2 fun p =>
    let n := p.f 0x18 4
    let core := 672 + p.ring.num % 16
    if !p.zero [(8, 8), (0x10, 8), (0x18, 4)] || 2 ^ 30 < n || !canonical (p.w 8) || !canonical (p.w 0x10) then s.ringError p.ring 6
    else if n != 0 && engCapacity 0 ≤ s.engQueued core 0 then .ok s
    else
      (s.consume p.ring true []).map fun s1 =>
        s1.queueCmd { id := 0, core := core, engine := 0, uid := 0, lnum := 0, wg := 0, ctx := p.ring.ctx, priv := p.ring.priv
                      setf := 15, bar := 0, op := .copy (p.w 8) (p.w 0x10) n, after := [], written := [], credited := 0, cond := 0
                      fault := none, swap := none, data := none, ring := some (p.ring.num, p.ring.rd) }

/-- FENCE_PACKET (R374). -/
def execFencePacket (ring : Nat) (s : State) : Host.Outcome State Fault Refusal :=
  s.withPacket ring 3 fun p =>
    if !p.zero [] then s.ringError p.ring 6
    else if p.ring.outstanding.isEmpty then s.consume p.ring false [] else .ok s

/-- SIGNAL (R364 to R366). -/
def execSignal (ring : Nat) (s : State) : Host.Outcome State Fault Refusal :=
  s.withPacket ring 4 fun p =>
    if (p.w 8).toNat % 8 != 0 || !canonical (p.w 8) then s.ringError p.ring 6
    else s.consume p.ring false [(p.w 8, bytesOf 8 (p.f 0x10 8))]

/-- WAITVAL's condition (R375). -/
def waitvalCond (cond x v : Nat) : Bool :=
  match cond with
  | 0 => x == v
  | 1 => x != v
  | 2 => v ≤ x
  | _ => x < v

/-- One poll of WAITVAL. -/
def State.waitPoll (s : State) (p : Packet) : Did :=
  match s.ringRead p.ring true (p.w 8) 8 with
  | .error e => e
  | .ok bs =>
    if waitvalCond (p.f 0x20 1) ((dw (natOfBytes bs)) &&& p.w 0x18).toNat (p.f 0x10 8) then s.consume p.ring false []
    else .ok (s.modRing p.ring.num fun r => { r with poll := some s.clock })

/-- WAITVAL (R374, R375). -/
def execWaitval (ring : Nat) (s : State) : Host.Outcome State Fault Refusal :=
  s.withPacket ring 5 fun p =>
    if !p.zero [(8, 8), (0x10, 8), (0x18, 8), (0x20, 1)] || (p.w 8).toNat % 8 != 0 || !canonical (p.w 8) || 4 ≤ p.f 0x20 1 then
      s.ringError p.ring 6
    else s.waitPoll p

/-- WAITVAL_POLL (R375): every 1 us. -/
def execWaitvalPoll (ring : Nat) (s : State) : Host.Outcome State Fault Refusal :=
  match (s.ring? ring).bind (·.poll) with
  | none => .next s
  | some t =>
    if s.clock < t + Config.us then .next s
    else didOut (match s.packet ring 5 true with | .error e => e | .ok p => s.waitPoll p)

/-- QUEUE_RESTART (R367, R368). -/
def execQueueRestart (ring : Nat) (s : State) : Host.Outcome State Fault Refusal :=
  match s.ring? ring with
  | none => .next s
  | some r =>
    match r.err with
    | none => .next s
    | some (erridx, _) =>
      if !s.served r then .next s
      else
        match s.ringRead r true (r.base + 0x14) 12 with
        | .error e => didOut e
        | .ok bs =>
          let gen := field bs 0 4
          let newrd := field bs 4 4
          let seen : DWord × List Byte := (r.base + 0x1C, bytesOf 4 gen)
          if gen == field bs 8 4 then .next s
          else if 16 < (newrd + 2 ^ 32 - erridx) % 2 ^ 32 then
            didOut (State.workerStores r [seen, (r.base + 12, bytesOf 4 5)]
              ((s.modRing ring fun q => { q with err := some (erridx, 5) }).postEvent 7
                (bytesOf 4 r.num ++ bytesOf 4 erridx ++ bytesOf 4 5) 0))
          else
            didOut (State.workerStores r [seen, (r.base, bytesOf 4 newrd), (r.base + 4, bytesOf 4 0)]
              (s.modRing ring fun q => { q with err := none, rd := newrd }))

/-! Packets for the ridge pair. -/

/-- Writes by the ridge pair or the host at virtual addresses, whole or not at all. -/
def State.devWrite (s : State) (ctx : Nat) (priv : Bool) (va : DWord) (bs : List Byte) : Option State :=
  match s.mapRanges none ctx priv .write [(va.toNat, bs.length)] with
  | .ok ps =>
    let p := ps.any (·.persist)
    some (s.putHome ((cellsAt va.toNat bs).map fun b => (keyIn ps b.1, b.2)) p)
  | .error _ => none

/-- CKPT_PACKET (R350, R375). -/
def execCkptPacket (ring : Nat) (s : State) : Host.Outcome State Fault Refusal :=
  s.forwarded ring 7 fun p =>
    if !p.zero [(8, 1), (0x10, 8)] || 2 ≤ p.f 8 1 || !canonical (p.w 0x10) then s.ringError p.ring 6
    else
      (s.consume p.ring true []).map fun s1 =>
        s1.ckptRequest { mode := p.f 8 1 == 1, uid := none, va := p.w 0x10, bar := none, ctx := p.ring.ctx, priv := true
                         ring := some (p.ring.num, p.ring.rd), issued := s.clock, step := none, core := 688 }

/-- FAULTREPLAY (R309, R375). -/
def execFaultreplay (ring : Nat) (s : State) : Host.Outcome State Fault Refusal :=
  s.forwarded ring 0xB fun p =>
    if !p.zero [(8, 1), (9, 1), (0xC, 4)] || 16 ≤ p.f 8 1 || 2 ≤ p.f 9 1 then s.ringError p.ring 6
    else
      match s.consume p.ring false [] with
      | .error e => .error e
      | .ok s1 => s1.disposeFaults (p.f 8 1) (p.f 0xC 4) (p.f 9 1 == 1)

/-- The fields of ERRQUERY stand where the table names them, and OP is known. -/
def errqueryOk (p : Packet) : Bool := p.zero [(8, 1), (0x10, 8), (0x18, 4), (0x1C, 4), (0x20, 8)] && p.f 8 1 ≤ 1

/-- ERRQUERY_EVENTS (R375): the logged events among the COUNT sequence numbers from FIRST, then their number. -/
def execErrqueryEvents (ring : Nat) (s : State) : Host.Outcome State Fault Refusal :=
  s.forwarded ring 0xC fun p =>
    let first := p.f 0x18 4
    let count := p.f 0x1C 4
    if !errqueryOk p then s.ringError p.ring 6
    else if p.f 8 1 == 1 then .ok s
    else
      let es := s.cmd.events.filter fun e => (e.seq + 2 ^ 32 - first) % 2 ^ 32 < count
      if s.devWaits p.ring.ctx true .write (p.w 0x10) (64 * es.length) || s.devWaits p.ring.ctx true .write (p.w 0x10 + dw (64 * count)) 4 then .ok s
      else
      match (s.devWrite p.ring.ctx true (p.w 0x10) (es.flatMap (·.bytes))).bind fun s1 =>
          s1.devWrite p.ring.ctx true (p.w 0x10 + dw (64 * count)) (bytesOf 4 es.length) with
      | none => s.ringError p.ring 6
      | some s1 => s1.consume p.ring false []

/-- MODE of TRET (R216). -/
def tretMode (m : Nat) : TMode := match m with | 0 => .next | 1 => .retry | 2 => .goto | _ => .kill

/-- ERRQUERY_TRET (R375, R216). -/
def execErrqueryTret (ring : Nat) (s : State) : Host.Outcome State Fault Refusal :=
  s.forwarded ring 0xC fun p =>
    if !errqueryOk p then s.ringError p.ring 6
    else if p.f 8 1 == 0 then .ok s
    else if 4 ≤ p.f 0x1C 4 then s.ringError p.ring 6
    else if s.devWaits p.ring.ctx true .write (p.w 0x10) 4 then .ok s
    else
      let q := s.tret (BitVec.ofNat 32 (p.f 0x18 4)) (tretMode (p.f 0x1C 4)) (p.w 0x20)
      match q.2.devWrite p.ring.ctx true (p.w 0x10) (bytesOf 4 q.1.toNat) with
      | none => s.ringError p.ring 6
      | some s1 => s1.consume p.ring false []

/-- Register writes in order, each checked as SYSWR would (R375): the state and whether all were made. -/
def State.sysWrites : List (Nat × DWord) → State → State × Bool
  | [], s => (s, true)
  | w :: ws, s => if s.sysOk w.1 w.2 then State.sysWrites ws (s.sysApply 688 w.1 w.2) else (s, false)

/-- SNAPCFG's register writes in order: CTL, TIMER, STRIPE, SCMBASE, the regions, RBLD. -/
def snapWrites (p : Packet) (tbl : List Byte) : List (Nat × DWord) :=
  [(0x400, dw (p.f 8 4)), (0x403, dw (p.f 0xC 4)), (0x404, p.w 0x10), (0x405, p.w 0x18)] ++
  ((List.range (tbl.length / 16)).flatMap fun i =>
    [(0x410 + 2 * i, dw (field tbl (16 * i) 8)), (0x411 + 2 * i, dw (field tbl (16 * i + 8) 8))]) ++
  (if p.f 0x28 8 == 0 then [] else [(0x40C, p.w 0x28)])

/-- SETSTEP (R375): the step is written, and every configured region retagged. -/
def State.setStep (s : State) (v : Word) : State :=
  (List.range s.ckpt.nreg).foldl (fun s i =>
    s.retag (s.ckpt.rbase.getD i 0).toNat (s.ckpt.rsize.getD i 0).toNat ((v - 1).setWidth 8)) { s with ckpt := { s.ckpt with step := v } }

/-- SNAPCFG (R375, R341): SETSTEP's step comes first, and then the register writes, of which the first that SYSWR would refuse ends it. -/
def execSnapcfg (ring : Nat) (s : State) : Host.Outcome State Fault Refusal :=
  s.forwarded ring 6 fun p =>
    let set := p.f 0x34 4 == 1
    let n := p.f 8 4 % 16
    if !p.zero [(8, 0x30)] || 2 ≤ p.f 0x34 4 then s.ringError p.ring 6
    else if set && (s.stepResident || s.ckpt.sweep.isSome || s.ckpt.reqs.any (!·.mode)) then s.ringError p.ring 7
    else if s.ckpt.sweep.isSome || (n != 0 && n ≤ 8 && s.devWaits p.ring.ctx true .read (p.w 0x20) (16 * n)) then .ok s
    else
      match (if n == 0 || 8 < n then some [] else s.devRead p.ring.ctx true (p.w 0x20) (16 * n)) with
      | none => s.ringError p.ring 6
      | some tbl =>
        match State.sysWrites (snapWrites p tbl) (if set then s.setStep (BitVec.ofNat 32 (p.f 0x30 4)) else s) with
        | (s1, true) => s1.consume p.ring false []
        | (s1, false) => s1.ringError p.ring 6

end Sys2Proof.Machine
end

