-- ==== Sys2Proof/Machine/Submit.lean ====
section
/-! DEFINITION. LAUNCH (R249, R256, R258, R376, R377), its re-issue after a shrink (R351), and the packets THATCH_CREATE,
THATCH_LOAD, THATCH_EVICT (R310, R311, R313, R374, R375). -/

namespace Sys2Proof.Machine

/-! The launch record (R376). -/

/-- A launch record; `succ` keeps the four queues, an unnamed one with launch number 0. -/
structure LaunchRec where
  khdr : DWord
  argp : DWord
  ext : List Nat
  lnum : Nat
  pred : Nat
  attr : Nat
  succ : List Succ
  shrink : DWord
  groups : DWord
  deriving DecidableEq, Repr

/-- The record's fields; none where a reserved field is not 0, or an unnamed queue has a field. -/
def LaunchRec.read (bs : List Byte) : Option LaunchRec :=
  let f := field bs
  let attr := f 0x48 4
  let succ := (List.range 4).map fun q =>
    ({ lnum := f (0x50 + 16 * q) 4, qcap := f (0x54 + 16 * q) 4, qbase := dw (f (0x58 + 16 * q) 8) } : Succ)
  if f 0x4C 4 == 0 && f 0xA0 32 == 0 && attr / 2 ^ 12 == 0 && attr / 2 ^ 6 % 4 == 0 && attr / 2 ^ 3 % 2 == 0 &&
      attr / 2 ^ 4 % 4 ≤ 1 && succ.all fun k => k.lnum != 0 || (k.qcap == 0 && k.qbase == 0) then
    some { khdr := dw (f 0 8), argp := dw (f 8 8), ext := (List.range 6).map fun j => f (0x10 + 8 * j) 8, lnum := f 0x40 4
           pred := f 0x44 4, attr := attr, succ := succ, shrink := dw (f 0x90 8), groups := dw (f 0x98 8) }
  else none

/-- The extents fit the header's fields (R256). -/
def extentsOk (h : Header) (ext : List Nat) : Bool :=
  let widths := if h.full then [64] else h.widths
  (List.range 6).all fun j =>
    match widths[j]? with
    | some w => ext.getD j 0 ≤ 2 ^ w
    | none => ext.getD j 0 == 0

/-- A shrink table (R377): package counts with their extents; none where it cannot be read or breaks the layout. -/
def State.shrinkTable (s : State) (ctx : Nat) (priv : Bool) (va : DWord) : Option (List (Nat × List Nat)) :=
  if va == 0 then some []
  else
    match s.devRead ctx priv va 4 with
    | none => none
    | some h =>
      let n := natOfBytes h
      (s.devRead ctx priv (va + 4) (56 * n)).bind fun bs =>
        if (List.range n).all fun i => field bs (56 * i + 4) 4 == 0 then
          some ((List.range n).map fun i => (field bs (56 * i) 4, (List.range 6).map fun j => field bs (56 * i + 8 + 8 * j) 8))
        else none

/-- A group table (R377): the ranks of groups 1 and up; none where it cannot be read or breaks a rule. -/
def State.groupTable (s : State) (ctx : Nat) (priv : Bool) (va : DWord) : Option (List (List Nat)) :=
  match s.devRead ctx priv va 8 with
  | none => none
  | some h =>
    let n := field h 0 4
    if n == 0 || 255 < n || field h 4 4 != 0 then none
    else
      (s.devRead ctx priv (va + 8) (16 * n)).bind fun bs =>
        let e (i k : Nat) : Nat := field bs (16 * i + 4 * k) 4
        -- COUNT beyond the job's packages needs no list
        let ok := (List.range n).all fun i => e i 3 == 0 && e i 1 != 0 && e i 0 < s.cmd.npkg &&
          (e i 2 == 0 || e i 0 + (e i 1 - 1) * e i 2 < s.cmd.npkg)
        if ok then some ((List.range n).map fun i => (List.range (e i 1)).map fun k => e i 0 + k * e i 2) else none

/-- A group table takes effect (R377): every group that it defines counts its commands from 0 (R187); group 0, the whole job, is in no
table and counts on (log 36). -/
def State.setGroups (s : State) (ranks : List (List Nat)) : State :=
  { s with cmd := { s.cmd with groups := s.cmd.groups.filter (·.num == 0) ++
      (List.range ranks.length).map fun i => { num := i + 1, ranks := ranks.getD i [], count := 0 } } }

/-! Acceptance. -/

/-- What is left of an ended launch's killed workgroups, whose places are not free yet (R264), goes on under a number that no launch
record can name. -/
def State.moveLaunch (s : State) (old new : Nat) : State :=
  let n (x : Nat) : Nat := if x == old then new else x
  let cmd (c : MCmd) : MCmd := { c with lnum := n c.lnum }
  let core (k : CoreSt) : CoreSt :=
    { k with owner := k.owner.map fun o => (n o.1, o.2), mqueue := k.mqueue.map cmd
             mexec := k.mexec.map fun e => { e with cmd := cmd e.cmd }, mland := k.mland.map fun e => { e with cmd := cmd e.cmd }
             drain := k.drain.map fun d => { d with cmd := cmd d.cmd }, mgets := k.mgets.map fun g => { g with lnum := n g.lnum } }
  { s with
    wgs := s.wgs.map fun g => { g with lnum := n g.lnum }
    waves := s.waves.map fun w => { w with lnum := n w.lnum }
    cmds := s.cmds.map fun c => { c with lnum := n c.lnum }
    cores := s.cores.map fun p => (p.1, core p.2) }

/-- An ended launch goes when its number is used again: a dependent of it has no predecessor from then on (R249, R260), and it has ended
as a producer. Its workgroups that still hold places stay (R264). -/
def State.dropLaunch (s : State) (lnum : Nat) : State :=
  let stays (g : Wg) : Bool := g.lnum == lnum && g.state == .placed
  let kept (w : Wave) : Bool := w.lnum != lnum || s.wgs.any fun g => stays g && g.idx == w.wg
  let gone := s.producerOver lnum
  let other (l : Launch) : Launch :=
    { l with pred := if l.pred == lnum then 0 else l.pred
             inq := l.inq.map fun q => if gone || !q.producers.contains lnum then
                 { q with ended := if q.producers.contains lnum && !q.ended.contains lnum then q.ended ++ [lnum] else q.ended }
               else { q with producers := q.producers.map fun x => if x == lnum then 2 ^ 32 + s.nextId else x } }
  let s1 : State := { s with
    launches := (s.launches.filter (·.lnum != lnum)).map other
    wgs := s.wgs.filter fun g => g.lnum != lnum || stays g
    threads := s.threads.filter fun t => match s.waveOf t with | some w => kept w | none => true
    waves := s.waves.filter kept }
  { s1.moveLaunch lnum (2 ^ 32 + s.nextId) with nextId := s.nextId + 1 }

/-- An empty input queue for a kernel that has one (R258). -/
def Header.newQueue (h : Header) : Option InQueue :=
  if h.emitbatch == 0 then none else some { producers := [], ended := [], next := 0, written := [] }

/-- A launch at its start, its workgroups waiting for their cores, and counted as producer of its successors' queues (R249,
R257 to R259). -/
def State.startLaunch (s : State) (l : Launch) : State :=
  let start := { l with ended := false, nextRank := 0, exhausted := false, tickets := [], voided := [], inq := l.hdr.newQueue
                        freed := [], superstep := 0, claims := [], owned := [], deferred := []
                        start := if l.hdr.det then s.mem else [] }
  let s1 := s.dropLaunch l.lnum
  let feed (x : Launch) : Launch :=
    if l.succ.any (·.lnum == x.lnum) then
      { x with inq := x.inq.map fun q =>
          { q with producers := if q.producers.contains l.lnum then q.producers else q.producers ++ [l.lnum]
                   ended := q.ended.filter (· != l.lnum) } }
    else x
  { s1 with launches := (s1.launches ++ [start]).map feed
            wgs := s1.wgs ++ (List.range s.enabled.length).map fun c => newWg l.lnum c c l.hdr }

/-- Refusals under ERRCODE 6 (R42, R256, R258, R376). -/
def State.launchFields (s : State) (r : LaunchRec) (h : Header) : Bool :=
  extentsOk h r.ext && r.succ.all fun k => k.lnum == 0 ||
    (1 ≤ k.qcap && k.qcap ≤ 2 ^ 20 && ((s.launch? k.lnum).map (·.hdr.emitbatch)).getD 0 ≤ k.qcap)

/-- Refusals under ERRCODE 7 (R376). -/
def State.launchState (s : State) (r : LaunchRec) (right : Bool) : Bool :=
  r.lnum != 0 && !(s.launches.any fun l => l.lnum == r.lnum && !l.ended) &&
  (r.pred == 0 || (s.launch? r.pred).isSome) && r.succ.all (fun k => k.lnum == 0 || (s.launch? k.lnum).isSome) &&
  (r.attr % 2 == 0 || right)

/-- A collective command is queued or in flight (R187). -/
def State.collQueued (s : State) : Bool := s.cmds.any fun c => match c.op with | .coll .. => true | _ => false

/-- What a LAUNCH reads beside its record waits for its home (R296, R360). -/
def State.launchWaits (s : State) (q : Ring) (r : LaunchRec) : Bool :=
  let waits (va : DWord) (n : Nat) : Bool := s.devWaits q.ctx q.priv .read va n
  let count (va : DWord) : Nat := ((s.devRead q.ctx q.priv va 4).map natOfBytes).getD 0
  waits r.khdr 64 ||
  (match s.headerAt q.ctx q.priv r.khdr with
   | some h => h.ndecl != 0 && waits h.decl (16 * h.ndecl)
   | none => false) ||
  (r.shrink != 0 && (waits r.shrink 4 || waits (r.shrink + 4) (56 * count r.shrink))) ||
  (r.groups != 0 && (waits r.groups 8 || (count r.groups ≤ 255 && waits (r.groups + 8) (16 * count r.groups))))

/-- LAUNCH (R376). The record, its tables, the kernel header and its declaration table (R43) are read in the ring's context (log 41). -/
def execLaunch (ring : Nat) (s : State) : Host.Outcome State Fault Refusal :=
  s.forwarded ring 1 fun p =>
    let q := p.ring
    if !p.zero [(8, 8)] || (p.w 8).toNat % 64 != 0 || !canonical (p.w 8) then s.ringError q 6
    else
      match s.ringRead q q.priv (p.w 8) 192 with
      | .error e => e
      | .ok bs =>
        match LaunchRec.read bs with
        | none => s.ringError q 6
        | some r =>
          let ctx := r.attr / 2 ^ 8 % 16
          if s.launchWaits q r then .ok s
          else
          let table := if r.groups == 0 then some none else (s.groupTable q.ctx q.priv r.groups).map some
          match s.headerAt q.ctx q.priv r.khdr, s.shrinkTable q.ctx q.priv r.shrink, table with
          | some h, some sh, some gs =>
            let decl := s.declTable q.ctx q.priv h
            if !s.launchFields r h || !(decl.map (·.all declOk)).getD false then s.ringError q 6
            else if !s.launchState r q.priv || (r.groups != 0 && s.collQueued) then s.ringError q 7
            else
              let l : Launch :=
                { lnum := r.lnum, hdr := h, khdr := r.khdr, argp := r.argp, ext := r.ext, pred := r.pred, ctx := ctx
                  priv := r.attr % 2 == 1, step := r.attr / 2 % 2 == 1, debug := r.attr / 4 % 2 == 1, tpol := r.attr / 16 % 4
                  succ := r.succ, shrink := sh, objs := decl.getD [], ring := some (q.num, q.rd), ended := false, cancelled := false, nextRank := 0
                  exhausted := false, tickets := [], voided := [], inq := none, freed := [], superstep := 0, claims := []
                  owned := [], deferred := [], start := [], halten := false, brken := false, brktag := 0 }
              (s.consume q true []).map fun s1 =>
                (match gs with | some t => s1.setGroups t | none => s1).startLaunch l
          | _, _, _ => s.ringError q 6

/-- The launches that a shrink to n packages re-issues (R351, R377), with the extents of their tables. -/
def State.reissue (s : State) (ls : List Launch) (n : Nat) : State :=
  ls.foldl (fun s l =>
    match l.shrink.find? (·.1 == n) with
    | some e => if extentsOk l.hdr e.2 then s.startLaunch { l with ext := e.2, ring := none } else s
    | none => s) s

/-! Thatches. -/

/-- A thatch descriptor (R310), none where a field breaks it. A range that wraps, or whose last byte is not canonical, breaks it too (log
147). -/
def Thatch.parse (desc slotSize : Nat) (bs : List Byte) : Option Thatch :=
  let f := field bs
  let k := f 0x14 1
  let m := f 0x15 1
  let n := f 4 4
  let ys := f 0x10 4
  let st := f 0x18 4
  let vb := f 8 8
  let sts := (List.range (k + m)).map fun i => st / 8 ^ i % 8
  if bs.length == 64 && f 0 2 == 1 && f 2 1 < 16 && f 3 1 == 0 && 1 ≤ n && n ≤ 65535 && vb % 65536 == 0 &&
      1 ≤ k && k ≤ 8 && m ≤ 2 && ys % (4096 * k) == 0 && 65536 ≤ ys && ys ≤ slotSize && f 0x16 2 == 0 &&
      st / 8 ^ (k + m) == 0 && sts.eraseDups.length == k + m && f 0x1C 4 == 0 && f 0x20 8 % 4096 == 0 && f 0x28 24 == 0 &&
      canonical (dw vb) && vb + n * ys ≤ 2 ^ 64 && canonical (dw (vb + n * ys - 1)) then
    some { desc := desc, prio := f 2 1, nyealm := n, vbase := vb, ysize := ys, k := k, m := m, scmStacks := sts, soff := f 0x20 8
           lastAcq := 0, pins := [], loaded := false, loads := [] }
  else none

/-- The device may hold the thatch (R311): its range is apart from vault windows, heaps and other thatches, and its shards lie
within their stacks. -/
def State.thatchOk (s : State) (t : Thatch) : Bool :=
  let hi := t.vbase + t.nyealm * t.ysize
  let apart (a b : Nat) : Bool := b ≤ t.vbase || hi ≤ a || b ≤ a
  apart Config.vwin Config.vwinEnd &&
  (List.range 16).all (fun c => apart (s.mmu.hbase.getD c 0).toNat (s.mmu.hlimit.getD c 0).toNat) &&
  s.thatches.held.all (fun x => apart x.vbase (x.vbase + x.nyealm * x.ysize)) &&
  t.soff + t.nyealm * (t.ysize / t.k) ≤ 2 ^ 39

/-- A new residency window (R300): every slot empty. -/
def State.setWindow (s : State) (base : DWord) (cfg : Word) : State :=
  ({ s with mmu := { s.mmu with winbase := base }, thatches := { s.thatches with slots := [] } }).setWincfg cfg

/-- The window lies 64 KiB aligned in present HBM. -/
def State.windowOk (s : State) (base : DWord) (cfg : Word) : Bool :=
  let n := (cfg.toNat / 2 ^ 20 + 1) * (cfg.toNat % 2 ^ 16 * 2 ^ 16)
  base.toNat % 2 ^ 16 == 0 && cfg.toNat / 2 ^ 16 % 16 == 0 && cfg.toNat % 2 ^ 16 != 0 && base.toNat + n ≤ 0x8000000000 &&
  s.pageOk base.toNat n false

/-- THATCH_CREATE (R310, R311, R375). -/
def execThatchCreate (ring : Nat) (s : State) : Host.Outcome State Fault Refusal :=
  s.forwarded ring 8 fun p =>
    let desc := p.w 8
    let cfg : Word := BitVec.ofNat 32 (p.f 0x18 4)
    let set := p.w 0x10 != 0
    let bare : State := { s with thatches := { s.thatches with slots := [] } }
    if !p.zero [(8, 8), (0x10, 8), (0x18, 4)] || desc.toNat % 64 != 0 || !canonical desc then s.ringError p.ring 6
    else if (s.thatch? desc.toNat).isSome then s.consume p.ring false []
    else if (set && !s.thatches.held.isEmpty) || 256 ≤ s.thatches.held.length then s.ringError p.ring 7
    else if set && !bare.windowOk (p.w 0x10) cfg then s.ringError p.ring 6
    else if s.devWaits p.ring.ctx true .read desc 64 then .ok s
    else
      let s1 := if set then s.setWindow (p.w 0x10) cfg else s
      match (s.devRead p.ring.ctx true desc 64).bind (Thatch.parse desc.toNat s1.slotSize) with
      | none => s.ringError p.ring 6
      | some t =>
        if s.thatchOk t then
          { s1 with thatches := { s1.thatches with held := s1.thatches.held ++ [t] } }.consume p.ring false []
        else s.ringError p.ring 6

/-- THATCH load's own eviction (R313). -/
def State.loadEvict (s : State) (t : Thatch) : State :=
  match (List.range t.nyealm).find? fun y => !s.inSlots t.desc y with
  | none => s
  | some y =>
    if s.freeSlot.isSome then s
    else
      match s.victim fun x => x.prio < t.prio with
      | some n => s.reserveSlot n t.desc y
      | none => s

/-- THATCH_LOAD (R313, R374). -/
def execThatchLoad (ring : Nat) (s : State) : Host.Outcome State Fault Refusal :=
  s.forwarded ring 9 fun p =>
    if !p.zero [(8, 8)] then s.ringError p.ring 6
    else
      match s.thatch? (p.w 8).toNat with
      | none => s.ringError p.ring 7
      | some t =>
        let left := (List.range t.nyealm).filter fun y => (s.slotOf t.desc y).isNone
        (s.consume p.ring (!left.isEmpty) []).map fun s1 =>
          (s1.modThatch t.desc fun x =>
            { x with loaded := true, loads := if left.isEmpty then x.loads else x.loads ++ [((p.ring.num, p.ring.rd), left)] }).loadEvict t

/-- An evict is accepted (R311): what held or waited on the thatch goes on. A load of it that has not completed is complete
(log 37). -/
def State.evictThatch (s : State) (t : Thatch) : Did :=
  let uids := (s.threads.filter fun x => match x.hold with | .yacq d _ => d == t.desc | _ => false).map (·.uid)
  let s1 := s.modThreads uids fun x => x.trap (s.trapIds x) cYealmInvalid x.ilen x.pc
  let th := s1.thatches
  let s2 : State := { s1 with thatches := { th with
    held := th.held.filter (·.desc != t.desc)
    slots := th.slots.map fun x => match x.holds with | some (d, _) => if d == t.desc then .empty else x | none => x
    queue := th.queue.filter (·.1 != t.desc)
    failed := th.failed.filter (·.1 != t.desc) } }
  let s3 := t.loads.foldl (fun s l => s.packetDone (some l.1)) (s2.wakeSwap fun d _ => d == t.desc)
  match replaySwaps (s3.thatches.swaps.filter (·.desc == t.desc)) s3 with
  | .error e => .error e
  | .ok s4 => serveAgain (s4.cmd.remote.filter fun w => (w.swap.map (·.1)) == some t.desc) s4

/-- THATCH_EVICT (R311, R374). It waits for loads that have translated to the thatch's slots (R289). -/
def execThatchEvict (ring : Nat) (s : State) : Host.Outcome State Fault Refusal :=
  s.forwarded ring 0xA fun p =>
    if !p.zero [(8, 8)] then s.ringError p.ring 6
    else
      match s.thatch? (p.w 8).toNat with
      | none => s.ringError p.ring 7
      | some t =>
        if !t.pins.isEmpty then s.ringError p.ring 7
        else if s.evictWaits (p.w 8).toNat then .ok s
        else
          match s.consume p.ring false [] with
          | .error e => .error e
          | .ok s1 => s1.evictThatch t

end Sys2Proof.Machine
end

