-- ==== Sys2Proof/Machine/Recovery.lean ====
section
/-! DEFINITION. Power and boot: POWER_FAIL (R343), COLD_RESET (R391 to R394), TRAINING_RETRAIN (R392), OVERTEMP_CUTOFF (R399),
ARBITRATION_INTERVAL (R397), WEAR_SAVE (R398), TEMPERATURE_THRESHOLD (R397 to R399); the ridge pair's failure: RIDGE_MISMATCH,
RIDGE_PAIR_RESTART (R370); the loss of a package: PACKAGE_LOST (R351 to R353). -/

namespace Sys2Proof.Machine

/-! Power (R343, R391 to R394, R399). -/

/-- What a loss of power or a reset leaves: SCM's media and the snapshots there, the host's own memory, the configuration NVM,
the survivors among channels and cores; the model's own fields go on. -/
def State.bare (s : State) : State :=
  let r := State.reset
  let offline (die : Nat) : Bool := s.power.dieState.getD die 0 == 2
  { r with
    mem := memSets (s.mem.filter fun c => s.spaceOf c.1 == .host) s.media, media := s.media, poison := s.poison.filter fun p => s.spaceOf (p * 64) == .scm
    mmu := { r.mmu with channels := s.mmu.channels, nch := s.mmu.channels.length, nchEdit := s.mmu.channels.length }
    ckpt := { r.ckpt with gens := s.ckpt.gens, whole := s.ckpt.whole }
    cmd := { r.cmd with outbox := s.cmd.outbox }
    nvm := s.nvm
    power := { r.power with wear := s.power.wear, wearSaved := s.power.wearSaved, savedAt := s.power.savedAt, held := s.power.held
                            hot := s.power.hot, temps := s.power.temps, inlet := s.power.inlet
                            outlet := s.power.outlet, throttle := s.power.throttle, thermN := s.power.thermN
                            dieState := s.power.dieState.map fun d => if d == 2 then 2 else 0, drainMark := s.power.drainMark }
    enabled := s.enabled.filter fun c => !offline (c / 84)
    agenda := s.agenda, clock := s.clock, free := s.free, nextId := s.nextId }

/-- The hold-up bank is charged, 30 s after VMAIN (R399). -/
def State.charged (s : State) : Bool := 30 * 1000000 * Config.us ≤ s.power.held + s.clock

/-- What an unplanned loss leaves of the wear counters (R398): the saved seconds and bytes; of the cycles, one at most is missing where
`short`, and is not yet saved; the others are whole. -/
def Power.wearLeft (p : Power) (short : Bool) : List (Nat × Nat) :=
  let old (k : Nat) : Nat := ((p.wearSaved.find? (·.1 == k)).map (·.2)).getD 0
  p.wear.map fun w => (w.1,
    if w.1 % 16 == 1 || w.1 % 16 == 4 then old w.1
    else if w.1 % 16 == 0 && short then max (old w.1) (w.2 - 1) else w.2)

/-- Power fails (R343): accesses that have not completed are discarded, the persist queue drains (in part only, how far is a
free value, before the bank is charged), the wear counters are saved, and the rest is lost. Without a whole drain the counters
keep what R398 grants, of which the missing cycle is a free value (log 157). -/
def State.powerFail (s : State) : State :=
  if !s.power.vmain then s
  else
    let n := if s.charged then s.pq.length else (Config.freeWord s.free).toNat % (s.pq.length + 1)
    let s1 := s.persisted (s.pq.take n)
    let whole := n == s.pq.length
    let w := if whole then (s1.power.bump 8 3 1).wear else s1.power.wearLeft ((Config.freeWord (s.free + 1)).toNat % 2 == 1)
    { s1 with free := s.free + 2, pq := [], power := { s1.power with wear := w, wearSaved := w, drainMark := whole } }.bare

/-- POWER_FAIL (R343). -/
def execPowerFail (s : State) : Host.Outcome State Fault Refusal :=
  let s1 := s.powerFail
  .next { s1 with power := { s1.power with vmain := false } }

/-- OVERTEMP_CUTOFF (R399): with the outlet above 70.0 degrees, VMAIN is cut after the drain. It comes of itself (`State.dueAct`). -/
def execOvertempCutoff (s : State) : Host.Outcome State Fault Refusal :=
  if 700 < s.power.outlet then execPowerFail s else .next s

/-- Units with training records (R392): HBM stacks 0 to 7, SCM stacks 8 to 15, links 16 to 51, the host port 52. -/
def trainingUnits : List Nat := List.range 53

/-- The wear unit whose temperature a training unit's is (R398): its stack, or its eave die; the host port stands on die 0 (R380). -/
def trainedOn (unit : Nat) : Nat :=
  if unit < 8 then 24 + unit else if unit < 16 then 8 + unit else if unit < 52 then 9 + (unit - 16) / 9 else 9

/-- The temperature of a training unit, in 0.1 degrees. -/
def Power.trainTemp (p : Power) (unit : Nat) : Nat := ((p.temps.find? (·.1 == trainedOn unit)).map (·.2)).getD 0

/-- A copy of a record is valid: its digest matches (R392). -/
def TrainRec.valid (r : TrainRec) : Bool := r.digest == Config.recordDigest r.settings r.temp

/-- A unit trains from its stored record (R392): the newer valid copy, taken within 25 degrees of now, whose settings pass the eye check. -/
def State.recordGood (s : State) (unit : Nat) : Bool :=
  match (((s.nvm.records.find? (·.1 == unit)).map (·.2)).getD []).find? (·.valid) with
  | none => false
  | some r =>
    let now := s.power.trainTemp unit
    decide (r.temp ≤ now + 250 ∧ now ≤ r.temp + 250) && Config.eyePasses unit r.settings s.free

/-- The boot ROM accepts an image (R393): its signature verifies, and its security version is at least the fused minimum. -/
def imageOk (image : List Byte) : Bool := Config.signatureOk image && decide (Config.fusedMinimum ≤ Config.securityVersion image)

/-- Stage 4 of a boot (R391, R4): every built core of a die that is not offline is tested, and up to 80 that pass are enabled
(log 156). -/
def State.passing (s : State) : List Nat :=
  (List.range 8).flatMap fun d =>
    if s.power.dieState.getD d 0 == 2 then []
    else (((List.range 84).map (d * 84 + ·)).filter fun c => Config.corePasses c s.free).take 80

/-- The boot from reset (R391 to R394): the images of configuration NVM are authenticated, the units train, the cores are tested, the
interleave table is written for the surviving channels, CKPT follows the snapshot area's header, and the drain's mark is checked. MS is
a free value within the bounds of R391. With no image valid the device is in recovery: of the units the host port alone trains. -/
def State.boot (s : State) : State :=
  let p := s.power
  let held := if p.vmain then p.held + s.clock else 0
  let s0 := if p.vmain then ({ s with pq := [] }.persisted s.pq).bare else s.bare
  let s1 : State := { s0 with clock := 0, free := s0.free + 1
                              power := { s0.power.bump 8 2 1 with vmain := true, held := held
                                                                  savedAt := if p.vmain then p.savedAt else 0 } }
  let okA := imageOk s.nvm.slotA
  let weak := trainingUnits.filter fun u => !s.recordGood u
  if !okA && !imageOk s.nvm.slotB then
    let port := weak.filter (· == 52)
    { s1 with cmd := { s1.cmd with booted := true, recovery := true, bootstat := BitVec.ofNat 32 (2 ^ 31 + port.length * 2 ^ 16) }
              power := { s1.power with retrain := port } }
  else
    -- the newest generation that the snapshot area header names (R343, R350)
    let named (g : SnapGen) : Bool := g.place.isNone || memBytes s1.media g.area 8 == headerBytes g.step
    let gens := s1.ckpt.gens.dropWhile fun g => !named g
    let last := match gens.head? with | some g => g.step | none => 0xFFFFFFFF
    let ms := (Config.freeWord s.free).toNat % (if weak.isEmpty then 3201 else 45001)
    let boot : Word := BitVec.ofNat 32 ((if okA then 0 else 2 ^ 30) + (if p.drainMark then 0 else 2 ^ 29) + weak.length * 2 ^ 16 + ms)
    { s1 with links := (List.range 36).map fun l =>
                { Link.reset l with up := !weak.contains (16 + l), downSince := if weak.contains (16 + l) then some 0 else none }
              enabled := s1.passing
              ckpt := { s1.ckpt with gens := gens, lastok := last, step := if last == 0xFFFFFFFF then 0 else last + 1 }
              cmd := { s1.cmd with booted := true, bootstat := boot }
              power := { s1.power with retrain := weak, drainMark := true } }

/-- Configuration NVM with the images that a tool outside the device has put into its slots; none leaves a slot (log 156). -/
def Nvm.programmed (n : Nvm) (imageA imageB : List Byte) : Nvm :=
  { n with slotA := if imageA.isEmpty then n.slotA else imageA, slotB := if imageB.isEmpty then n.slotB else imageB }

/-- COLD_RESET (R391); while it was in reset its slots may have been programmed from outside (log 156). -/
def execColdReset (imageA imageB : List Byte) (s : State) : Host.Outcome State Fault Refusal :=
  .next { s with nvm := s.nvm.programmed imageA imageB }.boot

/-- TRAINING_RETRAIN (R392): a unit has retrained, with settings that are a free value, and its record is to be rewritten; a link then
comes up. -/
def execTrainingRetrain (unit : Nat) (s : State) : Host.Outcome State Fault Refusal :=
  let p := s.power
  if !p.retrain.contains unit then .next s
  else
    let settings := (Config.freeWord s.free).toNat
    let temp := p.trainTemp unit
    let r : TrainRec := { settings := settings, temp := temp, digest := Config.recordDigest settings temp }
    let s1 : State := { s with free := s.free + 1, power := { p with retrain := p.retrain.filter (· != unit)
                                                                     recsDue := p.recsDue ++ [(unit, r)] } }
    .next (if 16 ≤ unit && unit < 52 then s1.modLink (unit - 16) fun l => { l with up := true } else s1)

/-- Queue pair 1 answers (R391): the boot has run, and the memory stacks and the host port have trained. -/
def State.answers (s : State) : Bool := s.power.vmain && s.cmd.booted && s.power.retrain.all fun u => 16 ≤ u && u < 52

/-! The arbiter (R396, R397). -/

/-- TOTAL as the arbiter takes it. -/
def Power.budget (p : Power) : Nat := if p.throttle then p.total * 9 / 10 else p.total

/-- The grants for requests over a pool (R397); none for a die whose grant the formula does not state: the pool falls short of
the shares and no die asks for more than its own. -/
def grantsOf (pool : Int) (defs reqs : List Nat) : List (Option Nat) :=
  let ds := List.range 8
  let r (d : Nat) : Nat := reqs.getD d 0
  let q (d : Nat) : Nat := defs.getD d 0
  if ((ds.foldl (fun a d => a + r d) 0 : Nat) : Int) ≤ pool then ds.map fun d => some (r d)
  else
    let g (d : Nat) : Nat := min (r d) (q d)
    let spare : Int := pool - (ds.foldl (fun a d => a + g d) 0 : Nat)
    let x (d : Nat) : Nat := r d - q d
    let tot := ds.foldl (fun a d => a + x d) 0
    if tot == 0 then ds.map fun _ => none
    else
      let h (d : Nat) : Int := (g d : Int) + Int.fdiv (spare * (x d : Int)) (tot : Int)
      let left := (pool - ds.foldl (fun a d => a + h d) 0).toNat
      let extra := (ds.filter fun d => 0 < x d).take left
      ds.map fun d =>
        let v := h d + (if extra.contains d then 1 else 0)
        if v < 0 then none else some v.toNat

/-- A boundary of 1 us has been reached whose grants are not computed (R397). -/
def State.arbDue (s : State) : Bool := s.power.vmain && decide (s.power.arbAt < s.clock / Config.us)

/-- ARBITRATION_INTERVAL (R397, R222, R234), at a boundary: new grants, and the PWRREQs that asked before it are answered; the matrix
engines set their stretch again. -/
def execArbitrationInterval (s : State) : Host.Outcome State Fault Refusal :=
  let p := s.power
  if !s.arbDue then .next s else
  let reqs := (List.range 8).map fun d => ((p.requests.find? (·.1 == d)).map (·.2)).getD (p.defs.getD d 0)
  let out := grantsOf ((p.budget : Int) - p.reserve) p.defs reqs
  let grants := (List.range 8).map fun d =>
    match out.getD d none with
    | some v => v % 2 ^ 16
    | none => (Config.freeWord (s.free + d)).toNat % 2 ^ 16
  let s1 : State := { s with free := s.free + 8, power := { p with grants := grants, waiting := [], arbAt := s.clock / Config.us } }
  .next (p.waiting.foldl (fun s w =>
    (s.writeRegs w.uid (wr1 w.d (BitVec.ofNat 32 (grants.getD w.die 0)) tagINT)).flagFall [w.uid] w.setf) s1.restretchAll)

/-! Temperatures and wear (R397 to R399). -/

/-- When the counters are saved again: 600 s after the last time (R398). -/
def Power.saveDue (p : Power) : Nat := p.savedAt + 600 * 1000000 * Config.us - p.held

/-- WEAR_SAVE (R398). -/
def execWearSave (s : State) : Host.Outcome State Fault Refusal := .next { s with power := s.power.saveWear s.clock }

/-- Cold-plate temperatures: the throttle between 60.0 and 55.0 degrees, THERM_N (R397, R399). -/
def Power.plate (p : Power) (inlet outlet : Nat) : Power :=
  let th := if 600 < outlet then true else if outlet < 550 then false else p.throttle
  { p with inlet := inlet % 2 ^ 16, outlet := outlet % 2 ^ 16, throttle := th, thermN := th || 450 < inlet }

/-- A unit's temperature (R398): the present one, its highest, and a cycle when it falls below 35 degrees after 65. -/
def Power.unitTemp (p : Power) (unit tenths : Nat) : Power :=
  let old := ((p.wear.find? (·.1 == unit * 16 + 5)).map (·.2)).getD 0
  let p1 := { p.bump unit 5 (tenths - old) with temps := (unit, tenths) :: p.temps.filter (·.1 != unit) }
  if 650 < tenths then { p1 with hot := if p1.hot.contains unit then p1.hot else unit :: p1.hot }
  else if tenths < 350 && p1.hot.contains unit then { p1.bump unit 0 1 with hot := p1.hot.filter (· != unit) }
  else p1

/-- TEMPERATURE_THRESHOLD (R397 to R399): of a wear unit, or of the plate's outlet (unit 32) or inlet (unit 33). -/
def execTemperatureThreshold (unit tenths : Nat) (s : State) : Host.Outcome State Fault Refusal :=
  .next { s with power :=
    if unit == 32 then s.power.plate s.power.inlet tenths
    else if unit == 33 then s.power.plate tenths s.power.outlet
    else if wearKept unit 5 then s.power.unitTemp unit tenths
    else s.power }

/-! The ridge pair (R370). -/

/-- RIDGE_MISMATCH (R370): the pair stops and its threads are lost; a second mismatch within 1 s fails the device. -/
def execRidgeMismatch (s : State) : Host.Outcome State Fault Refusal :=
  if s.cmd.ridge == .stopped || !s.power.vmain then .next s
  else
    let again := match s.cmd.mismatchAt with | some t => decide (s.clock ≤ t + 1000000 * Config.us) | none => false
    let s1 := (s.endThreads ((s.threads.filter fun t => t.loc.core == 688 && t.status != .exited).map (·.uid))).postEvent 8 [] 0
    let s2 : State := { s1 with cmd := { s1.cmd with ridge := if again then .stopped else .restarting, mismatchAt := some s.clock } }
    .next (if again then s2.killJob.postEvent 9 [] 0 else s2)

/-- RIDGE_PAIR_RESTART (R370): packets accepted and not completed keep the one effect they have had. -/
def execRidgePairRestart (s : State) : Host.Outcome State Fault Refusal :=
  .next (if s.cmd.ridge == .restarting then { s with cmd := { s.cmd with ridge := .running } } else s)

/-! The loss of a package (R351 to R353). -/

/-- Commands that name lost packages are cancelled as poisoned (R351). -/
def State.cancelLost (s : State) : State := (s.cmds.filter s.namesLost).foldl (fun s c => s.cancelCmd c) s

/-- The new number of a rank (R4, R352). -/
def renumber (lost : List Nat) (r : Nat) : Nat := r - (lost.filter (· < r)).length

/-- Survivors of a list of ranks under their new numbers. -/
def renumbered (lost ranks : List Nat) : List Nat := (ranks.filter fun r => !lost.contains r).map (renumber lost)

/-- The re-cut (R352): packages, collective groups, the peer table, the stripe group; a group left with K = 0 clears EN. -/
def State.recut (s : State) (lost : List Nat) : State :=
  let c := s.ckpt
  let n := s.cmd.npkg - lost.length
  let mine := lost.filter fun r => c.gbase ≤ r && r < c.gbase + c.k + c.m
  let k := c.k - mine.length
  let alive := (List.range s.cmd.npkg).filter fun r => !lost.contains r
  { s with
    ckpt := { c with gbase := renumber lost c.gbase, k := k, en := c.en && k != 0
                     gens := c.gens.map fun (g : SnapGen) => { g with ranks := alive.map fun r => g.ranks.getD r r } }
    cmd := { s.cmd with
      rank := renumber lost s.cmd.rank, npkg := n, lost := renumbered lost s.cmd.lost
      groups := s.cmd.groups.map fun (g : Group) =>
        { num := g.num, ranks := if g.num == 0 then List.range n else renumbered lost g.ranks, count := 0 }
      links := s.cmd.links.map fun (p : LinkPeer) => p.bind fun r => if lost.contains r then none else some (renumber lost r)
      hops := alive.map fun r => s.cmd.hops.getD r none } }

/-- A stripe group of the job loses more members than it has parity (R353); the groups follow each other with the size of this
package's own (log 34). -/
def State.tooMany (s : State) (lost : List Nat) : Bool :=
  let size := s.ckpt.k + s.ckpt.m
  (List.range s.cmd.npkg).any fun b => size != 0 && b % size == s.ckpt.gbase % size &&
    s.ckpt.m < (lost.filter fun r => b ≤ r && r < b + size).length

/-- The rollback to a step of which this package holds no shard: the device step follows (R351, step 3). -/
def noGen (step : Word) : SnapGen :=
  { step := step, gbase := 0, k := 0, m := 0, shard := 0, rank := 0, regions := [], data := [], bad := [], parity := [], ranks := [] }

/-- What the survivor rebuilds (R351, step 4) in the numbering of the snapshot; none where it cannot (R353). -/
def SnapGen.rebuildLost (g : SnapGen) (lost : List Nat) (peers : List PeerSnap) : Option (List (List Byte)) :=
  let name (r : Nat) : Nat := g.ranks.getD r r
  let gone := ((List.range (g.gbase + g.k + g.m)).filter fun r => !g.ranks.contains r) ++ lost.map name
  if g.m < (gone.filter fun r => g.gbase ≤ r && r < g.gbase + g.k + g.m).length then none
  else g.rebuild (peers.map fun (p : PeerSnap) => { p with rank := name p.rank }) gone

/-- BODY of JOB_SHRUNK and JOB_LOST (R379). -/
def lostBody (step : Word) (lost : List Nat) : List Byte :=
  bytesOf 4 step.toNat ++ bytesOf 4 lost.length ++ (lost.take 6).flatMap fun r => bytesOf 4 r

/-- The job stays as it was, reported lost (R353). -/
def State.jobLost (s : State) (step : Word) (lost : List Nat) : State :=
  { s with ckpt := { s.ckpt with en := false } }.postEvent 4 (lostBody step lost) 0

/-- Steps 3 to 6 of R351 for lost packages, or JOB_LOST (R353). -/
def State.lossDone (s : State) (r : Rolling) : State :=
  match r.gen with
  | none => (s.rollbackTo (noGen r.step)).jobLost r.step r.lost
  | some g =>
    let s2 := s.rollbackTo g
    match (if s.tooMany r.lost then none else (s2.genNow g).rebuildLost r.lost r.peers) with
    | none => s2.jobLost r.step r.lost
    | some shards =>
      let s3 := s2.writeHome ((cellsAt s2.ckpt.rbld.toNat (shards.flatMap id)).map fun b => (s2.homed b.1, b.2)) false
      let s4 := (s3.recut r.lost).postEvent 3 (lostBody r.step r.lost) 0
      s4.reissue r.live s4.cmd.npkg

/-- What a rollback has waited for is complete (R264), and HBM may be rewritten (R296): the rest of its steps. -/
def State.rollOn (s : State) (r : Rolling) : State :=
  let s1 : State := { s with rolling := none }
  if r.lost.isEmpty then s1.rollDone r.gen else s1.lossDone r

/-- Every link to a package has been out of service for 20 us, which makes it lost (R351): the commands that name it are cancelled. -/
def State.noteLost (s : State) (pkg : Nat) : State :=
  { s with cmd := { s.cmd with lost := s.cmd.lost ++ [pkg] } }.cancelLost

/-- PACKAGE_LOST (R351 to R353): the survivors have agreed on the lost ranks and on L, the smallest CKPT.LASTOK among them, so at most
the one here; `peers` hold what the others keep of that step. With no rank lost it is the rollback that a peer's machine check asks
for (R355). The links tell this package of its own losses (`State.cutOff`); a peer's failure, and the conditions of the other survivors,
are the agenda's (log 129). HBM is rewritten after what the killed workgroups had issued is complete (R264), and after an edit of the
interleave table (R296). -/
def execPackageLost (ranks : List Nat) (agreedStep : Word) (peers : List PeerSnap) (s : State) : Host.Outcome State Fault Refusal :=
  let lost := sortBy id ranks.eraseDups
  let gen := s.ckpt.gens.find? (·.step == agreedStep)
  if s.cmd.ridge != .running || s.rolling.isSome || s.mmu.ilvEdit || s.ckpt.lastok.toNat < agreedStep.toNat ||
      lost.any fun r => s.cmd.npkg ≤ r || r == s.cmd.rank then .next s
  else if lost.isEmpty then .next (match gen with | some g => s.rollJob (some g) | none => s)
  else
    let r : Rolling := { lost := lost, step := agreedStep, gen := gen, peers := peers, live := s.launches.filter fun l => !l.ended }
    let s1 := { s with cmd := { s.cmd with lost := (s.cmd.lost ++ lost).eraseDups } }.cancelLost.killJob
    .next (if s1.jobQuiet then s1.lossDone r else { s1 with rolling := some r })

end Sys2Proof.Machine
end

