-- ==== Sys2Proof/Machine/Maintain.lean ====
section
/-! DEFINITION. Scrubbing, retirement and reset domains: SCRUB_PASS (R356, R357), CHANNEL_RETIRE (R358, R359), CORE_RESET and
CORE_RESET_END (R360). -/

namespace Sys2Proof.Machine

/-! The evacuation plan (R359). Blocks are of 2 MiB. -/

/-- Block b is free in the host's bitmap. -/
def State.blockFree (s : State) (b : Nat) : Bool :=
  (memGet s.mem (s.homed (s.ckpt.freemap.toNat + b / 8))).toNat / 2 ^ (b % 8) % 2 == 1

/-- Blocks whose contents lie in a displaced range: those the bitmap marks used, and the destinations of earlier re-homed
blocks. -/
def State.displaced (s : State) (lo hi : Nat) : List Nat :=
  ((List.range (hi - lo)).map (lo + ·)).filter fun b => !s.blockFree b || s.mmu.rehome.any fun r => r.2 / 2 ^ 21 == b

/-- A key is taken by an earlier re-homed block. -/
def State.taken (s : State) (a : Nat) : Bool := s.mmu.rehome.any fun r => r.2 < a + 2 ^ 21 && a < r.2 + 2 ^ 21

/-- Free blocks below lo. -/
def State.freeBlocks (s : State) (lo : Nat) : List Nat :=
  ((List.range lo).filter fun b => s.blockFree b && !s.taken (b * 2 ^ 21)).map (· * 2 ^ 21)

/-- Blocks of the SCM spare area (R341). -/
def State.spareBlocks (s : State) : List Nat :=
  let v := s.ckpt.spare.toNat
  ((List.range (v % 2 ^ 20)).map fun i => v / 2 ^ 20 % 2 ^ 28 * 2 ^ 20 + i * 2 ^ 21).filter fun a => !s.taken a

/-- Window slots that hold unpinned yealms, in the order R359 evicts them, below lo. -/
def State.planSlots (s : State) (lo : Nat) : List Nat :=
  ((sortBy (fun (c : Nat × Nat × Thatch × Nat) => evictKey c.2.1 c.2.2.1 c.2.2.2) s.unpinned).map (·.1)).filter fun n =>
    !s.slotRead n && s.slotBase n + s.slotSize ≤ lo * 2 ^ 21

/-- The blocks that lie wholly in a slot. -/
def State.slotBlocks (s : State) (n : Nat) : List Nat :=
  ((List.range (s.slotSize / 2 ^ 21 + 1)).map fun i => (s.slotBase n + 2 ^ 21 - 1) / 2 ^ 21 * 2 ^ 21 + i * 2 ^ 21).filter fun a =>
    a + 2 ^ 21 ≤ s.slotBase n + s.slotSize

/-- The plan: each displaced block's destination, and the slots given up; or the number of blocks without one. -/
def State.evacPlan (s : State) (lo hi : Nat) : Except Nat (List (Nat × Nat) × List Nat) :=
  let blocks := s.displaced lo hi
  let plain := s.freeBlocks lo ++ s.spareBlocks
  let slots := (s.planSlots lo).foldl (fun (acc : List Nat × Nat) n =>
    if acc.2 < blocks.length then (acc.1 ++ [n], acc.2 + (s.slotBlocks n).length) else acc) ([], plain.length)
  let dests := plain ++ slots.1.flatMap s.slotBlocks
  if dests.length < blocks.length then .error (blocks.length - dests.length) else .ok (blocks.zip dests, slots.1)

/-- What the device holds by key follows a block (R358): lock words, deferred entries, claims and owned lines. -/
def State.moveHeld (s : State) (f : Nat → Nat) : State :=
  let line (x : Nat × Nat) : Nat × Nat := (f (x.1 * 256) / 256, x.2)
  { s with
    locks := s.locks.map fun l => (f l.1, l.2)
    wgs := s.wgs.map fun g => { g with saved := g.saved.map fun v => { v with locks := v.locks.map fun l => (f l.1, l.2) } }
    launches := s.launches.map fun l =>
      { l with claims := l.claims.map line, owned := l.owned.map line
               deferred := l.deferred.map fun d =>
                 { d with bytes := d.bytes.map fun b => (f b.1, b.2)
                          red := d.red.map fun r => (r.1, r.2.1, r.2.2.1, f r.2.2.2.1, r.2.2.2.2) } } }

/-- One block moves with its marks and tags, and the lines that a running sweep has saved of it (R347, R358): one that was itself a
destination leads its own block further. -/
def State.moveBlock (s : State) (p : Nat × Nat) : State :=
  let src := p.1 * 2 ^ 21
  let n := 2 ^ 21
  let moved (l : Nat) : Nat := (p.2 + (l * 64 - src)) / 64
  let inSrc (l : Nat) : Bool := src ≤ l * 64 && l * 64 < src + n
  let tags := (s.tags.filter fun t => inSrc t.1).map fun t => (moved t.1, t.2)
  let mmu := s.mmu
  let earlier := mmu.rehome.any fun r => r.2 == src
  let image (l : Nat × List Byte × Bool) : Nat × List Byte × Bool := if inSrc l.1 then (moved l.1, l.2) else l
  let s1 := s.moveHeld fun k => if src ≤ k && k < src + n then p.2 + (k - src) else k
  { s1 with
    ckpt := { s.ckpt with sweep := s.ckpt.sweep.map fun w => { w with image := w.image.map image } }
    mem := memClear (memMove s.mem p.2 src n) src n
    poison := (s.poison.filter fun l => !inSrc l && !(p.2 ≤ l * 64 && l * 64 < p.2 + n)) ++ (s.poison.filter inSrc).map moved
    tags := sortBy (·.1) ((s.tags.filter fun t => !inSrc t.1) ++ tags)
    mmu := { mmu with rehome := if earlier then mmu.rehome.map fun r => if r.2 == src then (r.1, p.2) else r
                                else mmu.rehome ++ [p] } }

/-- Contents of the displaced range that are free are lost with it (R358). -/
def State.dropRange (s : State) (lo hi : Nat) : State :=
  { s with mem := memClear s.mem (lo * 2 ^ 21) ((hi - lo) * 2 ^ 21)
           tags := s.tags.filter fun t => !(lo * 2 ^ 21 ≤ t.1 * 64 && t.1 * 64 < hi * 2 ^ 21)
           poison := s.poison.filter fun l => !(lo * 2 ^ 21 ≤ l * 64 && l * 64 < hi * 2 ^ 21) }

/-- The retirement itself, with every workgroup saved (R358, steps 2 to 4). -/
def State.retire (s : State) (gone : List Nat) (plan : List (Nat × Nat) × List Nat) : State :=
  let left := s.mmu.channels.filter fun c => !gone.contains c
  let lo := left.length * 512
  let hi := s.mmu.channels.length * 512
  let s1 : State := { s.copyWhole with ckpt := { s.ckpt with whole := s.wholeImage } }
  let s2 := plan.2.foldl (fun s n => s.setSlot n .lost) s1
  let s3 := (plan.1.foldl (fun s p => s.moveBlock p) s2).dropRange lo hi
  { s3 with mmu := { s3.mmu with channels := left, nch := left.length, nchEdit := left.length, ilv := none }
            power := { s3.power with retiring := []
                                     dieState := if gone.length == 64 then s3.power.dieState.set (gone.headD 0 / 64) 2 else s3.power.dieState } }

/-- A request that R358 knows: one channel in use, or the 64 of a die whose cores are in reset. -/
def State.retireOk (s : State) (gone : List Nat) : Bool :=
  gone.all (s.mmu.channels.contains ·) && gone.length < s.mmu.channels.length && gone.eraseDups.length == gone.length &&
  (gone.length == 1 || (gone.length == 64 && gone.all (fun c => c / 64 == gone.headD 0 / 64) &&
    s.power.dieState.getD (gone.headD 0 / 64) 0 == 1))

/-- A retirement (R358): a plan that falls short moves nothing and posts EVAC_SHORT; else it goes on until every workgroup is
saved, and then moves the contents. -/
def State.startRetire (s : State) (gone : List Nat) : State :=
  if !s.retireOk gone || s.cmd.ridge != .running || s.mmu.ilvEdit then s
  else
    let n := s.mmu.channels.length
    match s.evacPlan ((n - gone.length) * 512) (n * 512) with
    | .error short => { s with power := { s.power with retiring := [] } }.postEvent 10 (bytesOf 8 short) 0
    | .ok _ =>
      let s1 := { s with power := { s.power with retiring := gone } }.saveAll
      if !s1.allSaved then s1
      else
        match s1.evacPlan ((n - gone.length) * 512) (n * 512) with
        | .error short => { s1 with power := { s1.power with retiring := [] } }.postEvent 10 (bytesOf 8 short) 0
        | .ok plan => s1.retire gone plan

/-- The next channel that the scrubber gave up begins to retire, once the ridge pair can take it (R356). -/
def State.retireStep (s : State) : State :=
  match s.power.retireNext with
  | [] => s
  | c :: rest =>
    if !s.power.retiring.isEmpty || s.cmd.ridge != .running || s.mmu.ilvEdit then s
    else State.startRetire { s with power := { s.power with retireNext := rest } } [c]

/-- CHANNEL_RETIRE (R358, R359): of these channels, or with none named, the one that waits goes on, or the next that is to retire. -/
def execChannelRetire (channels : List Nat) (s : State) : Host.Outcome State Fault Refusal :=
  .next (if !s.power.retiring.isEmpty then s.startRetire s.power.retiring
         else if channels.isEmpty then s.retireStep else s.startRetire channels)

/-- SCRUB_PASS (R356) of bank 16c + b: once its corrected lines since the last pass reach the threshold it takes the stronger
code, which is reported, or if it has it already its channel retires. A new count begins. -/
def execScrubPass (bank : Nat) (s : State) : Host.Outcome State Fault Refusal :=
  let p := s.power
  let n := ((p.corrected.find? (·.1 == bank)).map (·.2)).getD 0
  let s1 : State := { s with power := { p with corrected := p.corrected.filter (·.1 != bank) } }
  if !s.mmu.channels.contains (bank / 16) || n < s.ckpt.eccthr then .next s1
  else if p.strong.contains bank then
    .next (State.retireStep { s1 with power := { s1.power with retireNext := s1.power.retireNext ++ [bank / 16] } })
  else
    .next ({ s1 with power := { s1.power with strong := bank :: p.strong } }.postEvent 6
      (bytesOf 4 (bank / 16) ++ bytesOf 4 (bank % 16) ++ bytesOf 8 0x400000) 0)

/-! Reset domains (R360). -/

/-- Logical cores of a physical die. -/
def State.coresOf (s : State) (die : Nat) : List Nat :=
  (List.range s.enabled.length).filter fun c => s.physCore c / 84 == die

/-- CORE_RESET (R360): the die's workgroups are killed, those too whose threads stand in its landing slots (log 38), and its
cores' own state is as at reset. HTIMER and MATRIX.ICNT are at their cold-reset values again (log 137). -/
def execCoreReset (die : Nat) (s : State) : Host.Outcome State Fault Refusal :=
  if 8 ≤ die || s.power.dieState.getD die 0 != 0 then .next s
  else
    let cs := s.coresOf die
    let hit (g : Wg) : Bool := g.lnum != 0 && g.state == .placed &&
      (cs.contains g.core || (s.wgThreads g.lnum g.idx).any fun t => cs.contains t.loc.core)
    let s1 := (s.wgs.filter hit).foldl (fun s g => s.killAny g.lnum g.idx) s
    .next { s1 with
      cores := s1.cores.map fun p => if cs.contains p.1 then (p.1, { CoreSt.reset with owner := p.2.owner }) else p
      power := { s1.power with dieState := s1.power.dieState.set die 1 } }

/-- CORE_RESET_END (R360): the die's vaults read 0, and it is online again. -/
def execCoreResetEnd (die : Nat) (s : State) : Host.Outcome State Fault Refusal :=
  if s.power.dieState.getD die 0 != 1 then .next s
  else
    let s1 := (s.coresOf die).foldl (fun (s : State) c =>
      let a := vaultBase c
      { s with mem := memClear s.mem a Config.vaultBytes
               poison := s.poison.filter fun l => !(a ≤ l * 64 && l * 64 < a + Config.vaultBytes) }) s
    .next { s1 with power := { s1.power with dieState := s1.power.dieState.set die 0 } }

end Sys2Proof.Machine
end

