-- ==== Sys2Proof/Machine/Manage.lean ====
section
/-! DEFINITION. Management messages and RDMA (R381, R382, R393, R401): QPCFG, QCREATE, QDESTROY, APCFG, EVCFG, JOBCFG, PKGLOST,
DBGRW, FWRECOV, the SPDM requests, RDMA_WRITE, RDMA_READ. -/

namespace Sys2Proof.Machine

/-- An answer on queue pair 1, or data, leaves. -/
def State.say (s : State) (o : Out) : State := { s with cmd := { s.cmd with outbox := s.cmd.outbox ++ [o] } }

/-- A management message: unanswered in recovery (R393) and before the port is up; else its status. -/
def State.manage (s : State) (f : State → Nat × State) : Host.Outcome State Fault Refusal :=
  if !s.answers || s.cmd.recovery then .next s
  else let r := f s; .next (r.2.say (.status r.1))

/-- QPCFG (R381, R382). -/
def execQpcfg (qp ctx : Nat) (rkey : Word) (s : State) : Host.Outcome State Fault Refusal :=
  s.manage fun s =>
    if 64 ≤ qp || 16 ≤ ctx then (1, s)
    else (0, { s with cmd := { s.cmd with qps := { num := qp, ctx := ctx, rkey := rkey } :: s.cmd.qps.filter (·.num != qp) } })

/-- QCREATE (R372, R382): the worker takes the index and the error state as the control block holds them (log 33), or reads it in the
ring's first turn where it cannot be read at once. -/
def execQcreate (ring : Nat) (base : DWord) (ctx : Nat) (priv : Bool) (s : State) : Host.Outcome State Fault Refusal :=
  s.manage fun s =>
    if 256 ≤ ring || 16 ≤ ctx || base.toNat % 64 != 0 || !canonical base || !canonical (base + 1087) then (1, s)
    else if (s.ring? ring).isSome then (2, s)
    else
      let r0 : Ring := { num := ring, base := base, ctx := ctx, priv := priv, rd := 0, err := none, frozen := s.cmd.quiesced
                         outstanding := [], held := none, poll := none, fresh := true }
      let r := match (if s.devWaits ctx true .read base 64 then none else s.devRead ctx true base 64) with
        | some bs => r0.take bs
        | none => r0
      (0, { s with cmd := { s.cmd with rings := s.cmd.rings ++ [r] } })

/-- A ring goes (R382): what its packets began goes on, and completes for no ring. -/
def State.dropRing (s : State) (ring : Nat) : State :=
  let mine (r : Option (Nat × Nat)) : Option (Nat × Nat) := r.filter (·.1 != ring)
  { s with
    launches := s.launches.map fun (l : Launch) => { l with ring := mine l.ring }
    cmds := s.cmds.map fun (c : EngCmd) => { c with ring := mine c.ring }
    ckpt := { s.ckpt with reqs := s.ckpt.reqs.map fun (r : CkptReq) => { r with ring := mine r.ring } }
    thatches := { s.thatches with held := s.thatches.held.map fun (t : Thatch) =>
      { t with loads := t.loads.filter fun l => l.1.1 != ring } }
    cmd := { s.cmd with rings := s.cmd.rings.filter (·.num != ring) } }

/-- QDESTROY (R382): the ring goes, after the packet that its worker holds or polls for, if there is one. -/
def execQdestroy (ring : Nat) (s : State) : Host.Outcome State Fault Refusal :=
  s.manage fun s =>
    if 256 ≤ ring then (1, s)
    else
      match s.ring? ring with
      | none => (2, s)
      | some r =>
        (0, if r.held.isSome || r.poll.isSome then s.modRing ring fun q => { q with closing := true } else s.dropRing ring)

/-- APCFG (R381, R382). -/
def execApcfg (ap qp : Nat) (base : DWord) (rkey : Word) (size : Nat) (s : State) : Host.Outcome State Fault Refusal :=
  s.manage fun s =>
    if 16 ≤ ap || 64 ≤ qp || 2 ^ 42 < size then (1, s)
    else (0, { s with cmd := { s.cmd with
      apertures := { num := ap, qp := qp, base := base, rkey := rkey, size := size } :: s.cmd.apertures.filter (·.num != ap) } })

/-- EVCFG (R379, R382): the ring in an aperture, by DPA, and the device word (log 31). -/
def execEvcfg (base : DWord) (size : Nat) (consumed : DWord) (s : State) : Host.Outcome State Fault Refusal :=
  s.manage fun s =>
    let pow := (List.range 11).any fun i => size == 64 * 2 ^ i
    let w := s.spaceOf consumed.toNat
    if !pow || s.spaceOf base.toNat != .host || !s.apertureOk base.toNat || !s.apertureOk (base.toNat + 63 + 64 * size) || !(w == .hbm || w == .scm) then (1, s)
    else (0, { s with cmd := { s.cmd with eventBase := base, eventSize := size, eventWord := consumed } })

/-- Every other package of the job has a direct link or a first hop (R382). -/
def tableReaches (rank npkg : Nat) (links : List LinkPeer) (hops : List (Option Nat)) : Bool :=
  (List.range npkg).all fun p => p == rank || links.any (· == some p) || (hops.getD p none).isSome

/-- Every field of the peer table is in range (R382): peers within the job, first hops on links 0 to 35. -/
def tableOk (npkg : Nat) (links : List LinkPeer) (hops : List (Option Nat)) : Bool :=
  links.length ≤ 36 && links.all (fun p => p.all (· < npkg)) && hops.all fun h => h.all (· < 36)

/-- JOBCFG (R382). -/
def execJobcfg (rank npkg pctx : Nat) (links : List LinkPeer) (hops : List (Option Nat)) (s : State) :
    Host.Outcome State Fault Refusal :=
  s.manage fun s =>
    if npkg ≤ rank || 16 ≤ pctx || !tableOk npkg links hops || !tableReaches rank npkg links hops then (1, s)
    else if s.launches.any (!·.ended) || (s.ckpt.en && npkg < s.ckpt.gbase + s.ckpt.k + s.ckpt.m) then (2, s)
    else (0, { s with cmd := { s.cmd with
      rank := rank, npkg := npkg, pctx := pctx, links := links, hops := hops, lost := []
      groups := [{ num := 0, ranks := List.range npkg, count := 0 }] } })

/-- PKGLOST (R351, R382): the package is lost, and commands that name it are cancelled; PACKAGE_LOST then carries out what the
survivors agree on. -/
def execPkglost (pkg : Nat) (s : State) : Host.Outcome State Fault Refusal :=
  s.manage fun s =>
    if pkg == s.cmd.rank || s.cmd.npkg ≤ pkg then (1, s)
    else (0, { s with cmd := { s.cmd with lost := if s.cmd.lost.contains pkg then s.cmd.lost else s.cmd.lost ++ [pkg] } }.cancelLost)

/-- DBGRW (R283, R382). -/
def execDbgrw (num : Nat) (value : Word) (write : Bool) (s : State) : Host.Outcome State Fault Refusal :=
  s.manage fun s =>
    if num / 256 != 6 || (sysInfo num).isNone then (1, s)
    else if write then (0, if (snapSource num).isSome then s else s.sysApply 688 num (value.setWidth 64))
    else
      let v := match snapSource num with | some (b, i) => s.snapReg 688 b i | none => s.devReg 688 num
      (0, s.say (.sysreg (v.setWidth 32)))

/-- FWRECOV (R393): in recovery an image the host has written from device address 0 is authenticated, written to slot A, and booted. -/
def execFwrecov (len : Word) (s : State) : Host.Outcome State Fault Refusal :=
  if !s.answers then .next s
  else if !s.cmd.recovery then .next (s.say (.status 2))
  else
    let image := (List.range len.toNat).map fun i => memGet s.mem i
    if imageOk image then .next ({ s with nvm := { s.nvm with slotA := image } }.say (.status 0)).boot else .next (s.say (.status 1))

/-- A SPDM request (R382): request codes 0 to 6 in the order of the table; in recovery only the first two are answered (R393). -/
def State.spdm (s : State) (req : Nat) : Host.Outcome State Fault Refusal :=
  if !s.answers || (s.cmd.recovery && 2 ≤ req) then .next s
  else .next ({ s with free := s.free + 1 }.say (.spdm (Config.spdmResponse req s.free)))

/-- GET_VERSION (R382, log 10). -/
def execGetVersion (_req : List Byte) (s : State) : Host.Outcome State Fault Refusal := s.spdm 0
/-- GET_CAPABILITIES (R382, log 10). -/
def execGetCapabilities (_req : List Byte) (s : State) : Host.Outcome State Fault Refusal := s.spdm 1
/-- NEGOTIATE_ALGORITHMS (R382, log 10). -/
def execNegotiateAlgorithms (_req : List Byte) (s : State) : Host.Outcome State Fault Refusal := s.spdm 2
/-- GET_DIGESTS (R382, log 10). -/
def execGetDigests (_req : List Byte) (s : State) : Host.Outcome State Fault Refusal := s.spdm 3
/-- GET_CERTIFICATE (R382, log 10). -/
def execGetCertificate (_req : List Byte) (s : State) : Host.Outcome State Fault Refusal := s.spdm 4
/-- CHALLENGE (R382, log 10). -/
def execChallenge (_req : List Byte) (s : State) : Host.Outcome State Fault Refusal := s.spdm 5
/-- GET_MEASUREMENTS (R382, log 10). -/
def execGetMeasurements (_req : List Byte) (s : State) : Host.Outcome State Fault Refusal := s.spdm 6

/-- Any other SPDM request is answered with UnsupportedRequest (R382), but for one in recovery (R393). -/
def State.spdmOther (s : State) : State := if !s.answers || s.cmd.recovery then s else s.say .spdmUnsupported

/-! RDMA (R381). -/

/-- The host's access is refused before translation: no such queue pair or another R_Key, a vault window, a yealm range. -/
def State.rdmaRefused (s : State) (qp : Nat) (rkey : Word) (va : DWord) (n : Nat) : Bool :=
  let v := va.toNat
  (match s.cmd.qps.find? (·.num == qp) with | some q => q.rkey != rkey | none => true) ||
  (v < Config.vwinEnd && Config.vwin < v + n) ||
  s.thatches.held.any fun t => v < t.vbase + t.nyealm * t.ysize && t.vbase < v + n

/-- The context of a queue pair. -/
def State.qpCtx (s : State) (qp : Nat) : Nat := ((s.cmd.qps.find? (·.num == qp)).map (·.ctx)).getD 0

/-- RDMA_WRITE (R381, R333): performed whole, or answered with a NAK. In recovery, where no translation is set up, the host writes
its image at device addresses as they are (R393). -/
def execRdmaWrite (qp : Nat) (rkey : Word) (va : DWord) (data : List Byte) (s : State) : Host.Outcome State Fault Refusal :=
  if !s.answers || s.mmu.ilvEdit then .next s
  else if s.cmd.recovery then .next (s.writeHome (cellsAt va.toNat data) false)
  else if s.rdmaRefused qp rkey va data.length then .next (s.say .nak)
  else if s.devWaits (s.qpCtx qp) true .write va data.length then .next s
  else
    match s.devWrite (s.qpCtx qp) true va data with
    | some s1 => .next s1
    | none => .next (s.say .nak)

/-- RDMA_READ (R381, R333). Uncorrectable data is answered with a NAK (log 39). -/
def execRdmaRead (qp : Nat) (rkey : Word) (va : DWord) (len : Nat) (s : State) : Host.Outcome State Fault Refusal :=
  if !s.answers || s.cmd.recovery || s.mmu.ilvEdit then .next s
  else if s.rdmaRefused qp rkey va len then .next (s.say .nak)
  else if s.devWaits (s.qpCtx qp) true .read va len then .next s
  else
    match s.devRead (s.qpCtx qp) true va len with
    | some bs => .next (s.say (.readData bs))
    | none => .next (s.say .nak)

end Sys2Proof.Machine
end

