-- ==== Sys2Proof/Machine/Tag.lean ====
section
/-! DEFINITION. Tag and side-scale instructions (R110). They accept every tag and check none. -/

namespace Sys2Proof.Machine

/-- The 8-bit operand of a tag instruction; bits above it are ignored in a register (R110). -/
def Thread.tagArg (t : Thread) (b : Src) : Byte := (t.srcWord b).setWidth 8

/-- A reserved tag from a register traps with TAG_MISMATCH; from an immediate it does not decode (R110). -/
def Thread.badTagArg (t : Thread) (b : Src) : Bool :=
  match b with
  | .reg _ => tagReserved (t.tagArg b)
  | .imm _ => false

def execTagset (c : Ctl) (x : TagArgs) (s : State) : Host.Outcome State Fault Refusal :=
  .next (s.issueAll c 2 fun t =>
    if t.badTagArg x.b then .error cTagMismatch
    else .ok { regs := wr1 x.d (t.val x.a) (t.tagArg x.b) (if tagIsBfp (t.tagArg x.b) then (t.reg x.a).scale else 0) })

def execTagget (c : Ctl) (x : Un) (s : State) : Host.Outcome State Fault Refusal :=
  .next (s.issueAll c 2 fun t => .ok { regs := wr1 x.d ((t.reg x.a).tag.setWidth 32) tagINT })

def execTagchk (c : Ctl) (x : TagArgs) (s : State) : Host.Outcome State Fault Refusal :=
  .next (s.issueAll c 2 fun t =>
    if t.badTagArg x.b then .error cTagMismatch
    else
      let eq := (t.reg x.a).tag == t.tagArg x.b
      if x.trap && !eq then .error cTagMismatch else .ok { preds := wrp x.d eq })

def execSclget (c : Ctl) (x : Un) (s : State) : Host.Outcome State Fault Refusal :=
  .next (s.issueAll c 2 fun t => .ok { regs := wr1 x.d ((t.reg x.a).scale.setWidth 32) tagINT })

def execSclset (c : Ctl) (x : TagArgs) (s : State) : Host.Outcome State Fault Refusal :=
  .next (s.issueAll c 2 fun t => .ok { regs := wr1 x.d (t.val x.a) (t.reg x.a).tag (t.tagArg x.b) })

end Sys2Proof.Machine
end

