-- ==== Sys2Proof/Machine/Dispatch.lean ====
section
/-! DEFINITION. Dispatch: one arm per constructor of `Instr`, each a direct call of its meaning. -/

namespace Sys2Proof.Machine

/-- The effect of an instruction or event. -/
def exec (i : Instr) (s : State) : Host.Outcome State Fault Refusal :=
  match i with
  | .nop c => Sys2Proof.Machine.execNop c s
  | .bra c off => Sys2Proof.Machine.execBra c off s
  | .brx c a => Sys2Proof.Machine.execBrx c a s
  | .call c d off => Sys2Proof.Machine.execCall c d off s
  | .ret c a => Sys2Proof.Machine.execRet c a s
  | .exit c => Sys2Proof.Machine.execExit c s
  | .yield c => Sys2Proof.Machine.execYield c s
  | .fuse c hold => Sys2Proof.Machine.execFuse c hold s
  | .waitf c mem => Sys2Proof.Machine.execWaitf c mem s
  | .sleep c n => Sys2Proof.Machine.execSleep c n s
  | .trap c code => Sys2Proof.Machine.execTrap c code s
  | .brk c tag => Sys2Proof.Machine.execBrk c tag s
  | .pand c x => Sys2Proof.Machine.execPand c x s
  | .por c x => Sys2Proof.Machine.execPor c x s
  | .pxor c x => Sys2Proof.Machine.execPxor c x s
  | .pnot c d a => Sys2Proof.Machine.execPnot c d a s
  | .pmov c d a na => Sys2Proof.Machine.execPmov c d a na s
  | .fetchw c d p => Sys2Proof.Machine.execFetchw c d p s
  | .emit c a q => Sys2Proof.Machine.execEmit c a q s
  | .gate c g => Sys2Proof.Machine.execGate c g s
  | .release c g => Sys2Proof.Machine.execRelease c g s
  | .migr c a home => Sys2Proof.Machine.execMigr c a home s
  | .iadd c x => Sys2Proof.Machine.execIadd c x s
  | .isub c x => Sys2Proof.Machine.execIsub c x s
  | .imul c x => Sys2Proof.Machine.execImul c x s
  | .imulh c x => Sys2Proof.Machine.execImulh c x s
  | .imad c x => Sys2Proof.Machine.execImad c x s
  | .idiv c x => Sys2Proof.Machine.execIdiv c x s
  | .irem c x => Sys2Proof.Machine.execIrem c x s
  | .imin c x => Sys2Proof.Machine.execImin c x s
  | .imax c x => Sys2Proof.Machine.execImax c x s
  | .iabs c x => Sys2Proof.Machine.execIabs c x s
  | .ineg c x => Sys2Proof.Machine.execIneg c x s
  | .land c x => Sys2Proof.Machine.execLand c x s
  | .lor c x => Sys2Proof.Machine.execLor c x s
  | .lxor c x => Sys2Proof.Machine.execLxor c x s
  | .lnot c x => Sys2Proof.Machine.execLnot c x s
  | .shl c x => Sys2Proof.Machine.execShl c x s
  | .shr c x => Sys2Proof.Machine.execShr c x s
  | .sar c x => Sys2Proof.Machine.execSar c x s
  | .rot c x => Sys2Proof.Machine.execRot c x s
  | .bfe c x => Sys2Proof.Machine.execBfe c x s
  | .bfi c x => Sys2Proof.Machine.execBfi c x s
  | .popc c x => Sys2Proof.Machine.execPopc c x s
  | .clz c x => Sys2Proof.Machine.execClz c x s
  | .brev c x => Sys2Proof.Machine.execBrev c x s
  | .isetp c x => Sys2Proof.Machine.execIsetp c x s
  | .sel c x => Sys2Proof.Machine.execSel c x s
  | .mov c d a w => Sys2Proof.Machine.execMov c d a w s
  | .movi c d m imm => Sys2Proof.Machine.execMovi c d m imm s
  | .lea c x => Sys2Proof.Machine.execLea c x s
  | .hmul c x => Sys2Proof.Machine.execHmul c x s
  | .fadd c x => Sys2Proof.Machine.execFadd c x s
  | .fsub c x => Sys2Proof.Machine.execFsub c x s
  | .fmul c x => Sys2Proof.Machine.execFmul c x s
  | .ffma c x => Sys2Proof.Machine.execFfma c x s
  | .fmin c x => Sys2Proof.Machine.execFmin c x s
  | .fmax c x => Sys2Proof.Machine.execFmax c x s
  | .fabs c x => Sys2Proof.Machine.execFabs c x s
  | .fneg c x => Sys2Proof.Machine.execFneg c x s
  | .fsetp c x => Sys2Proof.Machine.execFsetp c x s
  | .fclass c x => Sys2Proof.Machine.execFclass c x s
  | .frnd c x => Sys2Proof.Machine.execFrnd c x s
  | .fscale c x => Sys2Proof.Machine.execFscale c x s
  | .frcp c x => Sys2Proof.Machine.execFrcp c x s
  | .frsq c x => Sys2Proof.Machine.execFrsq c x s
  | .fsqrt c x => Sys2Proof.Machine.execFsqrt c x s
  | .fexp2 c x => Sys2Proof.Machine.execFexp2 c x s
  | .flog2 c x => Sys2Proof.Machine.execFlog2 c x s
  | .fsin c x => Sys2Proof.Machine.execFsin c x s
  | .fcos c x => Sys2Proof.Machine.execFcos c x s
  | .ftanh c x => Sys2Proof.Machine.execFtanh c x s
  | .fsigm c x => Sys2Proof.Machine.execFsigm c x s
  | .fdot2 c x => Sys2Proof.Machine.execFdot2 c x s
  | .fdot4 c x => Sys2Proof.Machine.execFdot4 c x s
  | .fcvt c x => Sys2Proof.Machine.execFcvt c x s
  | .bfppack c x => Sys2Proof.Machine.execBfppack c x s
  | .bfpunpk c x => Sys2Proof.Machine.execBfpunpk c x s
  | .compress c x => Sys2Proof.Machine.execCompress c x s
  | .expand c x => Sys2Proof.Machine.execExpand c x s
  | .vred c x => Sys2Proof.Machine.execVred c x s
  | .vscan c x => Sys2Proof.Machine.execVscan c x s
  | .vshfl c x => Sys2Proof.Machine.execVshfl c x s
  | .vbcast c x => Sys2Proof.Machine.execVbcast c x s
  | .tagset c x => Sys2Proof.Machine.execTagset c x s
  | .tagget c x => Sys2Proof.Machine.execTagget c x s
  | .tagchk c x => Sys2Proof.Machine.execTagchk c x s
  | .sclget c x => Sys2Proof.Machine.execSclget c x s
  | .sclset c x => Sys2Proof.Machine.execSclset c x s
  | .dnorm c x => Sys2Proof.Machine.execDnorm c x s
  | .dunpk c x => Sys2Proof.Machine.execDunpk c x s
  | .ddot c x => Sys2Proof.Machine.execDdot c x s
  | .ddotr c x => Sys2Proof.Machine.execDdotr c x s
  | .dscl c x => Sys2Proof.Machine.execDscl c x s
  | .dadd c x => Sys2Proof.Machine.execDadd c x s
  | .dsub c x => Sys2Proof.Machine.execDsub c x s
  | .dlerp c x => Sys2Proof.Machine.execDlerp c x s
  | .drej c x => Sys2Proof.Machine.execDrej c x s
  | .dmov c x => Sys2Proof.Machine.execDmov c x s
  | .dzero c d => Sys2Proof.Machine.execDzero c d s
  | .dtest c x => Sys2Proof.Machine.execDtest c x s
  | .nmov c x => Sys2Proof.Machine.execNmov c x s
  | .dld c x => Sys2Proof.Machine.execDld c x s
  | .dst c x => Sys2Proof.Machine.execDst c x s
  | .ksign c k => Sys2Proof.Machine.execKsign c k s
  | .kclr c k => Sys2Proof.Machine.execKclr c k s
  | .mma c x => Sys2Proof.Machine.execMma c x s
  | .mmas c x => Sys2Proof.Machine.execMmas c x s
  | .mzero c m => Sys2Proof.Machine.execMzero c m s
  | .mdrain c x => Sys2Proof.Machine.execMdrain c x s
  | .mchk c p => Sys2Proof.Machine.execMchk c p s
  | .mget c x => Sys2Proof.Machine.execMget c x s
  | .mput c x => Sys2Proof.Machine.execMput c x s
  | .mstat c x => Sys2Proof.Machine.execMstat c x s
  | .errinj c x => Sys2Proof.Machine.execErrinj c x s
  | .ld c x => Sys2Proof.Machine.execLd c x s
  | .st c x => Sys2Proof.Machine.execSt c x s
  | .ldv c x => Sys2Proof.Machine.execLdv c x s
  | .stv c x => Sys2Proof.Machine.execStv c x s
  | .pref c x => Sys2Proof.Machine.execPref c x s
  | .fence c kind scope => Sys2Proof.Machine.execFence c kind scope s
  | .pbar c system => Sys2Proof.Machine.execPbar c system s
  | .pflush c a off => Sys2Proof.Machine.execPflush c a off s
  | .copy c x => Sys2Proof.Machine.execCopy c x s
  | .gather c x => Sys2Proof.Machine.execGather c x s
  | .scatter c x => Sys2Proof.Machine.execScatter c x s
  | .tcopy c x => Sys2Proof.Machine.execTcopy c x s
  | .binit c x => Sys2Proof.Machine.execBinit c x s
  | .bexp c a b => Sys2Proof.Machine.execBexp c a b s
  | .barr c x => Sys2Proof.Machine.execBarr c x s
  | .bwait c x => Sys2Proof.Machine.execBwait c x s
  | .btest c x => Sys2Proof.Machine.execBtest c x s
  | .bdrop c a => Sys2Proof.Machine.execBdrop c a s
  | .ringnext c x => Sys2Proof.Machine.execRingnext c x s
  | .yacq c a b => Sys2Proof.Machine.execYacq c a b s
  | .yrel c a b => Sys2Proof.Machine.execYrel c a b s
  | .yhint c a b => Sys2Proof.Machine.execYhint c a b s
  | .lnkhint c a => Sys2Proof.Machine.execLnkhint c a s
  | .rget c x => Sys2Proof.Machine.execRget c x s
  | .rput c x => Sys2Proof.Machine.execRput c x s
  | .cred c x => Sys2Proof.Machine.execCred c x s
  | .cgath c x => Sys2Proof.Machine.execCgath c x s
  | .cbcst c x => Sys2Proof.Machine.execCbcst c x s
  | .atom c x => Sys2Proof.Machine.execAtom c x s
  | .atomc c x => Sys2Proof.Machine.execAtomc c x s
  | .red c x => Sys2Proof.Machine.execRed c x s
  | .qlock c x => Sys2Proof.Machine.execQlock c x s
  | .qtry c x => Sys2Proof.Machine.execQtry c x s
  | .qunlk c x => Sys2Proof.Machine.execQunlk c x s
  | .tkget c d seq => Sys2Proof.Machine.execTkget c d seq s
  | .tkwait c seq => Sys2Proof.Machine.execTkwait c seq s
  | .tkadv c seq => Sys2Proof.Machine.execTkadv c seq s
  | .own c a n => Sys2Proof.Machine.execOwn c a n s
  | .sstep c => Sys2Proof.Machine.execSstep c s
  | .cbar c id => Sys2Proof.Machine.execCbar c id s
  | .sysrd c x => Sys2Proof.Machine.execSysrd c x s
  | .syswr c x => Sys2Proof.Machine.execSyswr c x s
  | .tret c x => Sys2Proof.Machine.execTret c x s
  | .idrd c d sel => Sys2Proof.Machine.execIdrd c d sel s
  | .clkrd c d sel => Sys2Proof.Machine.execClkrd c d sel s
  | .heapset c x => Sys2Proof.Machine.execHeapset c x s
  | .tlbinv c x => Sys2Proof.Machine.execTlbinv c x s
  | .l1inv c mode => Sys2Proof.Machine.execL1inv c mode s
  | .stepadv c d => Sys2Proof.Machine.execStepadv c d s
  | .ckpt c bar a mode => Sys2Proof.Machine.execCkpt c bar a mode s
  | .strig c d => Sys2Proof.Machine.execStrig c d s
  | .dbghalt c => Sys2Proof.Machine.execDbghalt c s
  | .halt c mode => Sys2Proof.Machine.execHalt c mode s
  | .wear c d sel => Sys2Proof.Machine.execWear c d sel s
  | .pwrreq c d a restore => Sys2Proof.Machine.execPwrreq c d a restore s
  | .resultWriteback uid => Sys2Proof.Machine.execResultWriteback uid s
  | .directionalWrite wid => Sys2Proof.Machine.execDirectionalWrite wid s
  | .loadReturn id => Sys2Proof.Machine.execLoadReturn id s
  | .storeComplete id => Sys2Proof.Machine.execStoreComplete id s
  | .atomicApply id => Sys2Proof.Machine.execAtomicApply id s
  | .wcLineFlush core line => Sys2Proof.Machine.execWcLineFlush core line s
  | .waveCollectiveIssue wid => Sys2Proof.Machine.execWaveCollectiveIssue wid s
  | .convergenceComplete core k => Sys2Proof.Machine.execConvergenceComplete core k s
  | .matrixCommandStart core => Sys2Proof.Machine.execMatrixCommandStart core s
  | .matrixRecompute core => Sys2Proof.Machine.execMatrixRecompute core s
  | .matrixAccumulate core => Sys2Proof.Machine.execMatrixAccumulate core s
  | .engineChunkWrite id chunk remote => Sys2Proof.Machine.execEngineChunkWrite id chunk remote s
  | .barrierPortOperation id => Sys2Proof.Machine.execBarrierPortOperation id s
  | .collectiveJoin group peers => Sys2Proof.Machine.execCollectiveJoin group peers s
  | .heldThreadWake uid => Sys2Proof.Machine.execHeldThreadWake uid s
  | .sleepExpire uid => Sys2Proof.Machine.execSleepExpire uid s
  | .fuseHoldExpire uid => Sys2Proof.Machine.execFuseHoldExpire uid s
  | .workIdDispense lnum => Sys2Proof.Machine.execWorkIdDispense lnum s
  | .producerEnd lnum => Sys2Proof.Machine.execProducerEnd lnum s
  | .stepAdvance lnum => Sys2Proof.Machine.execStepAdvance lnum s
  | .ckptSelfAdvance => Sys2Proof.Machine.execCkptSelfAdvance s
  | .ckptTimerExpire => Sys2Proof.Machine.execCkptTimerExpire s
  | .superstepCommit lnum => Sys2Proof.Machine.execSuperstepCommit lnum s
  | .clusterBarrierComplete lnum cluster id => Sys2Proof.Machine.execClusterBarrierComplete lnum cluster id s
  | .migrationLand uid => Sys2Proof.Machine.execMigrationLand uid s
  | .workgroupPlace lnum wg => Sys2Proof.Machine.execWorkgroupPlace lnum wg s
  | .workgroupEnd lnum wg => Sys2Proof.Machine.execWorkgroupEnd lnum wg s
  | .workgroupKill lnum wg => Sys2Proof.Machine.execWorkgroupKill lnum wg s
  | .preempt lnum wg bound area => Sys2Proof.Machine.execPreempt lnum wg bound area s
  | .workgroupRestore lnum wg => Sys2Proof.Machine.execWorkgroupRestore lnum wg s
  | .trapRecordPost uid => Sys2Proof.Machine.execTrapRecordPost uid s
  | .trapDispose => Sys2Proof.Machine.execTrapDispose s
  | .eventPost => Sys2Proof.Machine.execEventPost s
  | .faultRecordPost => Sys2Proof.Machine.execFaultRecordPost s
  | .yealmStreamStart => Sys2Proof.Machine.execYealmStreamStart s
  | .yealmArrive failedShard => Sys2Proof.Machine.execYealmArrive failedShard s
  | .shardRebuild unrecoverable => Sys2Proof.Machine.execShardRebuild unrecoverable s
  | .sweepLine => Sys2Proof.Machine.execSweepLine s
  | .forcedSave id => Sys2Proof.Machine.execForcedSave id s
  | .snapshotComplete peers => Sys2Proof.Machine.execSnapshotComplete peers s
  | .ckptComplete failed => Sys2Proof.Machine.execCkptComplete failed s
  | .persistDrain => Sys2Proof.Machine.execPersistDrain s
  | .powerFail => Sys2Proof.Machine.execPowerFail s
  | .coldReset imageA imageB => Sys2Proof.Machine.execColdReset imageA imageB s
  | .trainingRetrain unit => Sys2Proof.Machine.execTrainingRetrain unit s
  | .overtempCutoff => Sys2Proof.Machine.execOvertempCutoff s
  | .packageLost ranks agreedStep peers => Sys2Proof.Machine.execPackageLost ranks agreedStep peers s
  | .ridgeMismatch => Sys2Proof.Machine.execRidgeMismatch s
  | .scrubPass bank => Sys2Proof.Machine.execScrubPass bank s
  | .channelRetire channels => Sys2Proof.Machine.execChannelRetire channels s
  | .coreReset die => Sys2Proof.Machine.execCoreReset die s
  | .arbitrationInterval => Sys2Proof.Machine.execArbitrationInterval s
  | .wearSave => Sys2Proof.Machine.execWearSave s
  | .ilvEdit on => Sys2Proof.Machine.execIlvEdit on s
  | .ilvCommit => Sys2Proof.Machine.execIlvCommit s
  | .coreCgo => Sys2Proof.Machine.execCoreCgo s
  | .htimerWrite core period => Sys2Proof.Machine.execHtimerWrite core period s
  | .htimerEvent core => Sys2Proof.Machine.execHtimerEvent core s
  | .haltreq => Sys2Proof.Machine.execHaltreq s
  | .resume => Sys2Proof.Machine.execResume s
  | .rsizeWrite n v => Sys2Proof.Machine.execRsizeWrite n v s
  | .lnkctlReq link req => Sys2Proof.Machine.execLnkctlReq link req s
  | .launch ring => Sys2Proof.Machine.execLaunch ring s
  | .copyPacket ring => Sys2Proof.Machine.execCopyPacket ring s
  | .fencePacket ring => Sys2Proof.Machine.execFencePacket ring s
  | .signal ring => Sys2Proof.Machine.execSignal ring s
  | .waitval ring => Sys2Proof.Machine.execWaitval ring s
  | .waitvalPoll ring => Sys2Proof.Machine.execWaitvalPoll ring s
  | .snapcfg ring => Sys2Proof.Machine.execSnapcfg ring s
  | .ckptPacket ring => Sys2Proof.Machine.execCkptPacket ring s
  | .thatchCreate ring => Sys2Proof.Machine.execThatchCreate ring s
  | .thatchLoad ring => Sys2Proof.Machine.execThatchLoad ring s
  | .thatchEvict ring => Sys2Proof.Machine.execThatchEvict ring s
  | .faultreplay ring => Sys2Proof.Machine.execFaultreplay ring s
  | .errqueryEvents ring => Sys2Proof.Machine.execErrqueryEvents ring s
  | .errqueryTret ring => Sys2Proof.Machine.execErrqueryTret ring s
  | .queueRestart ring => Sys2Proof.Machine.execQueueRestart ring s
  | .qpcfg qp ctx rkey => Sys2Proof.Machine.execQpcfg qp ctx rkey s
  | .qcreate ring base ctx priv => Sys2Proof.Machine.execQcreate ring base ctx priv s
  | .qdestroy ring => Sys2Proof.Machine.execQdestroy ring s
  | .apcfg ap qp base rkey size => Sys2Proof.Machine.execApcfg ap qp base rkey size s
  | .evcfg base size consumed => Sys2Proof.Machine.execEvcfg base size consumed s
  | .jobcfg rank npkg pctx links hops => Sys2Proof.Machine.execJobcfg rank npkg pctx links hops s
  | .pkglost pkg => Sys2Proof.Machine.execPkglost pkg s
  | .dbgrw num value write => Sys2Proof.Machine.execDbgrw num value write s
  | .fwrecov len => Sys2Proof.Machine.execFwrecov len s
  | .getVersion req => Sys2Proof.Machine.execGetVersion req s
  | .getCapabilities req => Sys2Proof.Machine.execGetCapabilities req s
  | .negotiateAlgorithms req => Sys2Proof.Machine.execNegotiateAlgorithms req s
  | .getDigests req => Sys2Proof.Machine.execGetDigests req s
  | .getCertificate req => Sys2Proof.Machine.execGetCertificate req s
  | .challenge req => Sys2Proof.Machine.execChallenge req s
  | .getMeasurements req => Sys2Proof.Machine.execGetMeasurements req s
  | .rdmaWrite qp rkey va data => Sys2Proof.Machine.execRdmaWrite qp rkey va data s
  | .rdmaRead qp rkey va len => Sys2Proof.Machine.execRdmaRead qp rkey va len s
  | .flitReceive link flit req => Sys2Proof.Machine.execFlitReceive link flit req s
  | .flitForward link => Sys2Proof.Machine.execFlitForward link s
  | .pause link vl => Sys2Proof.Machine.execPause link vl s
  | .resumeFlit link vl => Sys2Proof.Machine.execResumeFlit link vl s
  | .widthFlit link => Sys2Proof.Machine.execWidthFlit link s
  | .replayFlit link seq => Sys2Proof.Machine.execReplayFlit link seq s
  | .wavelengthWakeDone link w => Sys2Proof.Machine.execWavelengthWakeDone link w s
  | .berCheck link w rateExp => Sys2Proof.Machine.execBerCheck link w rateExp s
  | .wavelengthRetrainDone link w => Sys2Proof.Machine.execWavelengthRetrainDone link w s
  | .ridgePairRestart => Sys2Proof.Machine.execRidgePairRestart s
  | .coreResetEnd die => Sys2Proof.Machine.execCoreResetEnd die s
  | .temperatureThreshold unit tenths => Sys2Proof.Machine.execTemperatureThreshold unit tenths s
  | .l1LineReplacement core line => Sys2Proof.Machine.execL1LineReplacement core line s
  | .ridgeCacheEviction line => Sys2Proof.Machine.execRidgeCacheEviction line s
  | .qfrz on => Sys2Proof.Machine.execQfrz on s
  | .ckptEnWrite => Sys2Proof.Machine.execCkptEnWrite s

end Sys2Proof.Machine
end

