-- ==== Sys2Proof/Machine/Sched.lean ====
section
/-! DEFINITION. The order of the machine's actions: a quadrant's pick of an issue group (R253, R254, R267, R268, R270), time
(R6), the acts of the agenda, and the order that holds when the agenda is empty (log 1). -/

namespace Sys2Proof.Machine

/-! The candidate groups of a quadrant (R253). -/

/-- Placement order of a thread's wave (R249). -/
def State.orderOf (s : State) (t : Thread) : Nat := ((s.waveOf t).map (·.order)).getD 0

/-- The class of a thread (R253): launch, workgroup, home or landing, and the role (log 21). -/
def State.classOf (s : State) (t : Thread) : Nat × Nat × Bool × Nat :=
  match s.waveOf t with
  | some w => (w.lnum, w.wg, t.home.isSome, w.role)
  | none => (0, 0, t.home.isSome, 0)

/-- A thread whose workgroup is placed stands in a slot; those of a waiting or saved one do not. -/
def State.resident (s : State) (t : Thread) : Bool := ((s.wgOf t).map (·.state)) == some .placed

/-- The threads in a quadrant's table (R252): every resident thread, one stopped by a trap among them (R273). A thread in transit stays
in the table that it left until it lands (log 143). -/
def State.quadThreads (s : State) (core quad : Nat) : List Thread :=
  s.threads.filter fun t => t.loc.core == core && t.loc.quad == quad && t.status != .exited && s.resident t

/-- How many threads of a thread's class, lane and program counter were placed before it: which group of the class it is in. -/
def State.groupNo (s : State) (ts : List Thread) (t : Thread) : Nat :=
  (ts.filter fun u => u.loc.lane == t.loc.lane && u.pc == t.pc && s.classOf u == s.classOf t && s.orderOf u < s.orderOf t).length

/-- An issue subset (R267): the eligible members of a candidate group, in lane order, with what R268 compares. -/
structure Subset where
  key : DWord × (Nat × Nat × Bool × Nat) × Nat
  members : List Thread
  deriving DecidableEq, Repr

/-- Adds a thread to the subsets. -/
def addMember (key : DWord × (Nat × Nat × Bool × Nat) × Nat) (t : Thread) : List Subset → List Subset
  | [] => [{ key := key, members := [t] }]
  | x :: xs => if x.key == key then { x with members := x.members ++ [t] } :: xs else x :: addMember key t xs

/-- The eligible subsets of a quadrant, but for deterministic waves (R253, R267). -/
def State.subsets (s : State) (core quad : Nat) : List Subset :=
  let ts := (s.quadThreads core quad).filter fun t => !s.isDet t
  (ts.filter s.eligible).foldl (fun xs t => addMember (t.pc, s.classOf t, s.groupNo ts t) t xs) []

/-- The least of some naturals. -/
def leastOf (d : Nat) (xs : List Nat) : Nat := xs.foldl min (xs.headD d)

/-- Placement order of a workgroup: that of its first wave. -/
def State.wgOrder (s : State) (lnum wg : Nat) : Nat :=
  leastOf 0 ((s.waves.filter fun w => w.lnum == lnum && w.wg == wg).map (·.order))

/-- What R268 compares, in order: age, YIELD, round-robin position, placement, lane. -/
def State.rank268 (s : State) (ptr : Nat) (x : Subset) : List Nat :=
  let o := s.wgOrder x.key.2.1.1 x.key.2.1.2.1
  [leastOf 0 (x.members.map fun t => t.ready.getD s.clock), (if x.members.any (·.yielded) then 1 else 0),
   (if o < ptr then 1 else 0), o, leastOf 0 (x.members.map s.orderOf), leastOf 0 (x.members.map (·.loc.lane))]

/-- Lexicographic order. -/
def lexLt : List Nat → List Nat → Bool
  | x :: xs, y :: ys => x < y || (x == y && lexLt xs ys)
  | _, _ => false

/-- The first subset in the order of R268. -/
def State.firstSubset (s : State) (ptr : Nat) : List Subset → Option Subset
  | [] => none
  | x :: xs =>
    match s.firstSubset ptr xs with
    | none => some x
    | some y => if lexLt (s.rank268 ptr y) (s.rank268 ptr x) then some y else some x

/-- The next instruction of a subset takes the special-function unit (R79). -/
def State.subsetSfu (s : State) (ts : List Thread) : Bool :=
  match ts.head?.bind s.peek with
  | some i => usesSfu i
  | none => false

/-- The group of a deterministic running wave that may issue (R270): the candidate that holds the lowest lane among the wave's
threads that are not held, once all of these members are eligible. -/
def State.detGroup (s : State) (core quad : Nat) : Option (List Thread) :=
  match (s.core core).running with
  | none => none
  | some w =>
    let held (t : Thread) : Bool := t.hold != .free || (match s.peek t with | some i => s.logHeld t i | none => false)
    let ts := sortBy (·.loc.lane) ((s.quadThreads core quad).filter fun t => t.wid == w && s.isDet t && s.runs t && !held t)
    match ts.head? with
    | none => none
    | some h =>
      let g := ts.filter fun t => t.pc == h.pc && t.home.isSome == h.home.isSome
      -- one group of the running wave issues per ac
      if s.threads.any (fun t => t.wid == w && t.lastIssue == some s.clock) || !g.all s.eligible then none else some g

/-- A quadrant picks its next issue group (R268, R270): at most two in an ac, of disjoint lanes (R254), at most one of them of
the special-function unit. -/
def State.pick (s : State) (core quad : Nat) : State :=
  let s := (s.detSwitch core).stamp
  let k := s.core core
  let now := (k.picks.find? fun p => p.quad == quad && p.time == s.clock).getD
    { quad := quad, time := s.clock, lanes := [], count := 0, sfu := false }
  let free (ts : List Thread) : Bool :=
    ts.all (fun t => !now.lanes.contains t.loc.lane) && !(s.subsetSfu ts && (now.sfu || s.clock < k.sfuBusy.getD quad 0))
  let ptr := k.rr.getD quad 0
  let chosen : Option (List Thread × Nat) :=
    match (s.detGroup core quad).filter free with
    | some g => some (g, ptr)
    | none =>
      (s.firstSubset ptr ((s.subsets core quad).filter fun x => free x.members)).map fun x =>
        (sortBy (·.loc.lane) x.members, s.wgOrder x.key.2.1.1 x.key.2.1.2.1 + 1)
  match chosen with
  | none => s
  | some (ts, next) =>
    if 2 ≤ now.count || s.issue.isSome then s
    else
      let pc := (ts.head?.map (·.pc)).getD 0
      let p := { now with lanes := now.lanes ++ ts.map (·.loc.lane), count := now.count + 1, sfu := now.sfu || s.subsetSfu ts }
      let s1 := s.modCore core fun k =>
        { k with rr := k.rr.set quad next, picks := p :: k.picks.filter fun q => q.quad != quad && q.time == s.clock }
      { s1 with issue := some { core := core, quad := quad, pc := pc, uids := ts.map (·.uid), kind := .group } }

/-! Time. -/

/-- How long after its first store a line leaves the write-combining buffer at the latest: 4,096 ac (R162). -/
def wcTime : Nat := 4096 * Config.ac

/-- Times at which a result lands or a count of time ends. -/
def State.dues (s : State) : List Nat :=
  s.threads.flatMap (fun t => t.pend.map (·.due) ++
    match t.hold with
    | .asleep til => [til]
    | .fuse til => [til]
    | .migrating _ due => [due]
    | _ => []) ++
  s.waves.flatMap (fun w => w.dpend.map (·.due)) ++
  s.cores.flatMap (fun p => p.2.executing.map (·.due) ++ p.2.mexec.toList.map (·.ends) ++ p.2.executing.map (·.ends + 4 * Config.ac) ++
    (p.2.k.filter (·.complete)).map (·.since + 20 * Config.ac) ++
    (p.2.mqueue.take 1).map (·.issued + 4 * Config.ac)) ++
  (s.cores.flatMap fun p => p.2.mgets.map (·.due) ++ p.2.wcb.map (fun l => l.since + wcTime) ++
    (if p.2.htimer == 0 then [] else [p.2.htimerSince + p.2.htimer * Config.us])) ++
  (s.links.filterMap fun l => l.downSince.map (· + 20 * Config.us)) ++
  (if s.power.vmain then [(s.clock / Config.us + 1) * Config.us, s.power.saveDue] else [])

/-- Seconds powered up to a time (R398, R399). -/
def Power.seconds (p : Power) (clock : Nat) : Nat := (p.held + clock) / (1000000 * Config.us)

/-- n ac pass (R6): the clock, the seconds powered of every unit (R398). -/
def State.pass (s : State) (n : Nat) : State :=
  let clock := s.clock + n * Config.ac
  let d := s.power.seconds clock - s.power.seconds s.clock
  let units := (List.range 32).filter fun u => wearKept u 1
  { s with clock := clock, power := if s.power.vmain then units.foldl (fun p u => p.bump u 1 d) s.power else s.power }

/-- Some thread's stall may still run (R26), so that its ready stamp may be that of the next ac (R268). -/
def State.stalling (s : State) : Bool :=
  s.threads.any fun t => match t.lastIssue with | some l => s.clock < l + 15 * Config.ac | none => false

/-- Time passes up to n ac, but not past the next due moment, and ac by ac while a stall may run; the rest stays on the agenda. -/
def State.tick (s : State) (n : Nat) : State :=
  let ahead := (s.dues.filter (s.clock < ·)).map fun d => (d - s.clock + Config.ac - 1) / Config.ac
  let m := ahead.foldl min (if s.stalling then min 1 n else n)
  let s1 := s.pass m
  if m < n then { s1 with agenda := .tick (n - m) :: s1.agenda } else s1

/-! What is due now. -/

/-- A result of a thread, or of an MGET, lands now (R27, R152). -/
def State.landsNow (s : State) (t : Thread) : Bool :=
  t.pend.any (·.due ≤ s.clock) || !(s.mgetsDue t.homeCore t.uid).isEmpty

/-- One after another; a stop ends the chain. -/
def chain (f : Nat → State → Host.Outcome State Fault Refusal) : List Nat → State → Host.Outcome State Fault Refusal
  | [], s => .next s
  | x :: xs, s =>
    match f x s with
    | .next s1 => chain f xs s1
    | o => o

/-- A step of a matrix engine that is due (R148, R150, R151, R153): a command completes, a pass is computed again, the next command
starts; a drain copy whose walk waited for an edit is stored. -/
def State.matrixDue (s : State) : Option (Host.Outcome State Fault Refusal) :=
  s.cores.findSome? fun p =>
    if p.2.accDue s.clock then some (execMatrixAccumulate p.1 s)
    else if p.2.redoDue s.clock then some (execMatrixRecompute p.1 s)
    else if let some d := p.2.drain.filter fun d => d.fault.isNone && d.acc.isNone && !s.mmu.ilvEdit then
      some (outcomeOf (s.drainStore p.1 d))
    else
      match p.2.mqueue with
      | [] => none
      | c :: _ => if s.matStarts p.1 c then some (execMatrixCommandStart p.1 s) else none

/-- What has waited for its home alone, and need not wait any more (R296, R342, R347, R360): a worker's store, a peer's access, a cancelled
command's credit, a record's JOINED; and a ring that QDESTROY has named goes when its packet is done (R382). -/
def State.homeDue (s : State) : Option (Host.Outcome State Fault Refusal) :=
  ((s.cmd.rings.find? fun r => (r.held.map fun h => h.frec == homeWait && (h.writes.head?.map (s.storeReady r)).getD true).getD false).map
    fun r => outcomeOf (ringsFree [homeWait] [r] s)) <|>
  ((s.cmd.rings.find? fun r => r.closing && r.held.isNone && r.poll.isNone).map fun r => .next (s.dropRing r.num)) <|>
  ((s.cmd.remote.find? s.remoteReady).map fun w => outcomeOf (serveAgain [w] s)) <|>
  ((s.cmds.find? fun c => c.dying && s.barOpen c).map fun c => .next (s.cancelCmd c false)) <|>
  (if !s.mmu.ilvEdit && s.mmu.recs.any (·.late) then some (.next s.joinedWrite) else none)

/-- What the module and the arbiter do by themselves: the cutoff above 70.0 degrees (R399), the grants of a new interval (R397), the save
of the counters every 600 s (R398). -/
def State.powerDue (s : State) : Option (Host.Outcome State Fault Refusal) :=
  let p := s.power
  if p.vmain && 700 < p.outlet then some (execOvertempCutoff s)
  else if s.arbDue then some (execArbitrationInterval s)
  else if p.vmain && p.saveDue ≤ s.clock then some (execWearSave s)
  else none

/-- What is due happens (R27, R79, R83, R85, R116, R148, R221, R397 to R399), if anything is. -/
def State.dueAct (s : State) : Option (Host.Outcome State Fault Refusal) :=
  let lands := (s.threads.filter s.landsNow).map (·.uid)
  let writes := (s.waves.filter fun w => w.dpend.any (·.due ≤ s.clock)).map (·.wid)
  s.powerDue <|>
  (if lands.isEmpty then none else some (chain execResultWriteback lands s)) <|>
  (if writes.isEmpty then none else some (chain execDirectionalWrite writes s)) <|>
  s.matrixDue <|>
  s.homeDue <|>
  (s.newlyLost.map fun p => .next (s.noteLost p)) <|>
  (if s.mmu.ilvEdit || !s.jobQuiet then none else s.rolling.map fun r => .next (s.rollOn r)) <|>
  s.cores.findSome? (fun p => (p.2.wcb.find? fun l => l.since + wcTime ≤ s.clock).map fun l => execWcLineFlush p.1 l.line s) <|>
  s.threads.findSome? (fun t => match t.hold with
    | .asleep til => if til ≤ s.clock && s.runs t then some (execSleepExpire t.uid s) else none
    | .fuse til => if til ≤ s.clock && s.runs t then some (execFuseHoldExpire t.uid s) else none
    | _ => none) <|>
  (s.cores.find? fun p => p.2.htimer != 0 && p.2.htimerSince + p.2.htimer * Config.us ≤ s.clock).map fun p => execHtimerEvent p.1 s

/-! The acts of the agenda. -/

/-- A correctable error is corrected (R237, R356, R357): in an HBM bank, the SCM, an accumulator or a vault. -/
def State.correctable (s : State) (kind bank : Nat) : State :=
  let up (n : Nat) : Nat := min 0xFFFF (n + 1)
  match kind with
  | 0 =>
    let n := ((s.power.corrected.find? (·.1 == bank)).map (·.2)).getD 0
    { s with ckpt := { s.ckpt with cecHbm := up s.ckpt.cecHbm }
             power := { s.power with corrected := (bank, n + 1) :: s.power.corrected.filter (·.1 != bank) } }
  | 1 => { s with ckpt := { s.ckpt with cecScm := up s.ckpt.cecScm } }
  | 2 => { s with ckpt := { s.ckpt with cecAcc := up s.ckpt.cecAcc } }
  | 3 => { s with ckpt := { s.ckpt with cecVault := up s.ckpt.cecVault } }
  | _ => s

/-- An act that is data only: a loss of a cached copy, an error, an act of an outside agent. -/
def State.dataAct (s : State) : Act → State
  | .tick n => s.tick n
  | .dropBlock core block => s.modCore core fun k => { k with l1i := k.l1i.filter (·.1 != block) }
  | .dropTlb core ctx va =>
    let keep (e : TlbEntry) : Bool := !(e.ctx == ctx && e.va ≤ va && va < e.va + e.size)
    match core with
    | some c => s.modCore c fun k => { k with tlb := k.tlb.filter keep }
    | none => { s with mmu := { s.mmu with tlb2 := s.mmu.tlb2.filter keep } }
  | .hostMem dpa b => if s.spaceOf dpa == .host then { s with mem := memSet s.mem (s.hostKey dpa) b } else s
  | .uncorrectable line => if s.poison.contains line then s else { s with poison := s.poison ++ [line] }
  | .accError core acc elem => s.modCore core fun k =>
      { k with accBad := if k.accBad.contains (acc, elem) then k.accBad else k.accBad ++ [(acc, elem)] }
  | .correctable kind bank => s.correctable kind bank
  | .doorbell core => s.wakeHalt0 core
  | .temps inlet outlet => { s with power := s.power.plate inlet outlet }
  | .flitQueue link dst vl payload => s.flitQueue link dst vl payload
  | .flitSend link vl => s.flitSend link vl
  | .flip core row col bit => s.modCore core fun k => { k with flips := k.flips ++ [(row, col, bit)] }
  | .issue core quad => s.pick core quad
  | .event _ => s
  -- a host atomic request is answered with a NAK (R381)
  | .spdmOther _ => s.spdmOther
  | .hostAtomic .. => { s with cmd := { s.cmd with outbox := s.cmd.outbox ++ [.nak] } }

/-! The order when the agenda is empty (log 1). -/

/-- Something that a part of the device may do. -/
abbrev Action := State → Host.Outcome State Fault Refusal

/-- The event that performs an access. -/
def accessAction (a : Access) : Action :=
  match a.op with
  | .load .. => execLoadReturn a.id
  | .ldv .. => execLoadReturn a.id
  | .dld .. => execLoadReturn a.id
  | .atomic .. => execAtomicApply a.id
  | .qtry .. => execAtomicApply a.id
  | .barrier .. => execBarrierPortOperation a.id
  | _ => execStoreComplete a.id

/-- The events that the parts of the device may have ready, before a quadrant issues. -/
def State.early (s : State) : List Action :=
  s.threads.flatMap (fun t => match t.hold with
    | .free => []
    | .collective => [execWaveCollectiveIssue t.wid]
    | .converge k => [execConvergenceComplete t.homeCore k]
    | .migrating .. => [execMigrationLand t.uid]
    | .stepadv _ => [execStepAdvance (s.lnumOf t)]
    | .sstep => [execSuperstepCommit (s.lnumOf t)]
    | .cbar id => [execClusterBarrierComplete (s.lnumOf t) (s.clusterOf t.loc.core) id]
    | _ => [execHeldThreadWake t.uid]) ++
  (s.inflight.filter s.mayPerform).map accessAction ++
  (s.launches.filter fun l => !l.deferred.isEmpty).map (fun l => execSuperstepCommit l.lnum) ++
  s.cmds.flatMap (fun c => match c.op, c.data with
    | .coll _ _ _ g _ _ _, none => [execCollectiveJoin g []]
    | _, _ => [execEngineChunkWrite c.id ((List.range (c.written.length + 1)).find? (fun i => !c.written.contains i) |>.getD 0) []]) ++
  s.waves.filterMap (fun w => if w.fetches.isEmpty then none else some (execWorkIdDispense w.lnum)) ++
  s.threads.filterMap (fun t => match t.status with | .stopped _ false => some (execTrapRecordPost t.uid) | _ => none) ++
  (if s.cmd.workerTraps.isEmpty && s.cmd.trapWait.isEmpty then [] else [execTrapRecordPost s.nextId]) ++
  [execTrapDispose, execFaultRecordPost] ++
  (if s.ckpt.reqs.any (·.mode) then [execCkptComplete false] else []) ++
  ((s.launches.map (·.lnum) ++ s.wgs.map (·.lnum)).eraseDups.map execProducerEnd) ++
  s.wgs.flatMap (fun g => match g.state with
    | .waiting => [execWorkgroupPlace g.lnum g.idx]
    | .placed => execWorkgroupEnd g.lnum g.idx ::
        (match g.stopping with | some (_, area) => [execPreempt g.lnum g.idx 0 (area.getD 0)] | none => [])
    | .saved => if s.ckpt.reqs.any (·.mode) then [] else [execWorkgroupRestore g.lnum g.idx]
    | .ended => []) ++
  (s.wgs.filter (·.haltRec.isSome)).flatMap (fun g => (s.wgThreads g.lnum g.idx).map fun t => execTrapRecordPost t.uid) ++
  [execYealmStreamStart, execYealmArrive none, execShardRebuild false, execEventPost] ++
  (if s.power.retiring.isEmpty && s.power.retireNext.isEmpty then [] else [execChannelRetire []]) ++
  (if s.cmd.ridge == .restarting then [execRidgePairRestart] else [])

/-- The rings' packets and the device's own later work, when no quadrant issues; out of reset, the boot (R391, log 158). -/
def State.late (s : State) : List Action :=
  s.cmd.rings.flatMap (fun r =>
    [execLaunch r.num, execCopyPacket r.num, execFencePacket r.num, execSignal r.num, execWaitval r.num, execWaitvalPoll r.num, execSnapcfg r.num,
     execCkptPacket r.num, execThatchCreate r.num, execThatchLoad r.num, execThatchEvict r.num, execFaultreplay r.num, execErrqueryEvents r.num,
     execErrqueryTret r.num, execQueueRestart r.num]) ++
  s.cores.flatMap (fun p => p.2.wcb.map fun l => execWcLineFlush p.1 l.line) ++
  [execCkptTimerExpire, execCkptSelfAdvance] ++
  (if s.ckpt.sweep.isSome then s.inflight.map (fun a => execForcedSave a.id) ++ [execSweepLine] else []) ++
  (if s.ckpt.image.isSome && s.cmd.npkg == 1 then [execSnapshotComplete []] else []) ++
  [execPersistDrain] ++
  (if s.power.recsDue.isEmpty then [] else [fun s => .next s.writeRecords]) ++
  s.links.filterMap (fun l => if l.inbuf.isEmpty then none else some (execFlitForward l.num)) ++
  (if s.power.vmain && !s.cmd.booted then [execColdReset [] []] else [])

/-- A quadrant that can issue does: the first core and quadrant with an eligible group. -/
def State.anyPick (s : State) : Option State :=
  ((s.threads.filter fun t => t.status == .live && t.hold == .free).map fun t => (t.loc.core, t.loc.quad)).eraseDups.findSome?
    fun p => let s1 := s.pick p.1 p.2; if s1.issue.isSome then some s1 else none

/-- The first of these that changes the state. -/
def State.firstChange (s : State) : List Action → Option (Host.Outcome State Fault Refusal)
  | [] => none
  | f :: fs =>
    match f s with
    | .next s1 => if s1 = s then s.firstChange fs else some (.next s1)
    | .fault e => some (.fault e)
    | .refused r => some (.refused r)

/-- With an empty agenda: a part that is ready acts, a quadrant picks, a part of the second rank acts, or one ac passes. -/
def State.idle (s : State) : Host.Outcome State Fault Refusal :=
  match s.firstChange s.early with
  | some o => o
  | none =>
    match s.anyPick with
    | some s1 => .next s1
    | none => (s.firstChange s.late).getD (.next (s.tick 1))

/-! What a step does when no issue is open. -/

/-- An event of the agenda, or what has happened already. -/
inductive Plan where
  | run (i : Instr) (s : State)
  | did (o : Host.Outcome State Fault Refusal)

/-- What comes next: what is due, else the head of the agenda, else the order of the empty agenda. -/
def State.plan (s : State) : Plan :=
  match s.dueAct with
  | some o => .did o
  | none =>
    match s.agenda with
    | [] => .did s.idle
    | .event i :: rest => if i.shape.isNone then .run i { s with agenda := rest } else .did (.next { s with agenda := rest })
    | a :: rest => .did (.next ({ s with agenda := rest }.dataAct a))

end Sys2Proof.Machine
end

