-- ==== Sys2Proof/Machine/Setup.lean ====
section
/-! DEFINITION. What State.withFetchWord places (log 16): a program at an address that the core's TLB maps executable, and one
privileged general-role thread of a launch of its own, chosen to issue there. -/

namespace Sys2Proof.Machine

/-- Where the word is placed: the virtual address, and the DPA of its page. -/
def probeVa : Nat := 0x10000

/-- A kernel of one general wave with every register, that traps on no data condition. -/
def probeHeader : Header :=
  { det := false, idem := false, nvreg := 256, npred := 96, nwave := 1, entry := BitVec.ofNat 64 probeVa, codesz := 32, vaultsz := 0
    trapen := 0, emitbatch := 0, ndecl := 0, roles := [0], widths := [], full := false, decl := 0 }

/-- Its launch. -/
def probeLaunch (lnum : Nat) : Launch :=
  { lnum := lnum, hdr := probeHeader, khdr := 0, argp := 0, ext := [0, 0, 0, 0, 0, 0], pred := 0, ctx := 0, priv := true
    step := false, debug := false, tpol := 0, succ := [], shrink := [], ring := none, ended := false, cancelled := false
    nextRank := 0, exhausted := false, tickets := [], voided := [], inq := none, freed := [], superstep := 0, claims := []
    owned := [], deferred := [], start := [], halten := false, brken := false, brktag := 0 }

/-- The page that holds the word (R304). -/
def probePage : TlbEntry :=
  { ctx := 0, va := probeVa, size := 65536, dpa := probeVa, x := true, w := true, priv := false, persist := false, tso := false }

/-- These bytes stand where the next step fetches, and the open issue is that of a thread there: lane 0, quadrant 0, core 0. -/
def State.placeWord (s : State) (bs : List Byte) : State :=
  let lnum := s.launches.foldl (fun n l => max n (l.lnum + 1)) 1
  let u := s.nextId
  let key := s.homed probeVa
  let t := newThread u (u + 1) { core := 0, quad := 0, lane := 0, slot := 0 } probeHeader 0 true 0
  let s1 : State :=
    { s with
      threads := t :: s.threads
      waves := newWave (u + 1) lnum 0 0 0 0 0 0 u :: s.waves
      wgs := { newWg lnum 0 0 probeHeader with state := .placed } :: s.wgs
      launches := s.launches ++ [probeLaunch lnum]
      mem := memSets s.mem ((List.range bs.length).map fun i => (key + i, bs.getD i 0))
      poison := s.poison.filter (· != key / 64)
      cmd := { s.cmd with booted := true }
      mmu := { s.mmu with hlimit := s.mmu.hlimit.set 0 0 }
      thatches := { s.thatches with held := s.thatches.held.filter fun h =>
        !(h.vbase ≤ probeVa && probeVa < h.vbase + h.nyealm * h.ysize) }
      issue := some { core := 0, quad := 0, pc := BitVec.ofNat 64 probeVa, uids := [u], kind := .group }
      nextId := u + 2 }
  s1.modCore 0 fun k =>
    { k.engineStart (lnum, 0) with
      tlb := probePage :: k.tlb, l1i := k.l1i.filter (·.1 != key / 32), k := (CoreSt.reset.k).map fun r => { r with members := [u] } }

end Sys2Proof.Machine
end

