-- ==== Sys2Proof/Machine/Step.lean ====
section
/-! DEFINITION. The step: the open issue is fetched and executed, with the early reads that R27 allows; else what is due, the agenda's head, or the first ready
part of the device acts (log 1). -/

namespace Sys2Proof.Machine

/-- A step's outcome with the ready stamps brought up to date (R268). -/
def stamped (o : Host.Outcome State Fault Refusal) : Host.Outcome State Fault Refusal :=
  match o with
  | .next s => .next s.stamp
  | .fault f => .fault f
  | .refused r => .refused r

/-- One step. -/
def step (s : State) : Host.Outcome State Fault Refusal :=
  match s.issue with
  | some g =>
    match s.fetch g with
    | .ok (i, s1) => stamped (exec i s1.earlyReads)
    | .error s1 => .next s1.stamp
  | none =>
    match s.plan with
    | .run i s1 => stamped (exec i s1)
    | .did o => stamped o

/-- The state with an instruction, bit 0 the least significant bit of its first parcel, placed where the next step fetches
(log 16); bits from nbits up are 0. -/
def State.withFetchWord (s : State) (nbits w : Nat) : State := s.placeWord (leBytes 32 (w % 2 ^ nbits))

end Sys2Proof.Machine
end

