-- ==== Sys2Proof/Safety.lean ====
section
/-! DEFINITION. The terms in which claims are made: the canonical form of memory, ready stamps, a run without a stop, and what
an instruction does to the threads that issue it. -/

namespace Sys2Proof

/-- The common fields of an instruction as the manual's listings write it: its length, one guard predicate with its inversion,
stall, the flags it waits for, and the flag it sets (R21, R30). -/
def Ctl.listed (len : Len) (stall : BitVec 4) (wait : BitVec 12) (setf : BitVec 4) (idx : BitVec 7 := 127) (neg : Bool := false) : Ctl :=
  { len := len, stall := stall, wait := wait, setf := setf, g0 := { idx := idx, neg := neg }, gcomb := .single
    g1 := { idx := 0, neg := false }, chint := 0 }

end Sys2Proof

namespace Sys2Proof.Machine

/-! Whole states. -/

/-- Every memory list of the state is in canonical form. -/
def State.memOk (s : State) : Bool := Memory.wf s.mem && Memory.wf s.media

/-- Every thread carries a ready time exactly when it is eligible (R268). -/
def State.stampsOk (s : State) : Prop := ∀ t ∈ s.threads, t.ready.isSome = s.eligible t

/-- A run of n steps that neither faults nor refuses. -/
def State.runsSafely (s : State) (n : Nat) : Prop := ∃ s', Sys2Proof.core.run n s = .next s'

/-! Issue groups. -/

/-- The thread belongs to the open issue. -/
def State.inGroup (s : State) (t : Thread) : Bool := s.issueUids.contains t.uid

/-- A thread that only moves past an instruction: its stall starts, it is counted, and its program counter is the next
(R29, R218, R255). -/
def Thread.past (t : Thread) (now : Nat) (pc : DWord) (yielded : Bool := false) : Thread :=
  { t with lastIssue := some now, retired := t.retired + 1, pc := pc, yielded := yielded, hold := .free, ready := none }

/-- The same thread with SETF raised and a result on its way that lands lat ac later (R27, R28, R79). -/
def Thread.withResult (t : Thread) (now lat : Nat) (f : BitVec 4) (regs : List (Nat × VReg)) (preds : List (Nat × Bool)) : Thread :=
  { t with flags := if f = 15 then t.flags else t.flags.modify f.toNat (· + 1)
           pend := t.pend ++ [{ due := now + lat * Config.ac, regs := regs, preds := preds
                                flag := if f = 15 then none else some f.toNat }] }

/-- The thread stopped by a trap whose record waits to be posted (R215, R273): nothing else of it changes. -/
def Thread.stoppedBy (t : Thread) (s : State) (e : Cause) (ilen : Nat) : Thread :=
  { t with status := .stopped { cause := e.cause, code := e.code, ilen := ilen, pc := t.pc, workid := (s.trapIds t).1
                                launch := (s.trapIds t).2, sticky := t.sticky } false
           hold := .free }

/-- A lane completes: registers and predicates are on their way, the sticky bits are set, and, where TRAPEN names one of the
conditions, a data trap stops the thread, uncounted, once they have landed (R74). -/
def Completes (s : State) (c : Ctl) (lat : Nat) (regs : List (Nat × VReg)) (preds : List (Nat × Bool)) (sticky : Word)
    (t t' : Thread) : Prop :=
  let done := ((t.past s.clock (t.pc + BitVec.ofNat 64 c.len.bytes)).withResult s.clock lat c.setf regs preds)
  let set : Thread := { done with sticky := t.sticky ||| sticky }
  match dataCause (sticky &&& s.trapen t) with
  | none => t' = set
  | some e => t' = { set with pc := t.pc, retired := t.retired, hold := .free
                              status := .stopped { cause := e.cause, code := e.code, ilen := c.len.bytes, pc := t.pc
                                                   workid := (s.trapIds t).1, launch := (s.trapIds t).2
                                                   sticky := t.sticky ||| sticky, due := s.clock + lat * Config.ac } false }

/-- A lane traps before any effect (R33, R53). -/
def TrapsWith (s : State) (c : Ctl) (e : Cause) (t t' : Thread) : Prop := t' = t.stoppedBy s e c.len.bytes

/-- Each lane on its own: exec answers a next state that differs from `base` in its threads and in the issue being over;
threads outside the issue stay, a thread whose guard is false only moves past the instruction, and a thread whose guard is
true ends as R says. -/
def LanesFrom (base s : State) (i : Instr) (c : Ctl) (R : Thread → Thread → Prop) : Prop :=
  ∃ s', exec i s = .next s' ∧ s' = { base with threads := s'.threads, issue := none } ∧
    s'.threads.length = s.threads.length ∧
    ∀ (k : Nat) (t t' : Thread), s.threads[k]? = some t → s'.threads[k]? = some t' →
      (s.inGroup t = false → t' = t) ∧
      (s.inGroup t = true → t.guard c = false → t' = t.past s.clock (t.pc + BitVec.ofNat 64 c.len.bytes)) ∧
      (s.inGroup t = true → t.guard c = true → R t t')

/-- See `LanesFrom`: nothing but the threads and the issue changes. -/
def Lanes (s : State) (i : Instr) (c : Ctl) (R : Thread → Thread → Prop) : Prop := LanesFrom s s i c R

/-- A lane ends as its outcome says: it completes, or traps before any effect. -/
def LaneEnds (s : State) (c : Ctl) (lat : Nat) (r : LaneRes) (t t' : Thread) : Prop :=
  match r with
  | .ok o => Completes s c lat o.regs o.preds o.sticky t t'
  | .error e => TrapsWith s c e t t'

/-- The register or pair d with the elements of a resolved tag, element 0 lowest (R58). -/
def elemsTo (d : Reg) (w64 : Bool) (tag : Byte) (xs : List Nat) : List (Nat × VReg) :=
  wrw w64 d (packElems (elemWidth tag w64) xs) tag

/-- The elements of va under a resolved tag (R58). -/
def Thread.elemsOf (t : Thread) (w64 : Bool) (r : Reg) (tag : Byte) : List Nat :=
  elems (elemWidth tag w64) (elemCount tag w64) (t.opnd w64 r)

/-- Elements of a resolved tag with the conditions each raised (R58, R74). -/
def floatsTo (d : Reg) (tag : Byte) (rs : List (Nat × Word)) : List (Nat × VReg) × List (Nat × Bool) × Word :=
  (elemsTo d false tag (rs.map (·.1)), [], (rs.map (·.2)).foldl (· ||| ·) 0)

/-- A result of n consecutive registers from d on, with one tag and side scale: element i of their elements of w bits is el i, each
register's first lowest (R48, R58, R61); none for vz. -/
def RunOf (regs : List (Nat × VReg)) (d : Reg) (n w : Nat) (tag scale : Byte) (el : Nat → Nat) : Prop :=
  (d = 255 → regs = []) ∧
  (d ≠ 255 → regs.length = n ∧ ∀ j, j < n → ∃ v : VReg, regs[j]? = some (d.toNat + j, v) ∧ v.tag = tag ∧ v.scale = scale ∧
    ∀ i, i < 32 / w → v.val.toNat / 2 ^ (w * i) % 2 ^ w = el (32 / w * j + i))

/-- An exact value with its conditions, rounded once into a format (R56, R70). -/
def rounded (f : FFmt) (x : XVal × Word) (rm : Rm) (theta : Nat) : Nat × Word :=
  let r := f.round x.1 rm theta
  (r.1, r.2 ||| x.2)

/-- The lane's operand tags resolve, and it completes; or they do not, and it traps with TAG_MISMATCH (R53). -/
def Resolves (s : State) (c : Ctl) (dflt : Byte) (ok : Byte → Bool) (tags : List Byte) (lat : Nat)
    (out : Byte → List (Nat × VReg) × List (Nat × Bool) × Word) (t t' : Thread) : Prop :=
  match resolveTags dflt ok tags with
  | .ok tag => Completes s c lat (out tag).1 (out tag).2.1 (out tag).2.2 t t'
  | .error _ => TrapsWith s c cTagMismatch t t'

/-- A lane goes on at another address, where a branch may go there, else traps with BAD_TARGET and writes nothing (R81). -/
def Branches (s : State) (c : Ctl) (va : DWord) (t t' : Thread) : Prop :=
  (s.targetOk t.ctx va = true → t' = t.past s.clock va) ∧ (s.targetOk t.ctx va = false → TrapsWith s c cBadTarget t t')

/-! Collectives (R106). -/

/-- A thread of a collective that does not take part: it moves past it with the wave's sticky bits, and takes no data trap (R29, R51,
log 105). -/
def Attends (s : State) (c : Ctl) (sticky : Word) (t t' : Thread) : Prop :=
  t' = { t.past s.clock (t.pc + BitVec.ofNat 64 c.len.bytes) with sticky := t.sticky ||| sticky }

/-- The collective has issued for the whole wave: exec answers a next state that differs from `base` in its threads and in the
issue being over; threads outside the wave stay, others attend, and the participants end as R says. -/
def WaveFrom (base s : State) (i : Instr) (c : Ctl) (sticky : Word) (R : Thread → Thread → Prop) : Prop :=
  ∃ s', exec i s = .next s' ∧ s' = { base with threads := s'.threads, issue := none } ∧
    s'.threads.length = s.threads.length ∧
    ∀ (k : Nat) (t t' : Thread), s.threads[k]? = some t → s'.threads[k]? = some t' →
      (s.inGroup t = false → t' = t) ∧
      (s.thread? t.uid = some t → s.inGroup t = true → t.guard c = false → Attends s c sticky t t') ∧
      (s.thread? t.uid = some t → s.inGroup t = true → t.guard c = true → R t t')

/-- The issue is a collective's, for the whole wave. -/
def State.waveIssue (s : State) : Prop := ∃ g, s.issue = some g ∧ g.kind = .wave

/-- The issue is a group's own. -/
def State.groupIssue (s : State) : Prop := ∃ g, s.issue = some g ∧ g.kind = .group

/-- The scalar operand of a directional instruction: its immediate, or the scalar lane's register, whose tag is INT or RAW (R125,
R127, R129). -/
def scalarOf (ps : List Thread) (x : Scal) (reg : Word → Int) (imm : BitVec 20 → Int) : Except Cause Int :=
  match x, ps with
  | .imm v, _ => .ok (imm v)
  | .reg _, [] => .ok 0
  | .reg r, p :: _ => if (p.optReg r).tag = tagRAW ∨ (p.optReg r).tag = tagINT then .ok (reg (p.optVal r)) else .error cTagMismatch

/-- A directional write (R114 to R117): components land tc ac and the norm tn ac after the issue, in the wave's register d, with
the sticky bits in every thread; or every participant traps. -/
def DirWrites (s : State) (i : Instr) (c : Ctl) (tc tn : Nat) (d : Reg) (out : Wave → List Thread → Except Cause DirOut) : Prop :=
  s.waveIssue → ∀ (t0 : Thread) (w : Wave) (ps : List Thread), s.group.head? = some t0 → s.waveOf t0 = some w →
    participants c s.group = ps → ps ≠ [] →
    match out w ps with
    | .error e => WaveFrom s s i c 0 (TrapsWith s c e)
    | .ok o => WaveFrom (s.modWave w.wid fun x => x.dWrite s.clock tc tn d o) s i c o.sticky (Completes s c tn [] [] o.sticky)

/-- A directional read (R114, R115): each participant's registers or predicates lat ac after the issue. -/
def DirReads (s : State) (i : Instr) (c : Ctl) (lat : Nat) (out : Wave → List Thread → Thread → LaneOut × Word) : Prop :=
  s.waveIssue → ∀ (t0 : Thread) (w : Wave) (ps : List Thread), s.group.head? = some t0 → s.waveOf t0 = some w →
    participants c s.group = ps → ps ≠ [] →
    ∃ st, (∀ t, (out w ps t).2 = st) ∧ WaveFrom s s i c st fun t =>
      Completes s c lat (out w ps t).1.regs (out w ps t).1.preds ((out w ps t).1.sticky ||| st) t

/-- The threads arrive at the wave's collective point and are held there; in a landing slot a thread whose guard is true traps, and one
whose guard is false moves past the instruction (R106, R207, log 105). -/
def Arrives (s : State) (i : Instr) (c : Ctl) : Prop :=
  s.groupIssue →
    ((∀ x ∈ s.group, x.home = none) → ∃ s', exec i s = .next s' ∧ s' = { s with threads := s'.threads, issue := none } ∧
      s'.threads = s.threads.map fun t =>
        if s.inGroup t then { t with hold := .collective, setf := c.setf, ilen := c.len.bytes } else t) ∧
    ((∀ x ∈ s.group, x.home ≠ none) → ∃ s', exec i s = .next s' ∧
      s'.threads = s.threads.map fun t =>
        if (s.group.filter (·.guard c)).any (·.uid == t.uid) then t.stoppedBy s cCollMigrated c.len.bytes
        else if s.group.any (·.uid == t.uid) then t.past s.clock (t.pc + BitVec.ofNat 64 c.len.bytes) else t)

/-! Accesses and other acts of one thread. -/

/-- The issue is this one thread's, and its guard is true. -/
def State.solo (s : State) (c : Ctl) (t : Thread) : Prop :=
  s.issueUids = [t.uid] ∧ s.thread? t.uid = some t ∧ t.guard c = true

/-- The thread past a memory-class instruction: SETF stays raised until the access performs (R28). -/
def Thread.sent (t : Thread) (now : Nat) (c : Ctl) : Thread :=
  { t.past now (t.pc + BitVec.ofNat 64 c.len.bytes) with
    flags := if c.setf = 15 then t.flags else t.flags.modify c.setf.toNat (· + 1) }

/-- A wave's directional registers and what is on its way to them. -/
def Wave.dregs (w : Wave) : Nat × List (List Half) × List Word × List DPend := (w.wid, w.d, w.n, w.dpend)

/-- Nothing changes but these threads, what an issue of theirs puts under way (accesses, write-combined lines, commands, a
launch's counts), and cached translations: no byte of memory, no other thread, no directional register, no special register. -/
def Quiet (s s' : State) (uids : List Nat) : Prop :=
  s'.mem = s.mem ∧ s'.media = s.media ∧ s'.waves.map Wave.dregs = s.waves.map Wave.dregs ∧ s'.wgs = s.wgs ∧ s'.ckpt = s.ckpt ∧ s'.cmd = s.cmd ∧
  s'.power = s.power ∧ s'.links = s.links ∧ s'.enabled = s.enabled ∧ s'.clock = s.clock ∧
  s'.mmu = { s.mmu with tlb2 := s'.mmu.tlb2 } ∧ ∀ u, uids.contains u = false → s'.thread? u = s.thread? u

/-- The thread of a solo issue moves past the instruction, and an access as `ok` says joins those in flight; else it is quiet. -/
def Sends (s : State) (i : Instr) (c : Ctl) (t : Thread) (ok : Access → Prop) : Prop :=
  ∃ s' a, exec i s = .next s' ∧ s'.issue = none ∧ Quiet s s' [t.uid] ∧ s'.thread? t.uid = some (t.sent s.clock c) ∧
    a ∈ s'.inflight ∧ s.nextId ≤ a.id ∧ a.uids = [t.uid] ∧ a.setf = c.setf ∧ ok a

/-- The thread of a solo issue moves past the instruction, and one entry as `ok` says joins the commit queue of its launch l, with the
key of its issue; no access joins those in flight, and else it is quiet. -/
def Defers (s : State) (i : Instr) (c : Ctl) (t : Thread) (l : Launch) (ok : Deferred → Prop) : Prop :=
  ∃ s' d, exec i s = .next s' ∧ s'.issue = none ∧ Quiet s s' [t.uid] ∧ s'.thread? t.uid = some (t.sent s.clock c) ∧
    s'.inflight = s.inflight ∧ (s'.launch? (s.lnumOf t)).map (·.deferred) = some (l.deferred ++ [d]) ∧
    (d.rank, d.retired) = s.deferKey t ∧ d.lane = t.loc.lane ∧ d.falls = [(t.uid, c.setf)] ∧ ok d

/-- The thread of a solo issue becomes t'; else it is quiet. -/
def Becomes (s : State) (i : Instr) (t t' : Thread) : Prop :=
  ∃ s', exec i s = .next s' ∧ s'.issue = none ∧ Quiet s s' [t.uid] ∧ s'.thread? t.uid = some t'

/-- The last byte written to a key among these, if any. -/
def lastByte (bs : List (Nat × Byte)) (k : Nat) : Option Byte := ((bs.reverse.find? (·.1 == k)).map (·.2))

/-- Memory after these bytes were written: theirs, and everywhere else the old byte. -/
def Stored (s s' : State) (bs : List (Nat × Byte)) : Prop :=
  ∀ k, memGet s'.mem k = (lastByte bs k).getD (memGet s.mem k)

/-- An operand of a lock instruction that names the queue lock at DPA a (R198, R199). -/
def State.lockAt (s : State) (t : Thread) (x : LockArgs) (a : Nat) : Prop :=
  let va := t.pair x.a + x.off.signExtend 64
  s.isDet t = false ∧ canonical va = true ∧ va.toNat % 8 = 0 ∧ (s.inHeap t.ctx va.toNat = true ∨ s.thatchAt va.toNat = none) ∧
  (∃ p o l, s.xlate (some t.loc.core) t.ctx t.priv .atomic va = .dpa a p o l) ∧ s.spaceOf a ≠ .host ∧ s.editHolds [a] = false ∧
  s.poisoned a 8 = false

/-- The thread stays at its instruction, held in this way. -/
def Thread.heldAt (t : Thread) (c : Ctl) (h : Hold) : Thread := { t with hold := h, setf := c.setf, ilen := c.len.bytes }

/-- A collective whose participants are held at it while the other threads pass. -/
def WaveHolds (base s : State) (i : Instr) (c : Ctl) (h : Hold) : Prop :=
  WaveFrom base s i c 0 fun t t' => t' = t.heldAt c h

/-- A collective that sends one access for all its participants; SETF rises in each, and no byte of memory changes yet. -/
def WaveSends (s : State) (i : Instr) (c : Ctl) (ok : Access → Prop) : Prop :=
  ∃ s' a, exec i s = .next s' ∧ s'.issue = none ∧ s'.mem = s.mem ∧ s'.media = s.media ∧ a ∈ s'.inflight ∧ s.nextId ≤ a.id ∧
    (∀ u, s.issueUids.contains u = false → s'.thread? u = s.thread? u) ∧
    a.uids = (participants c s.group).map (·.uid) ∧ a.setf = c.setf ∧ ok a ∧
    ∀ (t : Thread), s.thread? t.uid = some t → t ∈ participants c s.group → s'.thread? t.uid = some (t.sent s.clock c)

/-- The thread of a solo issue moves past an engine instruction, whose command joins its queue with the barrier at key k, and no
byte of memory changes but of that barrier's object, whose INFLIGHT rises (R169, R178). -/
def EngineIssues (s : State) (i : Instr) (c : Ctl) (t : Thread) (k : Nat) (ok : EngOp → Prop) : Prop :=
  ∃ s' x, exec i s = .next s' ∧ s'.issue = none ∧ s'.thread? t.uid = some (t.past s.clock (t.pc + BitVec.ofNat 64 c.len.bytes)) ∧
    (∀ u, u ≠ t.uid → s'.thread? u = s.thread? u) ∧ x ∈ s'.cmds ∧ x.uid = t.uid ∧ x.bar = k ∧ x.setf = c.setf ∧ x.credited = 0 ∧ ok x.op ∧
    (∀ a, a < k ∨ k + 28 ≤ a → memGet s'.mem a = memGet s.mem a) ∧
    (s'.barGet k).inflight = min 0xFFFF ((s.barGet k).inflight + 1)

/-- A command of this thread would enter its engine's queue: its barrier operand names an object whose vault is up and which holds no
uncorrectable data, and the queue has room. -/
def State.engineRoom (s : State) (t : Thread) (bar : Reg) (engine k : Nat) : Prop :=
  s.barOperand t (t.pair bar) = .ok k ∧ s.engQueued t.loc.core engine < engCapacity engine ∧ s.cmd.lost = [] ∧
  s.vaultUp k = true ∧ s.poisoned k 32 = false

/-- The command op of an engine instruction issues, or traps with DET_VIOLATION (code 4) where a deterministic launch names a vault
window other than its core's with an operand that the command reads or writes itself (R209, log 152). -/
def EngineTakes (s : State) (i : Instr) (c : Ctl) (t : Thread) (k : Nat) (op : EngOp) : Prop :=
  (s.engForeign t op = false → EngineIssues s i c t k (· = op)) ∧
  (s.engForeign t op = true → Becomes s i t (t.stoppedBy s (cDet 4) c.len.bytes))

/-- A wave collective of the matrix class whose command joins the engine's queue; SETF rises in each participant (R134, R142). -/
def MatrixQueues (s : State) (i : Instr) (c : Ctl) (core acc : Nat) (ok : MKind → Prop) : Prop :=
  ∃ s' m, exec i s = .next s' ∧ s'.issue = none ∧ s'.mem = s.mem ∧ (s'.core core).mqueue = (s.core core).mqueue ++ [m] ∧
    m.acc = acc ∧ m.uids = (participants c s.group).map (·.uid) ∧ m.setf = c.setf ∧ ok m.kind ∧
    (∀ u, s.issueUids.contains u = false → s'.thread? u = s.thread? u) ∧
    ∀ (t : Thread), s.thread? t.uid = some t → t ∈ participants c s.group → s'.thread? t.uid = some (t.sent s.clock c)

/-- The wave issue's first participant, and that its workgroup holds the matrix engine of its core (R133). -/
def State.matrixIssue (s : State) (c : Ctl) (t : Thread) : Prop :=
  s.waveIssue ∧ (participants c s.group).head? = some t ∧ s.holdsEngine t = true

end Sys2Proof.Machine
end

