-- ==== Sys2Proof/Certificates/Slice0/Obligations.lean ====
section
/-! DEFINITION. The statements for the provers. -/

open Sys2Proof Sys2Proof.Machine

/-! Lanes that compute on their own registers. Each statement gives the result and, through `Lanes`, the frame: of the whole
state only the threads of the issue change, and of such a thread only what `Completes` or `TrapsWith` names. -/

/-- R88: IADD, ISUB, IMIN and IMAX, element by element under the resolved tag (INT, and without .64 I16 and I8), 2 ac. Sums and
differences are exact, then clamped with SAT and narrowed.
R88, R89: IMUL, IMULH, IMAD, IDIV and IREM accept INT alone; a division by zero or of the least number by -1 gives the
value of R89 and its condition. -/
def Obligations.IntegerArithmetic : Prop :=
  (∀ (s : State) (c : Ctl) (x : IntBin),
    let result (f : Nat → Nat → Nat → Nat) (t t' : Thread) : Prop :=
      Resolves s c tagINT (okInt x.w64) ((t.reg x.a).tag :: t.srcTags x.b) 2 (fun tag =>
        (elemsTo x.d x.w64 tag (List.zipWith (f (elemWidth tag x.w64)) (t.elemsOf x.w64 x.a tag) (t.srcElems x.b tag x.w64)),
         [], 0)) t t'
    Lanes s (.iadd c x) c (result fun w a b => satWrap x.u x.sat w (asInt x.u w a + asInt x.u w b)) ∧
    Lanes s (.isub c x) c (result fun w a b => satWrap x.u x.sat w (asInt x.u w a - asInt x.u w b)) ∧
    Lanes s (.imin c x) c (result fun w a b => if asInt x.u w b < asInt x.u w a then b else a) ∧
    Lanes s (.imax c x) c (result fun w a b => if asInt x.u w a < asInt x.u w b then b else a)) ∧
  ((∀ (s : State) (c : Ctl) (x : IntBin),
      let w := if x.w64 then 64 else 32
      let result (lat : Nat) (f : Nat → Nat → Nat × Word) (t t' : Thread) : Prop :=
        Resolves s c tagINT okINT ((t.reg x.a).tag :: t.srcTags x.b) lat (fun tag =>
          let r := f (t.opnd x.w64 x.a).toNat (t.srcBits x.b x.w64).toNat
          (wrw x.w64 x.d (BitVec.ofNat 64 r.1) tag, [], r.2)) t t'
      let a (n : Nat) : Int := asInt x.u w n
      Lanes s (.imul c x) c (result 4 fun p q => (p * q % 2 ^ w, 0)) ∧
      Lanes s (.imulh c x) c (result 4 fun p q => (toBits w (a p * a q / (2 ^ w : Int)), 0)) ∧
      Lanes s (.idiv c x) c (result (if x.w64 then 40 else 24) fun p q =>
        if q = 0 then (2 ^ w - 1, stDIVZ)
        else if x.u = false ∧ p = 2 ^ (w - 1) ∧ q = 2 ^ w - 1 then (p, stDIVOV)
        else (toBits w ((a p).tdiv (a q)), 0)) ∧
      Lanes s (.irem c x) c (result (if x.w64 then 40 else 24) fun p q =>
        if q = 0 then (p, stDIVZ)
        else if x.u = false ∧ p = 2 ^ (w - 1) ∧ q = 2 ^ w - 1 then (0, stDIVOV)
        else (toBits w ((a p).tmod (a q)), 0))) ∧
    (∀ (s : State) (c : Ctl) (x : IntTern),
      Lanes s (.imad c x) c fun t t' =>
        Resolves s c tagINT okINT ((t.reg x.a).tag :: t.srcTags x.b ++ [(t.optReg x.c).tag]) 4 (fun tag =>
          (wrw x.w64 x.d (t.opnd x.w64 x.a * t.srcBits x.b x.w64 + t.opnd x.w64 (x.c.getD 255)) tag, [], 0)) t t'))

/-- R88, R90: IABS, INEG under a resolved tag; POPC, CLZ and BREV, whose result is INT, and LNOT, which keeps va's tag and side
scale, check none.
R90: LAND, LOR and LXOR keep va's tag and side scale; a shift count of the width or more empties the value, a rotate count
is taken modulo the width, and shifts and rotates give INT. HMUL (R93) gives the high half of the unsigned product. -/
def Obligations.IntegerUnaryAndBitwise : Prop :=
  (∀ (s : State) (c : Ctl) (x : IntUn),
    let w := if x.w64 then 64 else 32
    let un (f : Nat → Nat → Nat) (t t' : Thread) : Prop :=
      Resolves s c tagINT (okInt x.w64) [(t.reg x.a).tag] 2 (fun tag =>
        (elemsTo x.d x.w64 tag ((t.elemsOf x.w64 x.a tag).map (f (elemWidth tag x.w64))), [], 0)) t t'
    Lanes s (.iabs c x) c (un fun w a => satWrap false x.sat w (signExt w a).natAbs) ∧
    Lanes s (.ineg c x) c (un fun w a => satWrap false x.sat w (-(signExt w a))) ∧
    Lanes s (.popc c x) c (fun t => Completes s c 2
      (wr1 x.d (BitVec.ofNat 32 ((List.range w).filter fun i => (t.opnd x.w64 x.a).getLsbD i).length) tagINT) [] 0 t) ∧
    Lanes s (.clz c x) c (fun t => Completes s c 2 (wr1 x.d (BitVec.ofNat 32 (leadingZeros w (t.opnd x.w64 x.a))) tagINT) [] 0 t) ∧
    Lanes s (.brev c x) c (fun t => Completes s c 2
      (wrw x.w64 x.d (BitVec.ofNat 64 (bitReverse w (t.opnd x.w64 x.a))) tagINT) [] 0 t) ∧
    Lanes s (.lnot c x) c (fun t => Completes s c 2
      (wrw x.w64 x.d (~~~(t.opnd x.w64 x.a)) (t.reg x.a).tag (t.reg x.a).scale) [] 0 t)) ∧
  (∀ (s : State) (c : Ctl) (x : IntBin),
    let w := if x.w64 then 64 else 32
    let bits (f : DWord → DWord → DWord) (t : Thread) : Thread → Prop :=
      Completes s c 2 (wrw x.w64 x.d (f (t.opnd x.w64 x.a) (t.srcBits x.b x.w64)) (t.reg x.a).tag (t.reg x.a).scale) [] 0 t
    let shift (f : Nat → Nat → Nat) (t : Thread) : Thread → Prop :=
      Completes s c 2 (wrw x.w64 x.d (BitVec.ofNat 64 (f (t.opnd x.w64 x.a).toNat (t.srcWord x.b).toNat)) tagINT) [] 0 t
    Lanes s (.land c x) c (bits fun a b => a &&& b) ∧
    Lanes s (.lor c x) c (bits fun a b => a ||| b) ∧
    Lanes s (.lxor c x) c (bits fun a b => a ^^^ b) ∧
    Lanes s (.shl c x) c (shift fun a n => if w ≤ n then 0 else a * 2 ^ n % 2 ^ w) ∧
    Lanes s (.shr c x) c (shift fun a n => if w ≤ n then 0 else a / 2 ^ n) ∧
    Lanes s (.sar c x) c (shift fun a n => toBits w (signExt w a / (2 ^ (min n w) : Int))) ∧
    Lanes s (.rot c x) c (shift fun a n => a * 2 ^ (n % w) % 2 ^ w + a / 2 ^ (w - n % w)) ∧
    Lanes s (.hmul c x) c (fun t => Completes s c 4 (wrw x.w64 x.d
      (BitVec.ofNat 64 ((t.opnd x.w64 x.a).toNat * (t.srcBits x.b x.w64).toNat / 2 ^ w)) tagINT) [] 0 t))

/-- R91: BFE extracts a field, sign-extended with S; BFI inserts the low bits of va into vb.
R92, R93, R48: ISETP compares INT operands into a predicate; SEL, MOV, MOVI and LEA move and add. LEA takes operands of any tag, which is
the model's choice (log 119, DEDUCED). -/
def Obligations.BitFieldsComparesMoves : Prop :=
  (∀ (s : State) (c : Ctl) (x : BitField),
    let m := BitVec.ofNat 64 ((2 ^ x.len.toNat - 1) * 2 ^ x.pos.toNat)
    Lanes s (.bfe c x) c (fun t => Completes s c 2 (wrw x.w64 x.d (BitVec.ofNat 64
      (let f := (t.opnd x.w64 x.a).toNat / 2 ^ x.pos.toNat % 2 ^ x.len.toNat
       if x.s then toBits 64 (signExt x.len.toNat f) else f)) tagINT) [] 0 t) ∧
    Lanes s (.bfi c x) c (fun t => Completes s c 2
      (wrw x.w64 x.d ((t.opnd x.w64 x.b &&& ~~~m) ||| ((t.opnd x.w64 x.a <<< x.pos.toNat) &&& m)) tagINT) [] 0 t)) ∧
  (∀ (s : State) (c : Ctl),
    (∀ x : ISetp, Lanes s (.isetp c x) c fun t =>
      Resolves s c tagINT okINT ((t.reg x.a).tag :: t.srcTags x.b) 2 (fun _ =>
        ([], [(x.p.toNat, icondHolds x.cond (if x.w64 then 64 else 32) (t.opnd x.w64 x.a).toNat (t.srcBits x.b x.w64).toNat)], 0))
        t) ∧
    (∀ x : SelArgs, Lanes s (.sel c x) c fun t => Completes s c 2
      (if t.pred (x.ps.getD 127).toNat then wrw x.w64 x.d (t.opnd x.w64 x.a) (t.reg x.a).tag (t.reg x.a).scale
       else match x.b with
         | .reg r => wrw x.w64 x.d (t.opnd x.w64 r) (t.reg r).tag (t.reg r).scale
         | .imm v => wrw x.w64 x.d (t.srcBits (.imm v) x.w64) tagRAW) [] 0 t) ∧
    (∀ (d a : Reg) (w : MovW), Lanes s (.mov c d a w) c fun t => Completes s c 2
      (t.movRegs d a (match w with | .w1 => 1 | .w2 => 2 | .w4 => 4)) [] 0 t) ∧
    (∀ (d : Reg) (m : MSel) (imm : Word), Lanes s (.movi c d m imm) c fun t => Completes s c 2
      (match m with | .w32 => wr1 d imm tagRAW | .s64 => wr2 d (imm.signExtend 64) tagRAW | .u64 => wr2 d (imm.setWidth 64) tagRAW)
      [] 0 t) ∧
    (∀ x : LeaArgs, Lanes s (.lea c x) c fun t => Completes s c 2
      (wr2 x.d (t.pair x.a + ((if x.s then (t.val x.b).signExtend 64 else (t.val x.b).setWidth 64) <<< x.sh.toNat)) tagINT) [] 0 t))

/-- R87: the predicate instructions; NA and NB complement a source.
R110: the tag and side-scale instructions check no tag; a reserved tag from a register traps. -/
def Obligations.PredicatesAndTags : Prop :=
  (∀ (s : State) (c : Ctl),
    (∀ x : PredArgs,
      let put (f : Bool → Bool → Bool) (t : Thread) : Thread → Prop :=
        Completes s c 2 [] [(x.d.toNat, f (t.pred x.a.toNat != x.na) (t.pred x.b.toNat != x.nb))] 0 t
      Lanes s (.pand c x) c (put fun a b => a && b) ∧ Lanes s (.por c x) c (put fun a b => a || b) ∧
      Lanes s (.pxor c x) c (put fun a b => a != b)) ∧
    (∀ d a : Reg, Lanes s (.pnot c d a) c fun t => Completes s c 2 [] [(d.toNat, !t.pred a.toNat)] 0 t) ∧
    (∀ (d a : Reg) (na : Bool), Lanes s (.pmov c d a na) c fun t => Completes s c 2 [] [(d.toNat, t.pred a.toNat != na)] 0 t)) ∧
  (∀ (s : State) (c : Ctl),
    (∀ x : TagArgs, let g (t : Thread) : Byte := (t.srcWord x.b).setWidth 8
      let bad (t : Thread) : Prop := (∃ r, x.b = .reg r) ∧ tagReserved (g t)
      Lanes s (.tagset c x) c (fun t t' =>
        (bad t → TrapsWith s c cTagMismatch t t') ∧
        (¬ bad t → Completes s c 2 (wr1 x.d (t.val x.a) (g t) (if tagIsBfp (g t) then (t.reg x.a).scale else 0)) [] 0 t t')) ∧
      Lanes s (.tagchk c x) c (fun t t' =>
        (bad t ∨ (x.trap ∧ (t.reg x.a).tag ≠ g t) → TrapsWith s c cTagMismatch t t') ∧
        (¬ bad t → (x.trap → (t.reg x.a).tag = g t) →
          Completes s c 2 [] [(x.d.toNat, decide ((t.reg x.a).tag = g t))] 0 t t')) ∧
      Lanes s (.sclset c x) c (fun t => Completes s c 2 (wr1 x.d (t.val x.a) (t.reg x.a).tag (g t)) [] 0 t)) ∧
    (∀ x : Un,
      Lanes s (.tagget c x) c (fun t => Completes s c 2 (wr1 x.d ((t.reg x.a).tag.setWidth 32) tagINT) [] 0 t) ∧
      Lanes s (.sclget c x) c (fun t => Completes s c 2 (wr1 x.d ((t.reg x.a).scale.setWidth 32) tagINT) [] 0 t)))

/-! Floating point. Each element is decoded, computed exactly, and rounded once at its dither threshold (R73, R78, R94). -/

/-- R94, R95: FADD, FSUB, FMUL (4 ac) and FMIN, FMAX (2 ac) element by element under F32, F16x2 or BF16x2. Which of several enabled
conditions a data trap names is the model's choice (log 11, DEDUCED). -/
def Obligations.FloatTwoSources : Prop := ∀ (s : State) (c : Ctl) (d a : Reg) (b : Src) (cr : Option Reg) (rm : Rm),
  let bin (lat : Nat) (cr : Option Reg) (g : FFmt → Nat → Nat → Nat → Nat × Word) (t : Thread) : Thread → Prop :=
    Resolves s c tagF32 okFloat ((t.reg a).tag :: t.srcTags b) lat (fun tag =>
      floatsTo d tag (((t.elemsOf false a tag).zip (t.srcFloat b tag)).mapIdx fun k e =>
        g (fmtOf tag) e.1 e.2 (thetaAt (t.optVal cr) k))) t
  Lanes s (.fadd c { d := d, a := a, b := b, c := cr, rm := rm }) c
    (bin 4 cr fun f p q th => rounded f ((f.decode p).add (f.decode q) (rm == .rdn)) rm th) ∧
  Lanes s (.fsub c { d := d, a := a, b := b, c := cr, rm := rm }) c
    (bin 4 cr fun f p q th => rounded f ((f.decode p).add (f.decode q).neg (rm == .rdn)) rm th) ∧
  Lanes s (.fmul c { d := d, a := a, b := b, c := cr, rm := rm }) c
    (bin 4 cr fun f p q th => rounded f ((f.decode p).mul (f.decode q)) rm th) ∧
  Lanes s (.fmin c { d := d, a := a, b := b }) c (bin 2 none fun f p q _ => f.minmax false p q) ∧
  Lanes s (.fmax c { d := d, a := a, b := b }) c (bin 2 none fun f p q _ => f.minmax true p q)

/-- R95, R97, R98: FABS and FNEG act on the sign bit alone; FCLASS gives a class mask; FRND an integral value; FSCALE a
multiplication by a power of two, its vb an integer; FSETP a comparison, and INV for NaNs as R96 says. Which of several enabled
conditions a data trap names is the model's choice (log 11, DEDUCED). -/
def Obligations.FloatOneSource : Prop := ∀ (s : State) (c : Ctl),
  (∀ x : Un,
    let un (g : FFmt → Nat → Nat) (t : Thread) : Thread → Prop :=
      Resolves s c tagF32 okFloat [(t.reg x.a).tag] 2 (fun tag =>
        floatsTo x.d tag ((t.elemsOf false x.a tag).map fun p => (g (fmtOf tag) p, 0))) t
    Lanes s (.fabs c x) c (un fun f p => p % 2 ^ (f.ebits + f.fbits)) ∧
    Lanes s (.fneg c x) c (un fun f p => (p + 2 ^ (f.ebits + f.fbits)) % 2 ^ f.width) ∧
    Lanes s (.fclass c x) c (fun t => Resolves s c tagF32 okFloat [(t.reg x.a).tag] 2 (fun tag =>
      floatsTo x.d (if tag == tagF32 then tagINT else tagI16)
        ((t.elemsOf false x.a tag).map fun p => ((fmtOf tag).classMask p, 0))) t)) ∧
  (∀ x : FUn, Lanes s (.frnd c x) c fun t => Resolves s c tagF32 okFloat [(t.reg x.a).tag] 4 (fun tag =>
    floatsTo x.d tag ((t.elemsOf false x.a tag).mapIdx fun k p =>
      frndElem x.rm (fmtOf tag) p (thetaAt (t.optVal x.c) k))) t) ∧
  (∀ x : FBin, Lanes s (.fscale c x) c fun t t' =>
    match resolveTags tagINT okINT (t.srcTags x.b) with
    | .error _ => TrapsWith s c cTagMismatch t t'
    | .ok _ => Resolves s c tagF32 okFloat [(t.reg x.a).tag] 4 (fun tag =>
        floatsTo x.d tag ((t.elemsOf false x.a tag).mapIdx fun k p =>
          (fmtOf tag).round (((fmtOf tag).decode p).shift (max (-1024) (min 1024 (t.srcWord x.b).toInt))) x.rm
            (thetaAt (t.optVal x.c) k))) t t') ∧
  (∀ x : FSetp, Lanes s (.fsetp c x) c fun t t' =>
    match resolveTags tagF32 okFloat ((t.reg x.a).tag :: t.srcTags x.b) with
    | .error _ => TrapsWith s c cTagMismatch t t'
    | .ok tag =>
      let k := if x.e1 then 1 else 0
      let r := fcondHolds x.cond ((fmtOf tag).decode ((t.elemsOf false x.a tag).getD k 0))
        ((fmtOf tag).decode ((t.srcFloat x.b tag).getD k 0))
      if x.e1 ∧ tag = tagF32 then TrapsWith s c cIllegalModifier t t'
      else Completes s c 2 [] [(x.p.toNat, r.1)] r.2 t t')

/-- R94, R100: FFMA, FDOT2 and FDOT4 sum exact products and an addend and round once; an absent addend is vz. That the conditions are
raised in the order products, then addend, is the model's choice (log 44, DEDUCED), as is the one that a data trap names (log 11). -/
def Obligations.FloatFused : Prop := ∀ (s : State) (c : Ctl) (x : FTern),
  let es (t : Thread) (tag : Byte) (r : Reg) : List Nat := t.elemsOf false r tag
  let dot (ok : Byte → Bool) (t t' : Thread) : Prop :=
    match resolveTags tagF32 ok [(t.reg x.a).tag, (t.reg x.b).tag],
          resolveTags tagF32 (· == tagF32) [(t.optReg x.c).tag] with
    | .ok tag, .ok _ =>
      let f := fmtOf tag
      let products := ((es t tag x.a).zip (es t tag x.b)).map fun e => (f.decode e.1).mul (f.decode e.2)
      let r := rounded fmtF32 (sumAll (products ++ [(fmtF32.decode (t.optVal x.c).toNat, 0)]) (x.rm == .rdn)) x.rm
        (thetaAt (t.optVal x.x) 0)
      Completes s c 6 (wr1 x.d (BitVec.ofNat 32 r.1) tagF32) [] r.2 t t'
    | _, _ => TrapsWith s c cTagMismatch t t'
  Lanes s (.ffma c x) c (fun t =>
    Resolves s c tagF32 okFloat [(t.reg x.a).tag, (t.reg x.b).tag, (t.optReg x.c).tag] 4 (fun tag =>
      let f := fmtOf tag
      floatsTo x.d tag ((((es t tag x.a).zip (es t tag x.b)).zip (es t tag (x.c.getD 255))).mapIdx fun k e =>
        rounded f (sumAll [(f.decode e.1.1).mul (f.decode e.1.2), (f.decode e.2, 0)] (x.rm == .rdn)) x.rm
          (thetaAt (t.optVal x.x) k))) t) ∧
  Lanes s (.fdot2 c x) c (dot fun tag => tag == tagF16 || tag == tagBF16) ∧
  Lanes s (.fdot4 c x) c (dot fun tag => tag == tagE4M3 || tag == tagE5M2)

/-- R79, R99: the special functions take 12 ac and the quadrant's special-function unit, which the state of the issuing core
records; each element is the function's value rounded to the format, and the special cases, a reciprocal, a whole power of two and the
logarithm of one are those of the table.
R101, R102: FCVT converts k elements from the format that SF or the tag names, and keeps the other elements; each is decoded, and rounded,
narrowed with the bound, or rounded to an integer that saturates.
R103, R104: BFPPACK writes the run of a block that R73 encodes, BFPUNPK the block's values, rounded.
R105: COMPRESS keeps of each group of four the two elements that rank first, the lower index among equals, in order, with their indices in
the side scale; EXPAND puts them back among zeros.
Which of several enabled conditions a data trap names is the model's choice (log 11, DEDUCED); that a BFP run needs no alignment, too
(log 17). -/
def Obligations.SpecialFunctionsAndConversions : Prop :=
  (∀ (s : State) (c : Ctl) (x : FUn),
    let fn (g : SFun) (t : Thread) : Thread → Prop :=
      Resolves s c tagF32 okFloat [(t.reg x.a).tag] 12 (fun tag =>
        floatsTo x.d tag ((t.elemsOf false x.a tag).mapIdx fun k p =>
          (fmtOf tag).sfun g ((fmtOf tag).decode p) x.rm (thetaAt (t.optVal x.c) k) p)) t
    LanesFrom s.sfuTaken s (.frcp c x) c (fn .rcp) ∧ LanesFrom s.sfuTaken s (.frsq c x) c (fn .rsq) ∧
    LanesFrom s.sfuTaken s (.fsqrt c x) c (fn .sqrt) ∧ LanesFrom s.sfuTaken s (.fexp2 c x) c (fn .exp2) ∧
    LanesFrom s.sfuTaken s (.flog2 c x) c (fn .log2) ∧ LanesFrom s.sfuTaken s (.fsin c x) c (fn .sin) ∧
    LanesFrom s.sfuTaken s (.fcos c x) c (fn .cos) ∧ LanesFrom s.sfuTaken s (.ftanh c x) c (fn .tanh) ∧
    LanesFrom s.sfuTaken s (.fsigm c x) c (fn .sigm)) ∧
  (∀ (f : FFmt) (rm : Rm) (theta key : Nat) (neg sig : Bool) (n d : Nat), 0 < n → 0 < d →
    let fn (g : SFun) (x : XVal) : Nat × Word := f.sfun g x rm theta key
    let exact (neg : Bool) (n d : Nat) : Nat × Word := f.round (.num neg n d) rm theta
    let zero (neg : Bool) : XVal := .num neg 0 1
    let at0 (neg : Bool) : Nat × Word := (f.signed neg 0, 0)
    let infty (neg : Bool) (st : Word) : Nat × Word := (f.signed neg f.infPat, st)
    let invalid : Nat × Word := (f.nanPat, stINV)
    (∀ g, fn g (.nan sig) = (f.nanPat, if sig then stINV else 0)) ∧
    fn .rcp (zero neg) = infty neg stDZE ∧ fn .rcp (.inf neg) = at0 neg ∧ fn .rcp (.num neg n d) = exact neg d n ∧
    fn .rsq (zero neg) = infty neg stDZE ∧ fn .rsq (.inf false) = at0 false ∧ fn .rsq (.inf true) = invalid ∧
    fn .rsq (.num true n d) = invalid ∧
    fn .sqrt (zero neg) = at0 neg ∧ fn .sqrt (.inf false) = infty false 0 ∧ fn .sqrt (.inf true) = invalid ∧
    fn .sqrt (.num true n d) = invalid ∧
    fn .exp2 (.inf true) = at0 false ∧ fn .exp2 (.inf false) = infty false 0 ∧ fn .exp2 (zero neg) = exact false 1 1 ∧
    (n ≤ 800 → fn .exp2 (.num false n 1) = exact false (2 ^ n) 1 ∧ fn .exp2 (.num true n 1) = exact false 1 (2 ^ n)) ∧
    fn .log2 (zero neg) = infty true stDZE ∧ fn .log2 (.inf false) = infty false 0 ∧ fn .log2 (.inf true) = invalid ∧
    fn .log2 (.num true n d) = invalid ∧ fn .log2 (.num false 1 1) = at0 false ∧
    fn .sin (.inf neg) = invalid ∧ fn .sin (zero neg) = at0 neg ∧ fn .cos (.inf neg) = invalid ∧ fn .cos (zero neg) = exact false 1 1 ∧
    fn .tanh (.inf neg) = exact neg 1 1 ∧ fn .tanh (zero neg) = at0 neg ∧
    fn .sigm (.inf false) = exact false 1 1 ∧ fn .sigm (.inf true) = at0 false ∧ fn .sigm (zero neg) = exact false 1 2) ∧
  (∀ (s : State) (c : Ctl) (x : FCvt), Lanes s (.fcvt c x) c fun t t' =>
    let tag := (t.reg x.a).tag
    let source (f : CvtFmt) : Prop := match x.sf with
      | some g => f = g ∧ (tag = tagRAW ∨ tag = cvtTag g)
      | none => (tag = tagRAW ∧ f = .f32) ∨ (tag = cvtTag f ∧ cvtUnsigned f ≠ some true ∧ f ≠ .s64)
    ((∀ f, ¬ source f) → TrapsWith s c cTagMismatch t t') ∧
    ∀ sf, source sf →
      let ns := cvtCount sf
      let nd := cvtCount x.df
      let k := min ns nd
      let e := x.e.toNat
      let bound := if x.cb then t.val x.b else 0
      let badBound : Prop := x.cb = true ∧ boundOk bound (fmtOf (cvtTag x.df)).maxFrac = false
      let element (j : Nat) : Nat × Word :=
        let p := (elems (cvtWidth sf) ns (t.opnd (cvtWidth sf == 64) x.a)).getD ((if nd < ns then e * k else 0) + j) 0
        let v : XVal := match cvtUnsigned sf with
          | some u => .ofInt (asInt u (cvtWidth sf) p)
          | none => (fmtOf (cvtTag sf)).decode p
        let th := thetaAt (t.optVal x.c) ((if ns < nd then e * k else 0) + j)
        match x.df, cvtUnsigned x.df with
        | .e4m3, _ => fmtE4M3.narrowTo v x.rm th bound
        | .e5m2, _ => fmtE5M2.narrowTo v x.rm th bound
        | _, none => (fmtOf (cvtTag x.df)).round v x.rm th
        | _, some u =>
          let lo : Int := if u then 0 else -2 ^ (cvtWidth x.df - 1)
          let hi : Int := if u then 2 ^ cvtWidth x.df - 1 else 2 ^ (cvtWidth x.df - 1) - 1
          let r := roundToInt v lo hi x.rm th
          (toBits (cvtWidth x.df) r.1, r.2)
      let first := if ns < nd then e * k else 0
      let old := elems (cvtWidth x.df) nd (t.opnd (cvtWidth x.df == 64) x.d)
      (max ns nd / k ≤ e → TrapsWith s c cIllegalModifier t t') ∧
      (e < max ns nd / k → badBound → TrapsWith s c cParamInvalid t t') ∧
      (e < max ns nd / k → ¬ badBound → Completes s c 4 (wrw (cvtWidth x.df == 64) x.d (packElems (cvtWidth x.df) ((List.range nd).map fun i =>
          if first ≤ i ∧ i < first + k then (element (i - first)).1 else old.getD i 0)) (cvtTag x.df)) []
        ((List.range k).foldl (fun st j => st ||| (element j).2) 0) t t')) ∧
  (∀ (s : State) (c : Ctl) (x : BfpPack), Lanes s (.bfppack c x) c fun t t' =>
    let m := x.m.val + 2
    match resolveTags tagF32 okFloat [(t.reg x.a).tag] with
    | .error _ => TrapsWith s c cTagMismatch t t'
    | .ok tag =>
      let w := elemWidth tag false
      let per := 32 / w
      (t.v.length < x.a.toNat + 32 / per → TrapsWith s c cIllegalOperand t t') ∧
      (x.a.toNat + 32 / per ≤ t.v.length → boundOk (t.val x.b) (bfpMax m) = false → TrapsWith s c cParamInvalid t t') ∧
      (x.a.toNat + 32 / per ≤ t.v.length → boundOk (t.val x.b) (bfpMax m) = true →
        let r := bfpEncode ((List.range 32).map fun i =>
          ((fmtOf tag).decode ((t.v.getD (x.a.toNat + i / per) VReg.zero).val.toNat / 2 ^ (w * (i % per)) % 2 ^ w), thetaAt (t.optVal x.c) i))
          m x.rm (t.val x.b)
        ∃ regs, Completes s c 16 regs [] r.2.2 t t' ∧ RunOf regs x.d ((32 + bfpPer m - 1) / bfpPer m) m (BitVec.ofNat 8 (0x20 + m))
          (BitVec.ofNat 8 r.1) fun i => if i < 32 then toBits m (r.2.1.getD i 0) else 0)) ∧
  (∀ (s : State) (c : Ctl) (x : BfpUnpk), Lanes s (.bfpunpk c x) c fun t t' =>
    let a := t.reg x.a
    let m := a.tag.toNat - 0x20
    let value (i : Nat) : Nat × Word :=
      (fmtOf (f3Tag x.df)).round (bfpValue (signExt m ((t.v.getD (x.a.toNat + i / bfpPer m) VReg.zero).val.toNat / 2 ^ (m * (i % bfpPer m))))
        a.scale.toNat m) x.rm (thetaAt (t.optVal x.c) i)
    (tagIsBfp a.tag = false → TrapsWith s c cTagMismatch t t') ∧
    (tagIsBfp a.tag = true → t.v.length < x.a.toNat + (32 + bfpPer m - 1) / bfpPer m → TrapsWith s c cIllegalOperand t t') ∧
    (tagIsBfp a.tag = true → x.a.toNat + (32 + bfpPer m - 1) / bfpPer m ≤ t.v.length →
      ∃ regs, Completes s c 12 regs [] ((List.range 32).foldl (fun st i => st ||| (value i).2) 0) t t' ∧
        RunOf regs x.d (elemWidth (f3Tag x.df) false) (elemWidth (f3Tag x.df) false) (f3Tag x.df) 0
          fun i => (value i).1 % 2 ^ elemWidth (f3Tag x.df) false)) ∧
  (∀ (s : State) (c : Ctl) (x : Un) (compress : Bool),
    Lanes s (if compress then .compress c x else .expand c x) c fun t t' =>
      match resolveTags tagF32 okSparse [(t.reg x.a).tag] with
      | .error _ => TrapsWith s c cTagMismatch t t'
      | .ok tag =>
        let w := elemWidth tag false
        let groups := if w = 8 then 2 else 1
        let ns := (if compress then 4 else 2) * groups * w / 32
        let nd := (if compress then 2 else 4) * groups * w / 32
        let el (i : Nat) : Nat := t.wide x.a ns / 2 ^ (w * i) % 2 ^ w
        let shaped := t.shapeOk x.a ns = true ∧ t.shapeOk x.d nd = true
        (¬ shaped → TrapsWith s c cIllegalOperand t t') ∧
        (shaped → ∃ regs, Completes s c 4 regs [] 0 t t' ∧
          (compress = true →
            let kept (g : Nat) : Nat × Nat := sparseKeep ((List.range 4).map fun i => sparseRank tag (el (4 * g + i)))
            RunOf regs x.d nd w tag (BitVec.ofNat 8 ((kept 0).1 + 4 * (kept 0).2 + if groups = 2 then 16 * (kept 1).1 + 64 * (kept 1).2 else 0))
              fun i => el (4 * (i / 2) + if i % 2 = 0 then (kept (i / 2)).1 else (kept (i / 2)).2)) ∧
          (compress = false →
            let sc := (t.reg x.a).scale.toNat
            RunOf regs x.d nd w tag 0 fun i =>
              if i % 4 = sc / 2 ^ (4 * (i / 4) + 2) % 4 then el (2 * (i / 4) + 1)
              else if i % 4 = sc / 2 ^ (4 * (i / 4)) % 4 then el (2 * (i / 4)) else 0))) ∧
  (∀ ranks : List Nat, ranks.length = 4 →
    let k := sparseKeep ranks
    let first (i j : Nat) : Prop := ranks.getD j 0 < ranks.getD i 0 ∨ (ranks.getD j 0 = ranks.getD i 0 ∧ i < j)
    k.1 < k.2 ∧ k.2 < 4 ∧ ∀ j < 4, j ≠ k.1 → j ≠ k.2 → first k.1 j ∧ first k.2 j)

/-! Control. -/

/-- R80 to R83, R29: NOP only advances; BRA, BRX, CALL and RET go to their target or trap with BAD_TARGET, and CALL writes the
return address, tag RAW; a guarded-off thread falls through. YIELD also marks the thread. TRAP stops it with its code.
R82: EXIT ends the threads whose guard is true; with no queue lock in use and no
barrier object awaiting an arrival of its workgroup, no byte of memory changes. -/
def Obligations.ControlTransfers : Prop :=
  (∀ (s : State) (c : Ctl),
    let next (t : Thread) : DWord := t.pc + BitVec.ofNat 64 c.len.bytes
    Lanes s (.nop c) c (fun t t' => t' = t.past s.clock (next t)) ∧
    (∀ off : Word, Lanes s (.bra c off) c fun t => Branches s c (t.pc + off.signExtend 64) t) ∧
    (∀ a : Reg, Lanes s (.brx c a) c (fun t => Branches s c (t.pair a) t) ∧ Lanes s (.ret c a) c (fun t => Branches s c (t.pair a) t)) ∧
    (∀ (d : Reg) (off : Word), Lanes s (.call c d off) c fun t t' =>
      (s.targetOk t.ctx (t.pc + off.signExtend 64) = true →
        t' = (t.past s.clock (t.pc + off.signExtend 64)).withResult s.clock 2 c.setf (wr2 d (next t) tagRAW) []) ∧
      (s.targetOk t.ctx (t.pc + off.signExtend 64) = false → TrapsWith s c cBadTarget t t')) ∧
    (∀ code : Byte, Lanes s (.trap c code) c fun t => TrapsWith s c (cSoftware code) t)) ∧
  (∀ (s : State) (c : Ctl),
    ∃ s', exec (.exit c) s = .next s' ∧ s'.issue = none ∧ (s.locks = [] → (∀ g ∈ s.wgs, g.party = []) → s'.mem = s.mem) ∧
      ∀ t' ∈ s'.threads, (s.onUids c).contains t'.uid = true → t'.status = .exited ∧ t'.pend = [])

/-- R83, R85, R270: YIELD marks its threads; SLEEP n holds them n ac from the issue, and in a deterministic kernel acts as
YIELD.
R83, R271: a FUSE reached by one thread alone holds it HOLD ac, 64 when HOLD is 0, and the thread stays at the
instruction; two threads that issue it together pass, as in a deterministic kernel. -/
def Obligations.ThreadsPause : Prop :=
  (∀ (s : State) (c : Ctl),
    (∃ s', exec (.yield c) s = .next s' ∧ s' = { s with threads := s'.threads, issue := none } ∧
      ∀ (k : Nat) (t t' : Thread), s.threads[k]? = some t → s'.threads[k]? = some t' →
        ((s.onUids c).contains t.uid = false → s.inGroup t = false → t' = t) ∧
        ((s.onUids c).contains t.uid = true → t.guard c = true →
          t' = { t.past s.clock (t.pc + BitVec.ofNat 64 c.len.bytes) with yielded := true, gave := true })) ∧
    (∀ n : BitVec 24, ∃ s', exec (.sleep c n) s = .next s' ∧ s' = { s with threads := s'.threads, issue := none } ∧
      ∀ (k : Nat) (t t' : Thread), s.threads[k]? = some t → s'.threads[k]? = some t' →
        ((s.onUids c).contains t.uid = false → s.inGroup t = false → t' = t) ∧
        ((s.onUids c).contains t.uid = true → t.guard c = true → s.isDet t = false → n ≠ 0 →
          t' = { t.past s.clock (t.pc + BitVec.ofNat 64 c.len.bytes) with hold := .asleep (s.clock + n.toNat * Config.ac) }) ∧
        ((s.onUids c).contains t.uid = true → t.guard c = true → s.isDet t = false → n = 0 →
          t' = t.past s.clock (t.pc + BitVec.ofNat 64 c.len.bytes)) ∧
        ((s.onUids c).contains t.uid = true → t.guard c = true → s.isDet t = true →
          t' = { t.past s.clock (t.pc + BitVec.ofNat 64 c.len.bytes) with yielded := true, gave := true }))) ∧
  (∀ (s : State) (c : Ctl) (hold : Byte) (u : Nat) (t : Thread),
    (s.onUids c).head? = some u → s.thread? u = some t →
    (s.isDet t = false → s.fuseMates t = [] → s.onUids c = [u] →
      ∃ s', exec (.fuse c hold) s = .next s' ∧ s'.mem = s.mem ∧ s'.issue = none ∧
        s'.thread? u = some { t with hold := .fuse (s.clock + (if hold = 0 then 64 else hold.toNat) * Config.ac), setf := c.setf
                                     ilen := c.len.bytes }) ∧
    (s.isDet t = true → Lanes s (.fuse c hold) c fun t t' => t' = t.past s.clock (t.pc + BitVec.ofNat 64 c.len.bytes)) ∧
    (s.fuseMates t = [] → 1 < (s.onUids c).length →
      Lanes s (.fuse c hold) c fun t t' => t' = t.past s.clock (t.pc + BitVec.ofNat 64 c.len.bytes)))

/-- R84: a WAITF whose flags all read as set passes; otherwise its thread is held at it. WAITF.MEM also waits until no store,
reduction, PFLUSH or engine command that the thread issued with SETF 15 is outstanding.
R83, R85, R265: SLEEP_EXPIRE and FUSE_HOLD_EXPIRE free a held thread whose time has come and whose workgroup runs; a fused
thread then moves past its FUSE. HELD_THREAD_WAKE does so for a WAITF whose flags read as set. -/
def Obligations.WaitsEnd : Prop :=
  (∀ (s : State) (c : Ctl) (u : Nat) (t : Thread),
    s.issueUids = [u] → s.thread? u = some t → t.guard c = true →
    ∃ s', exec (.waitf c false) s = .next s' ∧ s'.mem = s.mem ∧ s'.issue = none ∧
      s'.thread? u = some (if (List.range 12).all t.flagSet then t.past s.clock (t.pc + BitVec.ofNat 64 c.len.bytes)
        else { t with hold := .waitf false, setf := c.setf, ilen := c.len.bytes })) ∧
  (∀ (s : State) (c : Ctl) (u : Nat) (t : Thread),
    s.issueUids = [u] → s.thread? u = some t → t.guard c = true →
    let quiet : Bool := (s.flushOwn t).memQuiet u
    ∃ s', exec (.waitf c true) s = .next s' ∧ s'.mem = s.mem ∧ s'.issue = none ∧
      s'.thread? u = some (if (List.range 12).all t.flagSet && quiet then t.past s.clock (t.pc + BitVec.ofNat 64 c.len.bytes)
        else { t with hold := .waitf true, setf := c.setf, ilen := c.len.bytes })) ∧
  (∀ (s : State) (u : Nat), s.memQuiet u = true →
    (∀ a ∈ s.inflight, a.uids.contains u = true → a.setf = 15 → ∀ bs, a.op ≠ .store bs) ∧
    (∀ c ∈ s.cmds, c.uid = u → c.setf ≠ 15)) ∧
  (∀ (s : State) (u til : Nat) (t : Thread),
    s.thread? u = some t → s.runs t = true → til ≤ s.clock →
    (t.hold = .asleep til → ∃ s', exec (.sleepExpire u) s = .next s' ∧ s'.thread? u = some { t with hold := .free } ∧ s'.mem = s.mem) ∧
    (t.hold = .fuse til → ∃ s', exec (.fuseHoldExpire u) s = .next s' ∧ s'.mem = s.mem ∧
      s'.thread? u = some (t.past s.clock (t.pc + BitVec.ofNat 64 t.ilen))) ∧
    (t.hold = .waitf false → (List.range 12).all t.flagSet → ∃ s', exec (.heldThreadWake u) s = .next s' ∧ s'.mem = s.mem ∧
      s'.thread? u = some (t.past s.clock (t.pc + BitVec.ofNat 64 t.ilen))) ∧
    (t.hold = .waitf true → (List.range 12).all t.flagSet → s.memQuiet u = true →
      ∃ s', exec (.heldThreadWake u) s = .next s' ∧ s'.mem = s.mem ∧
        s'.thread? u = some (t.past s.clock (t.pc + BitVec.ofNat 64 t.ilen))))

/-! Wave collectives. -/

/-- R106, R207: a group that reaches a wave-collective instruction arrives and is held there, until the wave issues it once.
R106: when every live thread of a wave stands at one collective instruction, it issues once for the wave, in lane order; one with a
command for the matrix queue lets the lower quadrants enter first (R134), and threads at different instructions trap.
R137, R144: 20 ac after the last member of a convergence register has arrived, all at one instruction, its collective issues for
them, when the queue has room for its pass; members at different instructions trap, and the register is complete no more. -/
def Obligations.CollectivesIssueOnce : Prop :=
  (∀ (s : State) (c : Ctl),
    (∀ x : VRed, Arrives s (.vred c x) c ∧ Arrives s (.vscan c x) c) ∧
    (∀ x : VSh, Arrives s (.vshfl c x) c ∧ Arrives s (.vbcast c x) c) ∧
    (∀ x : DNorm, Arrives s (.dnorm c x) c) ∧ (∀ x : DUnpk, Arrives s (.dunpk c x) c) ∧
    (∀ x : DBin, Arrives s (.ddot c x) c ∧ Arrives s (.dadd c x) c ∧ Arrives s (.dsub c x) c ∧ Arrives s (.drej c x) c) ∧
    (∀ x : DDotR, Arrives s (.ddotr c x) c) ∧ (∀ x : DScl, Arrives s (.dscl c x) c) ∧ (∀ x : DLerp, Arrives s (.dlerp c x) c) ∧
    (∀ x : Un, Arrives s (.dmov c x) c ∧ Arrives s (.dtest c x) c) ∧ (∀ d : Reg, Arrives s (.dzero c d) c) ∧
    (∀ x : NMov, Arrives s (.nmov c x) c) ∧ (∀ x : DMem, Arrives s (.dld c x) c ∧ Arrives s (.dst c x) c) ∧
    (∀ a b : Reg, Arrives s (.yacq c a b) c ∧ Arrives s (.yrel c a b) c ∧ Arrives s (.yhint c a b) c) ∧
    (∀ d p : Reg, Arrives s (.fetchw c d p) c)) ∧
  (∀ (s : State) (wid : Nat) (t : Thread) (ts : List Thread),
    s.issue = none → s.liveOf wid = t :: ts → (∀ x ∈ s.liveOf wid, x.status = .live ∧ x.hold = .collective ∧ s.runs x = true) →
    let g : Issue := { core := t.loc.core, quad := t.loc.quad, pc := t.pc, uids := (s.liveOf wid).map (·.uid), kind := .wave }
    ((∀ x ∈ ts, x.pc = t.pc) →
      (s.waveQueues wid = true → s.matRoom t.loc.core = true ∧ s.lowerQueues t.loc.core t.loc.quad = false) →
      exec (.waveCollectiveIssue wid) s = .next { s with issue := some g }) ∧
    ((∃ x ∈ ts, x.pc ≠ t.pc) → ∃ s', exec (.waveCollectiveIssue wid) s = .next s' ∧
      ∀ x ∈ s'.threads, (s.liveOf wid).any (·.uid == x.uid) = true → ∃ r, x.status = .stopped r false ∧ r.cause = cCollMismatch.cause)) ∧
  (∀ (s : State) (core k : Nat) (r : KReg) (t : Thread) (ts : List Thread),
    (s.core core).k[k]? = some r → r.complete = true → r.since + 20 * Config.ac ≤ s.clock → s.issue = none →
    sortBy (fun t => t.loc.quad * 64 + t.loc.lane) (r.arrived.filterMap s.thread?) = t :: ts → (∀ u ∈ t :: ts, s.runs u = true) →
    let g : Issue := { core := core, quad := t.loc.quad, pc := t.pc, uids := (t :: ts).map (·.uid), kind := .converge k }
    ((∀ u ∈ ts, u.pc = t.pc) → (∀ q, s.kQueues core k = some q → s.matRoom core = true ∧ s.lowerQueues core q = false) →
      exec (.convergenceComplete core k) s = .next { s with issue := some g }) ∧
    ((∃ u ∈ ts, u.pc ≠ t.pc) → ∃ s', exec (.convergenceComplete core k) s = .next s' ∧ s'.mem = s.mem ∧
      ((s'.core core).k.getD k r).arrived = [] ∧
      ∀ x ∈ s'.threads, (t :: ts).any (·.uid == x.uid) = true → ∃ c, x.status = .stopped c false ∧ c.cause = cCollMismatch.cause))

/-- R107, R108: VRED gives every participant the reduction over them, VSCAN each its prefix (without itself under EXCL), 12 ac
after the issue or 16 with EXACT; tags that do not resolve trap every participant.
The sticky bits of every thread of the wave are the union over the participants' elements.
R109: VSHFL reads the participant its mode names, VBCAST the lane the scalar lane's vb names, both 8 ac; a lane that is no
participant leaves a thread its own value. Which of several enabled conditions a data trap names is the model's choice (log 11,
DEDUCED). -/
def Obligations.WaveReductionsAndShuffles : Prop :=
  (∀ (s : State) (c : Ctl) (x : VRed), s.waveIssue →
    ∀ ps, participants c s.group = ps → ps ≠ [] →
    let lat := if x.exact then 16 else 12
    (match vredTag x false (ps.map fun t => (t.reg x.a).tag) with
     | .error e => WaveFrom s s (.vred c x) c 0 (TrapsWith s c e)
     | .ok tag =>
       let r := vredValue x tag ps
       WaveFrom s s (.vred c x) c r.2.2 (Completes s c lat (wrw x.w64 x.d r.1 r.2.1) [] r.2.2)) ∧
    (match vredTag x true (ps.map fun t => (t.reg x.a).tag) with
     | .error e => WaveFrom s s (.vscan c x) c 0 (TrapsWith s c e)
     | .ok tag =>
       let es (i : Nat) : List (Nat × Word) := (List.range (elemCount tag x.w64)).map fun k =>
         vscanElem x tag (elemWidth tag x.w64) ((ps.take (if x.excl then i else i + 1)).map fun p => (p.elemsOf x.w64 x.a tag).getD k 0)
       let st : Word := (List.range ps.length).foldl (fun st i => (es i).foldl (fun st e => st ||| e.2) st) 0
       WaveFrom s s (.vscan c x) c st fun t =>
         Completes s c lat (elemsTo x.d x.w64 tag ((es (ps.findIdx (·.uid == t.uid))).map (·.1))) [] st t)) ∧
  (∀ (s : State) (c : Ctl) (x : VSh), s.waveIssue →
    let ps := participants c s.group
    let take (lane : Int) (t : Thread) : Thread → Prop :=
      let p := (ps.find? fun p => (p.loc.lane : Int) = lane).getD t
      Completes s c 8 (wrw x.w64 x.d (p.opnd x.w64 x.a) (p.reg x.a).tag (p.reg x.a).scale) [] 0 t
    WaveFrom s s (.vshfl c x) c 0 (fun t => take (match x.mode with
      | .idx => (t.srcWord x.b).toNat
      | .up => (t.loc.lane : Int) - (t.srcWord x.b).toNat
      | .down => (t.loc.lane : Int) + (t.srcWord x.b).toNat
      | .xor => ((t.loc.lane ^^^ (t.srcWord x.b).toNat : Nat) : Int)) t) ∧
    (∀ l, scalarLane c s.group = some l → WaveFrom s s (.vbcast c x) c 0 (take (l.srcWord x.b).toNat)))

/-! Directional registers. -/

/-- R119 to R129: the instructions that write a directional register, with the latencies of its components and its norm. DNORM
renormalises the participants' values, DSCL adds to the norm, DADD and DSUB add at the larger norm, DLERP interpolates, DREJ removes
the component along db; DMOV copies, DZERO writes the zero vector, NMOV.W a norm from the scalar lane.
R122 to R124, R129: the instructions that read directional registers give every participant a register or predicate, and every thread
of the wave the union of the sticky bits.
R119: a renormalised direction that is not zero has 256 components, each the nearest integer to y times 2^14 over the root of the sum of
squares S, ties to even, and the norm of the saturated sum; a zero one is the zero-vector code.
Which of several enabled conditions a data trap names is the model's choice (log 11, DEDUCED). -/
def Obligations.DirectionalRegisters : Prop :=
  (∀ (s : State) (c : Ctl),
    let zero (st : Word) : DirOut := { comps := some (List.replicate 256 0), norm := some 0x80000000, sticky := st }
    let noughts : List Int := List.replicate 256 0
    (∀ x : DNorm, DirWrites s (.dnorm c x) c 24 26 x.d fun _ ps =>
      let tag := f3Tag x.sf
      let value (j : Nat) : XVal :=
        match ps.find? (·.loc.lane == j / 4) with
        | none => .num false 0 1
        | some t =>
          let r (k : Nat) : Nat := if x.a = 255 then 0 else (t.v.getD (x.a.toNat + k) VReg.zero).val.toNat
          if x.sf = .f32 then fmtF32.decode (r (j % 4)) else (fmtOf tag).decode (r (j % 4 / 2) / 2 ^ (16 * (j % 2)) % 2 ^ 16)
      let xs := (List.range 256).map value
      if ps.any fun t => (t.reg x.a).tag != tagRAW && (t.reg x.a).tag != tag then .error cTagMismatch
      else if xs.any fun v => match v with | .num .. => false | _ => true then .ok (zero stINV)
      else .ok (renorm (xs.map XVal.units) (-149) 0 0)) ∧
    (∀ x : DScl, DirWrites s (.dscl c x) c 4 6 x.d fun w ps =>
      (scalarOf ps x.s (fun v => v.toInt) fun v => v.toInt * 2 ^ 11).map fun delta =>
        if w.isZero x.a then zero stZDIR
        else
          let r := satNorm ((w.norm x.a).toInt + delta)
          { comps := some (w.d.getD x.a.toNat []), norm := some r.1, sticky := r.2 }) ∧
    (∀ (x : DBin) (sub : Bool), DirWrites s (if sub then .dsub c x else .dadd c x) c 28 30 x.d fun w _ =>
      let za := w.isZero x.a
      let zb := w.isZero x.b
      let a := if za then noughts else w.dComps x.a
      let b := (if zb then noughts else w.dComps x.b).map fun v => if sub then -v else v
      let na := (w.norm x.a).toInt
      let nb := (w.norm x.b).toInt
      let st : Word := if za || zb then stZDIR else 0
      let sum (big small : List Int) (nbig nsm : Int) (gone : Bool) : DirOut :=
        let rho : Int := if gone then 0 else ((rhoUnits (nbig - nsm).toNat).getD (Config.freeResult (nbig - nsm).toNat).toNat : Nat)
        let o := renorm (List.zipWith (fun p q => p * 2 ^ 16 + rho * q) big small) 0 nbig 30
        { o with sticky := o.sticky ||| st }
      .ok (if za && zb then zero st
        else if (decide (na < nb) || za) && !zb then sum b a nb na za else sum a b na nb zb)) ∧
    (∀ x : DBin, DirWrites s (.drej c x) c 32 34 x.d fun w _ =>
      let d := (List.zipWith (· * ·) (w.dComps x.a) (w.dComps x.b)).foldl (· + ·) 0
      .ok (if w.isZero x.b then { comps := some (w.d.getD x.a.toNat []), norm := some (w.norm x.a), sticky := stZDIR }
        else if w.isZero x.a then zero stZDIR
        else renorm (List.zipWith (fun p q => p * 2 ^ 28 - d * q) (w.dComps x.a) (w.dComps x.b)) 0 (w.norm x.a).toInt 42)) ∧
    (∀ x : DLerp, DirWrites s (.dlerp c x) c 28 30 x.d fun w ps =>
      (scalarOf ps x.s (fun v => (min v.toNat 65536 : Nat)) fun v => (v.toNat : Nat)).map fun wt =>
        let ys := List.zipWith (fun p q => (65536 - wt) * p + wt * q) (w.dComps x.a) (w.dComps x.b)
        let na := (w.norm x.a).toInt
        let step := ((w.norm x.b).toInt - na) * wt
        if w.isZero x.a || w.isZero x.b then zero stZDIR
        else if ys.all (· == 0) then zero 0
        else { renorm ys 0 0 0 with
          norm := some (BitVec.ofInt 32 (na + (roundInt (decide (step < 0)) step.natAbs 65536 .rne 0).1)), sticky := 0 }) ∧
    (∀ x : Un, DirWrites s (.dmov c x) c 4 6 x.d fun w _ =>
      .ok { comps := some (w.d.getD x.a.toNat []), norm := some (w.norm x.a) }) ∧
    (∀ d : Reg, DirWrites s (.dzero c d) c 2 4 d fun _ _ => .ok (zero 0)) ∧
    (∀ x : NMov, x.w = true → DirWrites s (.nmov c x) c 4 4 x.d fun _ ps =>
      (scalarOf ps (.reg (some x.a)) (fun v => v.toInt) fun _ => 0).map fun v => { norm := some (BitVec.ofInt 32 v) })) ∧
  (∀ (s : State) (c : Ctl),
    let dot (w : Wave) (a b : Reg) : Int := (List.zipWith (· * ·) (w.dComps a) (w.dComps b)).foldl (· + ·) 0
    let dotVal (w : Wave) (a b : Reg) : XVal := .num (decide (dot w a b < 0)) (dot w a b).natAbs (2 ^ 28)
    let scalar (ps : List Thread) (r : Option Reg) : Word := (ps.head?.map fun t => t.optVal r).getD 0
    (∀ x : DUnpk, s.waveIssue → ∀ (t0 : Thread) (w : Wave) (ps : List Thread), s.group.head? = some t0 → s.waveOf t0 = some w →
      participants c s.group = ps → ps ≠ [] →
      let tag := f3Tag x.df
      let f := fmtOf tag
      let bits := elemWidth tag false
      let value (t : Thread) (j : Nat) : Nat × Word :=
        let q := (w.dComps x.a).getD (4 * t.loc.lane + j) 0
        let e : XVal := .num (decide (q < 0)) q.natAbs (2 ^ 14)
        let th := thetaAt (scalar ps x.c) j
        if w.isZero x.a then (0, stZDIR)
        else if x.n then f.roundPow (w.norm x.a).toInt e x.rm th (q.natAbs + (w.norm x.a).toNat) else f.round e x.rm th
      let all : Word := ps.foldl (fun st t => (List.range 4).foldl (fun st j => st ||| (value t j).2) st) 0
      WaveFrom s s (.dunpk c x) c all fun t t' =>
        ∃ regs, Completes s c (if x.n then 14 else 6) regs [] all t t' ∧
          RunOf regs x.d (4 * bits / 32) bits tag 0 fun j => (value t j).1 % 2 ^ bits) ∧
    (∀ x : DBin, DirReads s (.ddot c x) c 10 fun w _ _ =>
      let r : Nat × Word := if w.isZero x.a || w.isZero x.b then (0, stZDIR) else fmtF32.round (dotVal w x.a x.b) .rne 0
      ({ regs := wr1 x.d (BitVec.ofNat 32 r.1) tagF32, sticky := r.2 }, r.2)) ∧
    (∀ x : DDotR, DirReads s (.ddotr c x) c 14 fun w ps _ =>
      let k := (w.norm x.a).toInt + (w.norm x.b).toInt
      let r : Nat × Word := if w.isZero x.a || w.isZero x.b then (0, stZDIR)
        else fmtF32.roundPow k (dotVal w x.a x.b) x.rm (thetaAt (scalar ps x.c) 0) ((dot w x.a x.b).natAbs + k.natAbs)
      ({ regs := wr1 x.d (BitVec.ofNat 32 r.1) tagF32, sticky := r.2 }, r.2)) ∧
    (∀ x : Un, DirReads s (.dtest c x) c 4 fun w _ _ => ({ preds := [(x.d.toNat, w.isZero x.a)] }, 0)) ∧
    (∀ x : NMov, x.w = false → DirReads s (.nmov c x) c 4 fun w _ _ => ({ regs := wr1 x.d (w.norm x.a) tagINT }, 0))) ∧
  (∀ v : Int, satNorm v = if 2 ^ 31 - 1 < v then (0x7FFFFFFF, stNRANGE) else if v < -(2 ^ 31 - 1) then (0x80000001, stNRANGE)
    else (BitVec.ofInt 32 v, 0)) ∧
  (∀ (f : FFmt) (i : Int) (neg : Bool) (n d theta key : Nat) (rm : Rm), 0 < n →
    f.roundPow (i * 2 ^ 23) (.num neg n d) rm theta key = f.round ((XVal.num neg n d).shift i) rm theta) ∧
  (∀ i : Nat, log2Units (2 ^ i) 1 = some ((i : Int) * 2 ^ 22) ∧ (i ≤ 16 → rhoUnits (i * 2 ^ 23) = some (2 ^ (16 - i)))) ∧
  (∀ (ys : List Int) (unit base k : Int), ys.length = 256 →
    let sum : Nat := ys.foldl (fun a y => a + y.natAbs * y.natAbs) 0
    ((∀ y ∈ ys, y = 0) → renorm ys unit base k = { comps := some (List.replicate 256 0), norm := some 0x80000000 }) ∧
    ((∃ y ∈ ys, y ≠ 0) → ∃ cs, (renorm ys unit base k).comps = some cs ∧ cs.length = 256 ∧
      (∀ l, log2Units sum 1 = some l →
        let r := satNorm (base + l + 2 * unit * 2 ^ 22 - k * 2 ^ 23)
        (renorm ys unit base k).norm = some r.1 ∧ (renorm ys unit base k).sticky = r.2) ∧
      ∀ i, i < 256 →
        let y := ys.getD i 0
        let m := (cs.getD i 0).toInt.natAbs
        let a := (y.natAbs * 2 ^ 15) * (y.natAbs * 2 ^ 15)
        m ≤ 2 ^ 14 ∧ 0 ≤ (cs.getD i 0).toInt * y ∧ a ≤ (2 * m + 1) * (2 * m + 1) * sum ∧
        (m ≠ 0 → (2 * m - 1) * (2 * m - 1) * sum ≤ a) ∧
        (a = (2 * m + 1) * (2 * m + 1) * sum ∨ (m ≠ 0 ∧ a = (2 * m - 1) * (2 * m - 1) * sum) → m % 2 = 0)))

/-! Memory. -/

/-- R158: an address that is not canonical traps with BAD_ADDRESS, one that is not a multiple of the access size with MEM_ALIGN;
no byte of memory changes. That the form comes before the alignment, and the alignment before every later check, is log 131.
R165 to R168: PREF changes no register and no memory; FENCE, PBAR and PFLUSH issue an access of their own, whose SETF
falls when it performs. -/
def Obligations.AddressTrapsAndFences : Prop :=
  (∀ (s : State) (c : Ctl) (t : Thread), s.solo c t →
    (∀ x : Ld, let va := t.pair x.a + x.off.signExtend 64
      (canonical va = false → Becomes s (.ld c x) t (t.stoppedBy s cBadAddress c.len.bytes)) ∧
      (canonical va = true → va.toNat % szBytes x.sz ≠ 0 → Becomes s (.ld c x) t (t.stoppedBy s cMemAlign c.len.bytes))) ∧
    (∀ x : St, let va := t.pair x.a + x.off.signExtend 64
      (canonical va = false → Becomes s (.st c x) t (t.stoppedBy s cBadAddress c.len.bytes)) ∧
      (canonical va = true → va.toNat % szBytes x.sz ≠ 0 → Becomes s (.st c x) t (t.stoppedBy s cMemAlign c.len.bytes)))) ∧
  (∀ (s : State) (c : Ctl) (t : Thread), s.solo c t →
    (∀ x : Pref, ∃ s', exec (.pref c x) s = .next s' ∧ s'.mem = s.mem ∧ s'.issue = none ∧
      s'.thread? t.uid = some ((t.past s.clock (t.pc + BitVec.ofNat 64 c.len.bytes)).withResult s.clock 2 c.setf [] [])) ∧
    (∀ kind scope, Sends s (.fence c kind scope) c t fun a => a.op = .fence kind) ∧
    (∀ system, Sends s (.pbar c system) c t fun a => a.op = .pbar system) ∧
    (∀ (r : Reg) (off : BitVec 16) (ps : List Part), let va := t.pair r + off.signExtend 64
      s.mapRanges (some t.loc.core) t.ctx t.priv .read [(va.toNat / 256 * 256, 1)] = .ok ps → s.foreignVault t ps = false →
      Sends s (.pflush c r off) c t fun a => a.op = .pflush (keyIn ps (va.toNat / 256 * 256) / 256)))

/-- R159, R160, R164: an LD, or an LDV whose record and operands are good, whose addresses resolve issues one load of the bytes
at their keys.
R160, R162, R164: a store none of whose bytes a deterministic kernel defers issues one store of the resolved bytes; a `.wc` one may
stay in the write-combining buffer, and no memory changes until it performs.
R209: a store all of whose bytes lie on shared lines of a deterministic kernel does not perform but adds one entry to the commit queue,
or traps with DET_VIOLATION (code 6) when the queue has no room. -/
def Obligations.LoadsAndStoresIssue : Prop :=
  (∀ (s : State) (c : Ctl) (t : Thread) (ps : List Part), s.solo c t →
    s.foreignVault t ps = false →
    (∀ x : Ld, let va := t.pair x.a + x.off.signExtend 64
      canonical va = true → va.toNat % szBytes x.sz = 0 →
      s.mapRanges (some t.loc.core) t.ctx t.priv .read [(va.toNat, szBytes x.sz)] = .ok ps →
      Sends s (.ld c x) c t fun a => a.acq = x.acq ∧
        a.op = .load (keyIn ps va.toNat) (szBytes x.sz) x.sz x.d.toNat (x.ftag.setWidth 8) x.fresh x.nt) ∧
    (∀ (x : Ldv) (r : TRec), s.recLook t (t.pair x.a) = .ok r → ldvOk x t r false = true →
      let places := (ldvCoords x t).map r.elemPlace
      let scale := if r.isBfp then some (r.scaleAddr ((ldvCoords x t).headD [])).toNat else none
      s.mapRanges (some t.loc.core) t.ctx t.priv .read
        ((places.flatMap fun p => p.1.map fun k => (k, 1)) ++ scale.toList.map fun k => (k, 1)) = .ok ps →
      Sends s (.ldv c x) c t fun a => a.op = .ldv x.r.toNat r.tag r.bits r.perReg
        (places.map fun b => (b.1.map (keyIn ps), b.2)) (scale.map (keyIn ps)) x.fresh)) ∧
  (∀ (s : State) (c : Ctl) (t : Thread) (ps : List Part) (bs : List (Nat × Byte)), s.solo c t →
    s.foreignVault t ps = false → (∀ b ∈ bs, s.deferred? t b.1 = false) → bs ≠ [] →
    (∀ x : St, let va := t.pair x.a + x.off.signExtend 64
      canonical va = true → va.toNat % szBytes x.sz = 0 → s.mapBytes t (stBytes x t) = .ok (bs, ps) →
      (x.wc = false → Sends s (.st c x) c t fun a => a.op = .store bs ∧ a.rel = x.rel) ∧
      (x.wc = true → Becomes s (.st c x) t (t.sent s.clock c))) ∧
    (∀ (x : Ldv) (r : TRec), s.recLook t (t.pair x.a) = .ok r → ldvOk x t r true = true → stvTagsOk x t r = true →
      s.mapBytes t (stvBytes x t r) = .ok (bs, ps) → Sends s (.stv c x) c t fun a => a.op = .store bs)) ∧
  (∀ (s : State) (c : Ctl) (t : Thread) (l : Launch) (ps : List Part) (bs : List (Nat × Byte)), s.solo c t →
    s.detLaunch t = some l → s.foreignVault t ps = false → (∀ b ∈ bs, s.deferred? t b.1 = true) → bs ≠ [] →
    let defers (i : Instr) : Prop :=
      (s.deferRoom t 1 = true → Defers s i c t l fun d => d.red = none ∧ d.bytes = bs) ∧
      (s.deferRoom t 1 = false → Becomes s i t (t.stoppedBy s (cDet 6) c.len.bytes))
    (∀ x : St, let va := t.pair x.a + x.off.signExtend 64
      canonical va = true → va.toNat % szBytes x.sz = 0 → s.mapBytes t (stBytes x t) = .ok (bs, ps) → defers (.st c x)) ∧
    (∀ (x : Ldv) (r : TRec), s.recLook t (t.pair x.a) = .ok r → ldvOk x t r true = true → stvTagsOk x t r = true →
      s.mapBytes t (stvBytes x t r) = .ok (bs, ps) → defers (.stv c x)))

/-- R160, R164, R130: the bytes of a load in flight, little-endian and as the thread's view holds them, reach its registers when it
performs: those of an LD, the elements of an LDV with their tag and side scale, and the components and the norm of a DLD, which
reads its home. Memory does not change, the access leaves, and its flag falls.
R160: when a store performs, its bytes stand in memory, the last one written to an address remains, and every other address
reads as before. One that meets uncorrectable vault data without writing its line whole writes nothing (log 114). That the bytes of
one access all move in one event is log 101. -/
def Obligations.LoadsAndStoresPerform : Prop :=
  (∀ (s : State) (id : Nat) (a : Access) (t : Thread), s.ready? id = some a →
    a.uids = [t.uid] → s.thread? t.uid = some t → (∀ r ∈ a.reads, s.poisoned r.1 r.2 = false) →
    let lands (got : Thread) (also : State → Prop) : Prop :=
      ∃ s', exec (.loadReturn id) s = .next s' ∧ s'.mem = s.mem ∧ (∀ b ∈ s'.inflight, b.id ≠ a.id) ∧
        s'.thread? t.uid = some (got.flagSub a.setf) ∧ also s'
    (∀ key size sz d tag fresh nt, a.op = .load key size sz d tag fresh nt → a.also = [] → t.status ≠ .exited →
      let value := natOfBytes ((List.range size).map fun i => s.viewByte t (fresh || a.acq) (key + i))
      lands { t with v := writeRegs t.v (loadRegs sz (BitVec.ofNat 8 d) value tag) } fun _ => True) ∧
    (∀ d tag bits perReg places scale fresh, a.op = .ldv d tag bits perReg places scale fresh → a.also = [] → t.status ≠ .exited →
      0 < perReg → perReg * bits ≤ 32 →
      let byte (k : Nat) : Byte := s.viewByte t fresh k
      let elem (i : Nat) : Nat := ((places[i]?).map fun p => natOfBytes (p.1.map byte) / 2 ^ p.2 % 2 ^ bits).getD 0
      ∃ regs : List (Nat × VReg), lands { t with v := writeRegs t.v regs } (fun _ => True) ∧ (d = 255 → regs = []) ∧
        (d ≠ 255 → regs.length = (places.length + perReg - 1) / perReg ∧
          ∀ j, j < regs.length → ∃ v : VReg, regs[j]? = some (d + j, v) ∧ v.tag = tag ∧ v.scale = (scale.map byte).getD 0 ∧
            ∀ i, i < perReg → v.val.toNat / 2 ^ (bits * i) % 2 ^ bits = elem (perReg * j + i))) ∧
    (∀ reg wid seq w, a.op = .dld reg wid seq → s.wave? wid = some w → w.dlast.getD reg 0 ≤ seq → w.nlast.getD reg 0 ≤ seq →
      let bs := a.reads.flatMap fun r => (List.range r.2).map fun i => s.viewByte t true (r.1 + i)
      lands t fun s' =>
        (∀ x : Thread, s.thread? x.uid = some x → a.also.contains x.uid = true → s'.thread? x.uid = some (x.flagSub a.setf)) ∧
        ∃ w', s'.wave? wid = some w' ∧
          w'.d = w.d.set reg ((List.range 256).map fun j => BitVec.ofNat 16 (natOfBytes ((bs.drop (2 * j)).take 2))) ∧
          w'.n = w.n.set reg (BitVec.ofNat 32 (natOfBytes ((bs.drop 512).take 4))) ∧ w'.dpend = w.dpend)) ∧
  (∀ (s : State) (id : Nat) (a : Access) (bs : List (Nat × Byte)),
    s.ready? id = some a → a.op = .store bs →
    (s.vaultBad bs = false → ∃ s', exec (.storeComplete id) s = .next s' ∧ Stored s s' bs ∧ (∀ b ∈ s'.inflight, b.id ≠ a.id)) ∧
    (s.vaultBad bs = true → ∃ s', exec (.storeComplete id) s = .next s' ∧ s'.mem = s.mem ∧ (∀ b ∈ s'.inflight, b.id ≠ a.id)))

/-- R192 to R196: an atomic request applies its lanes in ascending order at its home, writes the last value there and nowhere
else, and gives each lane the value before its own step.
R193: one step of each atomic on a w-bit value.
R107: an integer ADD reduction is the sum of the participants' elements modulo the element's range. -/
def Obligations.AtomicsApply : Prop :=
  (∀ (s : State) (id : Nat) (a : Access) key op cas w64 u lanes d tag,
    s.ready? id = some a → a.op = .atomic key op cas w64 u lanes d tag →
    let size := if w64 then 8 else 4
    s.poisoned key size = false →
    ∃ s', exec (.atomicApply id) s = .next s' ∧
      Stored s s' (bytesAt key size (atomicLanes op cas u (8 * size) (memNat s.mem key size) lanes).1) ∧
      (∀ (l : ALane) (t : Thread) (e : Nat), lanes = [l] → l.quiet = false → d = some e → s.thread? l.uid = some t → t.status ≠ .exited →
        a.uids = [l.uid] → a.also = [] →
        let old := BitVec.ofNat 64 (memNat s.mem key size)
        let got : Thread := { t with v := writeRegs t.v (wrw w64 (BitVec.ofNat 8 e) old tag) }
        s'.thread? l.uid = some (got.flagSub a.setf))) ∧
  (∀ (u : Bool) (w m b : Nat), m < 2 ^ w → b < 2 ^ w → 0 < w →
    atomicStep .add u w m b = (m + b) % 2 ^ w ∧
    atomicStep .min true w m b = min m b ∧ atomicStep .max true w m b = max m b ∧
    atomicStep .xchg u w m b = b ∧
    (atomicStep .inc u w m b < 2 ^ w ∧ (m < b → atomicStep .inc u w m b = m + 1) ∧ (b ≤ m → atomicStep .inc u w m b = 0)) ∧
    ((m = 0 ∨ b < m → atomicStep .dec u w m b = b) ∧ (m ≠ 0 → m ≤ b → atomicStep .dec u w m b = m - 1)) ∧
    (∀ op, op ≠ .fadd → atomicStep op u w m b < 2 ^ w)) ∧
  (∀ (x : VRed) (w : Nat) (p : Nat × Nat) (ps : List (Nat × Nat)),
    (∀ q ∈ p :: ps, q.2 < 2 ^ w) → x.op = .add →
    vredElem x tagINT w (p :: ps) = (((p :: ps).map (·.2)).sum % 2 ^ w, 0))

/-! Atomics, locks, tickets. -/

/-- R192, R195: ATOM, ATOMC and RED send their operation to the home of the address; tags that do not resolve trap, and a page of
host memory traps with ATOMIC_SPACE.
R209: on a shared line of a deterministic kernel ATOM and ATOMC trap with DET_VIOLATION (code 1), and RED adds one entry to the commit
queue, or traps with code 6 when the queue has no room.
That FADD refuses a RAW operand is log 99, and that the tags are checked ahead of the translation and of ATOMIC_SPACE log 131. -/
def Obligations.AtomicsIssue : Prop := ∀ (s : State) (c : Ctl) (t : Thread) (ps : List Part), s.solo c t → s.foreignVault t ps = false →
  let sends (i : Instr) (a b : Reg) (off : DWord) (w64 u cas : Bool) (op : AOp) (tags : List Byte) (cmp : DWord) (d : Option Reg) : Prop :=
    let va := t.pair a + off
    let size := if w64 then 8 else 4
    let lane : ALane := { uid := t.uid, lane := t.loc.lane, b := t.opnd w64 b, c := cmp }
    let key := keyIn ps va.toNat
    canonical va = true → va.toNat % size = 0 →
    (∀ tag, resolveTags tagINT (if op = .fadd then (· == tagF32) else okINT) tags = .ok tag →
      s.mapRanges (some t.loc.core) t.ctx t.priv .atomic [(va.toNat, size), (va.toNat, size)] = .ok ps →
      (s.spaceOf key ≠ .host → s.deferred? t key = false → Sends s i c t fun x =>
        x.op = .atomic key op cas w64 u [lane] (d.map (·.toNat)) tag) ∧
      (s.spaceOf key ≠ .host → s.deferred? t key = true → d.isSome = true →
        Becomes s i t (t.stoppedBy s (cDet 1) c.len.bytes)) ∧
      (∀ l, s.spaceOf key ≠ .host → s.deferred? t key = true → d = none → cas = false → s.detLaunch t = some l →
        (s.deferRoom t 1 = true → Defers s i c t l fun e => e.red = some (op, w64, u, key, lane.b)) ∧
        (s.deferRoom t 1 = false → Becomes s i t (t.stoppedBy s (cDet 6) c.len.bytes))) ∧
      (s.spaceOf key = .host → Becomes s i t (t.stoppedBy s cAtomicSpace c.len.bytes))) ∧
    (∀ e, resolveTags tagINT (if op = .fadd then (· == tagF32) else okINT) tags = .error e →
      Becomes s i t (t.stoppedBy s cTagMismatch c.len.bytes))
  (∀ x : Atom, sends (.atom c x) x.a x.b (x.off.signExtend 64) x.w64 x.u false x.op [(t.reg x.b).tag] 0 (some x.d) ∧
    sends (.red c x) x.a x.b (x.off.signExtend 64) x.w64 x.u false x.op [(t.reg x.b).tag] 0 none) ∧
  (∀ x : AtomC, sends (.atomc c x) x.a x.b 0 x.w64 false true .add [(t.reg x.b).tag, (t.optReg x.c).tag]
    (t.opnd x.w64 (x.c.getD 255)) (some x.d))

/-- R198, R199: QLOCK takes a free lock at once, writing OWNER alone, or joins the queue of a held one and is held; QTRY and
QUNLK send their operation to the lock's home.
R201: the ticket instructions act for the whole wave on its current identifier; without one every participant traps with
TICKET_STATE. TKGET gives the rank, TKWAIT holds, TKADV releases once per sequence.
The latency of TKGET is the model's choice (log 25). -/
def Obligations.LocksAndTickets : Prop :=
  (∀ (s : State) (c : Ctl) (t : Thread) (x : LockArgs) (a : Nat), s.solo c t → s.lockAt t x a →
    let mine := s.ownerCode t
    (s.lockOwner a = 0 → s.lockQueue a = [] → s.lockQueued < 65536 →
      ∃ s', exec (.qlock c x) s = .next s' ∧ Stored s s' (bytesAt a 8 mine) ∧ s'.issue = none ∧
        s'.thread? t.uid = some { t.past s.clock (t.pc + BitVec.ofNat 64 c.len.bytes) with setf := c.setf, ilen := c.len.bytes }) ∧
    (s.lockOwner a ≠ 0 → s.ownsLock t a = false → s.lockQueued < 65536 →
      ∃ s', exec (.qlock c x) s = .next s' ∧ s'.thread? t.uid = some (t.heldAt c (.lock a)) ∧
        s'.lockQueue a = s.lockQueue a ++ [t.uid] ∧
        Stored s s' (bytesAt a 8 (s.lockOwner a + min 0xFFFF ((s.lockQueue a).length + 1) * 2 ^ 32))) ∧
    (s.ownsLock t a = true → s.unlocking t.uid a = false → Becomes s (.qlock c x) t (t.stoppedBy s cLockState c.len.bytes)) ∧
    Sends s (.qtry c x) c t (fun y => y.op = .qtry a x.p ∧ y.acq = true) ∧
    (s.ownsLock t a = true → s.unlocking t.uid a = false → Sends s (.qunlk c x) c t fun y => y.op = .unlock a mine ∧ y.rel = true) ∧
    (s.ownsLock t a = false → Becomes s (.qunlk c x) t (t.stoppedBy s cLockState c.len.bytes))) ∧
  (∀ (s : State) (c : Ctl) (d : Reg) (q : BitVec 2) (p : Thread) (ps : List Thread) (w : Wave), s.waveIssue →
    participants c s.group = p :: ps → s.waveOf p = some w →
    (w.cur = none → WaveFrom s s (.tkget c d q) c 0 (TrapsWith s c cTicketState) ∧
      WaveFrom s s (.tkwait c q) c 0 (TrapsWith s c cTicketState) ∧ WaveFrom s s (.tkadv c q) c 0 (TrapsWith s c cTicketState)) ∧
    (∀ i, w.cur = some i →
      WaveFrom s s (.tkget c d q) c 0 (Completes s c 2 (wr1 d (BitVec.ofNat 32 i.rank) tagINT) [] 0) ∧
      WaveHolds s s (.tkwait c q) c (.ticket q.toNat) ∧
      (w.adv.contains q.toNat = true → WaveFrom s s (.tkadv c q) c 0 (TrapsWith s c cTicketState)) ∧
      (w.adv.contains q.toNat = false → WaveSends s (.tkadv c q) c fun a => a.op = .ticket q.toNat i.rank ∧ a.rel = true)))

/-! Work. -/

/-- R203 to R206: FETCHW gives up the wave's identifier and asks the dispenser, and on a control core traps with WORK_STATE;
GATE holds until the predecessor releases, RELEASE is a release, and EMIT writes its record into the next free slot of the
successor's queue.
R204, R257, R259: the dispenser answers the oldest request with the next identifier, or with all ones and a false predicate
when there is none; a producer whose workgroups have all ended is counted as ended at its successors.
The dispenser answers the oldest request: log 25 and log 42 name the ties and the empty producer list. An identifier that comes to a
wave which has ended, or has executed a later FETCHW, is given up at once (log 149). -/
def Obligations.WorkAndDispense : Prop :=
  (∀ (s : State) (c : Ctl),
    (∀ (d p : Reg) (t : Thread) (ps : List Thread) (w : Wave) (g : Wg), s.waveIssue → participants c s.group = t :: ps →
      s.waveOf t = some w → s.wgOf t = some g →
      (isControl t.loc.core = true → WaveFrom s s (.fetchw c d p) c 0 (TrapsWith s c cWorkState)) ∧
      (isControl t.loc.core = false → ∃ s', exec (.fetchw c d p) s = .next s' ∧ s'.issue = none ∧ s'.mem = s.mem ∧
        ∀ w', s'.wave? w.wid = some w' → w'.cur = none ∧ (∃ r ∈ w'.fetches, r.d = d ∧ r.p = p ∧ r.uids = (t :: ps).map (·.uid)))) ∧
    (∀ t : Thread, s.solo c t →
      (isControl t.loc.core = true → ∀ (a : Reg) (q : BitVec 2) (g : BitVec 4),
        Becomes s (.emit c a q) t (t.stoppedBy s cWorkState c.len.bytes) ∧
        Becomes s (.gate c g) t (t.stoppedBy s cWorkState c.len.bytes) ∧
        Becomes s (.release c g) t (t.stoppedBy s cWorkState c.len.bytes)) ∧
      (isControl t.loc.core = false → ∀ (l : Launch), s.launch? (s.lnumOf t) = some l →
        (∀ g : BitVec 4, (l.pred = 0 → Becomes s (.gate c g) t (t.past s.clock (t.pc + BitVec.ofNat 64 c.len.bytes))) ∧
          (l.pred ≠ 0 → Becomes s (.gate c g) t (t.heldAt c (.gate g.toNat))) ∧
          Sends s (.release c g) c t fun a => a.op = .release g.toNat ∧ a.rel = true) ∧
        (∀ (a : Reg) (q : BitVec 2) (k : Succ) (m : Launch) (iq : InQueue) (out : List (Nat × Byte)) (pt : List Part),
          l.succ[q.toNat]? = some k → k.lnum ≠ 0 → s.launch? k.lnum = some m → m.inq = some iq → m.slotFree k.qcap = true →
          let va := k.qbase + BitVec.ofNat 64 (32 * (iq.next % max 1 k.qcap))
          s.mapBytes t ((List.range 32).map fun i => ((va + BitVec.ofNat 64 i).toNat, (emitBytes t a).getD i 0)) = .ok (out, pt) →
          Sends s (.emit c a q) c t fun x => x.op = .emit k.lnum iq.next out ∧ x.rel = true)))) ∧
  (∀ (s : State) (lnum : Nat),
    (∀ (l : Launch) (w : Wave) (r : FetchReq) (ans : Option Ident), s.launch? lnum = some l → s.oldestFetch lnum = some (w, r) →
      w.reserved = none → l.dispense = some ans → s.wave? w.wid = some w →
      ∃ s', exec (.workIdDispense lnum) s = .next s' ∧ s'.mem = s.mem ∧
        (s'.wave? w.wid).map (·.cur) = some (if 1 < w.fetches.length ∨ s.unitLives (.wave w.wid) = false then none else ans) ∧
        (s'.launch? lnum).map (·.nextRank) = some (if ans.isSome then l.nextRank + 1 else l.nextRank) ∧
        ∀ t : Thread, s.thread? t.uid = some t → r.uids.contains t.uid = true → t.status ≠ .exited → r.held = false →
          s'.thread? t.uid = some { t with pend := t.pend ++
            [{ due := max s.clock (r.at_ + 63000), regs := wr2 r.d ((ans.map (·.id)).getD (BitVec.allOnes 64)) tagINT
               preds := [(r.p.toNat, ans.isSome)], flag := if r.setf = 15 then none else some r.setf.toNat
               answer := true }] }) ∧
    (s.producerOver lnum = true → ∃ s', exec (.producerEnd lnum) s = .next s' ∧ s'.mem = s.mem ∧ s'.threads = s.threads ∧
      ∀ l' ∈ s'.launches, ∀ q, l'.inq = some q → q.producers.contains lnum = true → q.ended.contains lnum = true))

/-- R208, R210, R211: OWN claims lines and SSTEP holds, in a deterministic kernel alone; CBAR holds a thread that is at home.
R220, R350: STEPADV of a launch without the step attribute traps, of another holds; CKPT joins the requests when none of its
mode runs, for mode 0 with EN set. That the barrier operand is checked before the record's address is log 131, and that the request
keeps the time of its issue log 69. -/
def Obligations.Supersteps : Prop :=
  (∀ (s : State) (c : Ctl) (t : Thread), s.solo c t →
    (s.isDet t = false → (∀ a n : Reg, Becomes s (.own c a n) t (t.stoppedBy s (cDet 5) c.len.bytes)) ∧
      Becomes s (.sstep c) t (t.stoppedBy s (cDet 5) c.len.bytes)) ∧
    (s.isDet t = true → Becomes s (.sstep c) t (t.heldAt c .sstep) ∧
      ∀ (a n : Reg) (ps : List Part), 0 < (t.val n).toNat → (t.val n).toNat ≤ 4096 → canonical (t.pair a) = true →
        s.mapRanges (some t.loc.core) t.ctx t.priv .read [((t.pair a).toNat / 256 * 256, 256 * (t.val n).toNat)] = .ok ps →
        Becomes s (.own c a n) t (t.past s.clock (t.pc + BitVec.ofNat 64 c.len.bytes))) ∧
    (∀ id : BitVec 2, (t.home = none → Becomes s (.cbar c id) t (t.heldAt c (.cbar id.toNat))) ∧
      (t.home ≠ none → Becomes s (.cbar c id) t (t.stoppedBy s cMigratedSync c.len.bytes)))) ∧
  (∀ (s : State) (c : Ctl) (t : Thread), s.solo c t →
    (∀ d : Reg,
      ((s.launch? (s.lnumOf t)).map (·.step) ≠ some true → Becomes s (.stepadv c d) t (t.stoppedBy s cPrivilege c.len.bytes)) ∧
      ((s.launch? (s.lnumOf t)).map (·.step) = some true → Becomes s (.stepadv c d) t (t.heldAt c (.stepadv d)))) ∧
    (∀ (bar a : Reg) (mode : Bool),
      (∀ e, s.barOperand t (t.pair bar) = .error e → Becomes s (.ckpt c bar a mode) t (t.stoppedBy s e c.len.bytes)) ∧
      (∀ k, s.barOperand t (t.pair bar) = .ok k → (s.engAddr (t.pair a) && s.engAddr (t.pair a + 63)) = false →
        Becomes s (.ckpt c bar a mode) t (t.stoppedBy s cBadAddress c.len.bytes)) ∧
      (∀ k, s.barOperand t (t.pair bar) = .ok k → (s.engAddr (t.pair a) && s.engAddr (t.pair a + 63)) = true → (∀ r ∈ s.ckpt.reqs, r.mode ≠ mode) →
        (mode = true ∨ s.ckpt.en = true) → ∃ s', exec (.ckpt c bar a mode) s = .next s' ∧ s'.issue = none ∧ s'.mem = s.mem ∧
        s'.thread? t.uid = some (t.sent s.clock c) ∧ (∀ u, u ≠ t.uid → s'.thread? u = s.thread? u) ∧
        s'.ckpt = { s.ckpt with reqs := s.ckpt.reqs ++ [{ mode := mode, uid := some t.uid, va := t.pair a, bar := some k, ctx := t.ctx
                                                          priv := true, ring := none, issued := s.clock, step := none
                                                          core := t.loc.core }] })))

/-! Barriers. -/

/-- R177, R179, R180, R183: each barrier instruction on an object of the vault sends its operation to the port; BWAIT holds its
thread; an operand that names no object traps. -/
def Obligations.BarrierInstructions : Prop := ∀ (s : State) (c : Ctl),
  (∀ (t : Thread), s.solo c t →
    (∀ (x : BInit) (k : Nat), s.barInstr t x.a x.ring = .ok k → (x.ring = true ∨ (t.val x.p).toNat < 2 ^ 16) →
      Sends s (.binit c x) c t fun a => a.op = .barrier k (.init x.ring (t.val x.p) (t.optVal x.b)) [.thread t.uid]) ∧
    (∀ (x : BArr) (k : Nat), s.barInstr t x.a false = .ok k → x.w = false →
      Sends s (.barr c x) c t fun a => a.op = .barrier k (.arrive (t.optVal x.c)) [.thread t.uid] ∧ a.rel = true) ∧
    (∀ (x : BWait) (k : Nat), s.barInstr t x.a false = .ok k →
      Becomes s (.bwait c x) t (t.heldAt c (.barrier k ((t.val x.b).getLsbD 0) x.checked)) ∧
      Sends s (.btest c x) c t fun a => a.op = .barrier k (.test x.p ((t.val x.b).getLsbD 0) x.checked) [.thread t.uid]) ∧
    (∀ (r b : Reg) (k : Nat), s.barInstr t r false = .ok k →
      Sends s (.bexp c r b) c t (fun a => a.op = .barrier k (.expect (t.val b)) [.thread t.uid]) ∧
      Sends s (.bdrop c r) c t fun a => a.op = .barrier k .drop [.thread t.uid]) ∧
    (∀ (r b : Reg) (e : Cause), s.barInstr t r false = .error e →
      Becomes s (.bexp c r b) t (t.stoppedBy s e c.len.bytes) ∧ Becomes s (.bdrop c r) t (t.stoppedBy s e c.len.bytes))) ∧
  (s.waveIssue → ∀ (t : Thread) (ps : List Thread) (k : Nat), participants c s.group = t :: ps →
    (∀ x : BArr, x.w = true → s.barInstr t x.a false = .ok k →
      WaveSends s (.barr c x) c fun a => a.op = .barrier k (.arrive (t.optVal x.c)) [.wave t.wid] ∧ a.rel = true) ∧
    (∀ x : RingNext, s.barInstr t x.a true = .ok k →
      WaveSends s (.ringnext c x) c fun a => a.op = .barrier k (.ringNext x.consumer x.d) [.wave t.wid]))

/-- R178: a phase completes exactly when both counts are reached by an object that expects something: PHASE flips, COUNT and
ARRIVED restart, EXPECT returns to BASEEXP, LAST keeps the phase's conditions, and ERR marks a count overshot.
R178, R179: what the port does to an object: BEXP raises EXPECT, an arrival ARRIVED, each followed by the completion test,
BDROP takes a party away, BINIT arms it; a BTEST answers whether the phase differs from its parity, and with CHECKED traps with
BARRIER_POISON, its predicate unwritten, when it does and LAST has ERR set (R180). No byte outside the object changes. -/
def Obligations.BarrierPort : Prop :=
  (∀ b : BarObj,
    ((b.parties ≠ 0 ∨ b.expect ≠ 0) → b.parties ≤ b.arrived → b.expect ≤ b.count →
      b.evaluate.phase = !b.phase ∧ b.evaluate.count = 0 ∧ b.evaluate.arrived = 0 ∧ b.evaluate.expect = b.baseexp ∧
      b.evaluate.parties = b.parties ∧ b.evaluate.flips = (b.flips + 1) % 2 ^ 32 ∧
      (b.parties < b.arrived ∨ b.expect < b.count → b.evaluate.last / 2 % 2 = 1)) ∧
    ((b.parties = 0 ∧ b.expect = 0) ∨ b.arrived < b.parties ∨ b.count < b.expect → b.evaluate = b)) ∧
  (∀ (s : State) (id : Nat) (a : Access) (key : Nat) (op : BarOp) (us : List Sys2Proof.Machine.PUnit) (t : Thread),
    s.ready? id = some a → a.op = .barrier key op us → a.uids = [t.uid] → s.thread? t.uid = some t → s.poisoned key 32 = false →
    (∀ n : Word, op = .expect n → ∃ s', exec (.barrierPortOperation id) s = .next s' ∧
      s'.barGet key = (s.barGet key).expectMore n.toNat ∧
      ∀ k, k < key ∨ key + 28 ≤ k → memGet s'.mem k = memGet s.mem k) ∧
    (∀ p b : Word, op = .init false p b → ∃ s', exec (.barrierPortOperation id) s = .next s' ∧
      s'.barGet key = (s.barGet key).init (p.toNat % 2 ^ 16) b.toNat ∧
      ∀ k, k < key ∨ key + 28 ≤ k → memGet s'.mem k = memGet s.mem k) ∧
    (op = .drop → ∃ s', exec (.barrierPortOperation id) s = .next s' ∧ s'.barGet key = (s.barGet key).drop ∧
      ∀ k, k < key ∨ key + 28 ≤ k → memGet s'.mem k = memGet s.mem k) ∧
    (∀ (n : Word) (u : Sys2Proof.Machine.PUnit), op = .arrive n → us = [u] → s.unitLives u = true →
      (s.arriveAt (s.lnumOf t) (s.wgIdxOf t) key u n.toNat).isSome = true →
      ∃ s', exec (.barrierPortOperation id) s = .next s' ∧ s'.barGet key = (s.barGet key).arrive n.toNat ∧
        ∀ k, k < key ∨ key + 28 ≤ k → memGet s'.mem k = memGet s.mem k) ∧
    (∀ (p : Reg) (parity checked : Bool), op = .test p parity checked → t.status = .live → a.also = [] →
      let b := s.barGet key
      let bad : Prop := checked = true ∧ b.phase ≠ parity ∧ b.last / 2 % 2 = 1
      ∃ s' t', exec (.barrierPortOperation id) s = .next s' ∧ s'.mem = s.mem ∧ s'.thread? t.uid = some t' ∧ t'.v = t.v ∧
        (¬ bad → t'.preds = writePreds t.preds [(p.toNat, b.phase != parity)]) ∧
        (bad → t'.preds = t.preds ∧ ∃ r, t'.status = .stopped r false ∧ r.cause = cBarrierPoison.cause)))

/-! Engines, yealms, links. -/

/-- R169, R173 to R175, R186 to R189: each engine instruction with good operands and room in its queue issues one command with
its barrier; one without bytes to move passes without a command. R209: the command of a deterministic launch keeps to its own vault
(log 152 names the operands that this is checked of). -/
def Obligations.EngineInstructions : Prop := ∀ (s : State) (c : Ctl) (t : Thread) (k : Nat), s.solo c t →
  (∀ x : CopyArgs, s.engAddr (t.pair x.d) = true → s.engAddr (t.pair x.s) = true →
    let n := (t.optVal x.n).toNat
    (0 < n → n ≤ 2 ^ 30 → s.engineRoom t x.bar 0 k → EngineTakes s (.copy c x) c t k (.copy (t.pair x.d) (t.pair x.s) n)) ∧
    (n = 0 → s.engineRoom t x.bar 0 k →
      Becomes s (.copy c x) t (t.past s.clock (t.pc + BitVec.ofNat 64 c.len.bytes))) ∧
    (2 ^ 30 < n → s.barOperand t (t.pair x.bar) = .ok k →
      Becomes s (.copy c x) t (t.stoppedBy s cEngineOperand c.len.bytes))) ∧
  (∀ x : Gather, s.engineRoom t x.bar 1 k → x.nrows ≠ 0 →
    (∀ op, s.gatherOp x t false = .ok op → EngineTakes s (.gather c x) c t k op) ∧
    (∀ op, s.gatherOp x t true = .ok op → EngineTakes s (.scatter c x) c t k op)) ∧
  (∀ (x : TCopy) (d r : TRec), s.engineRoom t x.bar 2 k → s.recLook t (t.pair x.d) = .ok d → s.recLook t (t.pair x.s) = .ok r →
    (tcopyOk d r = true → 0 < d.destBytes → EngineTakes s (.tcopy c x) c t k (.tcopy d r x.rm)) ∧
    (tcopyOk d r = false → Becomes s (.tcopy c x) t (t.stoppedBy s cTensorOperand c.len.bytes))) ∧
  (∀ x : RXfer, s.engineRoom t x.bar 3 k → (t.optVal x.n).toNat ≠ 0 →
    (∀ op, s.rxferOp t x false = .ok op → EngineTakes s (.rget c x) c t k op) ∧
    (∀ op, s.rxferOp t x true = .ok op → EngineTakes s (.rput c x) c t k op)) ∧
  (∀ (x : Coll) (g : Group) (d r : TRec), s.engineRoom t x.bar 4 k → s.collGroup t x = .ok g →
    (∀ q ∈ s.cmd.groups, q.num = g.num → q.cancelled.contains g.count = false) → s.recLook t (t.pair x.d) = .ok d →
    s.recLook t (t.pair x.s) = .ok r → 0 < d.destBytes →
    let coll (kind : Nat) : EngOp := .coll kind d r g.num x.op x.root.toNat g.count
    (collOk 0 x.op d r = true → EngineTakes s (.cred c x) c t k (coll 0)) ∧
    (collOk 1 x.op d r = true → EngineTakes s (.cgath c x) c t k (coll 1)) ∧
    (collOk 2 x.op d r = true → EngineTakes s (.cbcst c x) c t k (coll 2)))

/-- R184, R185, R130: the wave's own instructions on yealms, links and directional images complete. YACQ of a resident yealm adds a
pin and the participants go on; of another it asks for the yealm and holds them. YREL gives one pin up and they go on; with no pin
it traps with YEALM_INVALID. YHINT asks for a yealm of a descriptor the device holds, does nothing for another, and they go on.
LNKHINT asks for every wavelength of its route and completes 2 ac after the issue; a package outside the job, or the thread's own,
asks for nothing. DLD and DST of an aligned canonical address whose pages resolve send one access for the wave, of 516 bytes into the
directional register or of the register's image out; that all of them move in one event is the model's choice (log 101, DESIGN
CHOICE). A base that is not canonical traps with BAD_ADDRESS in every participant (log 57, DEDUCED), ahead of DIR_ALIGN for one that
is not a multiple of 8 (log 116, DEDUCED). In a deterministic launch the access keeps to its own vault, and a DST whose bytes are
all immediate sends them (R209). -/
def Obligations.WaveMemory : Prop := ∀ (s : State) (c : Ctl),
  let past (t t' : Thread) : Prop := t' = t.past s.clock (t.pc + BitVec.ofNat 64 c.len.bytes)
  (∀ (a b : Reg) (t : Thread) (d y : Nat) (h : Thatch), s.waveIssue → (participants c s.group).head? = some t →
    yealmArgs t a b = .ok (d, y) → s.thatch? d = some h → y < h.nyealm →
    (h.pinsOf y < 65535 → (s.slotOf d y).isSome → WaveFrom (s.pinYealm t.wid d y) s (.yacq c a b) c 0 past) ∧
    (h.pinsOf y < 65535 → s.slotOf d y = none → ∀ s1, s.requestYealm d y = some s1 → WaveHolds s1 s (.yacq c a b) c (.yacq d y)) ∧
    (h.pinsOf y = 65535 → WaveFrom s s (.yacq c a b) c 0 (TrapsWith s c cYealmInvalid)) ∧
    (0 < h.pinsOf y → WaveFrom ((s.modThatch d fun x => x.unpin fun p => if p == y then 1 else 0).modWave t.wid fun w =>
        { w with pins := (w.pins.map fun p => if p.1 == d && p.2.1 == y then (p.1, p.2.1, p.2.2 - 1) else p).filter (·.2.2 != 0) })
      s (.yrel c a b) c 0 past) ∧
    (h.pinsOf y = 0 → WaveFrom s s (.yrel c a b) c 0 (TrapsWith s c cYealmInvalid)) ∧
    WaveFrom ((s.requestYealm d y).getD s) s (.yhint c a b) c 0 past) ∧
  (∀ (a b : Reg) (t : Thread) (d y : Nat), s.waveIssue → (participants c s.group).head? = some t →
    yealmArgs t a b = .ok (d, y) → (∀ h, s.thatch? d = some h → h.nyealm ≤ y) →
    WaveFrom s s (.yacq c a b) c 0 (TrapsWith s c cYealmInvalid) ∧ WaveFrom s s (.yrel c a b) c 0 (TrapsWith s c cYealmInvalid) ∧
    WaveFrom s s (.yhint c a b) c 0 past) ∧
  (∀ a : Reg,
    let asks (x : State) (t : Thread) : State :=
      if s.cmd.npkg ≤ (t.val a).toNat ∨ (t.val a).toNat = s.cmd.rank then x
      else (s.hintLinks (t.val a).toNat).foldl (fun x l => x.modLink l (·.request 0)) x
    LanesFrom ((participants c s.group).foldl asks s) s (.lnkhint c a) c (Completes s c 2 [] [] 0)) ∧
  (∀ (x : DMem) (t : Thread) (w : Wave), s.waveIssue → (participants c s.group).head? = some t → s.waveOf t = some w →
    let va := t.pair x.a + x.off.signExtend 64
    let sends (i : Instr) (ok : Access → Prop) : Prop := ∃ s' a, exec i s = .next s' ∧ s'.issue = none ∧ s'.mem = s.mem ∧
      a ∈ s'.inflight ∧ s.nextId ≤ a.id ∧ a.uids = [t.uid] ∧ a.setf = c.setf ∧ ok a ∧
      (∀ u, s.issueUids.contains u = false → s'.thread? u = s.thread? u) ∧
      ∀ p : Thread, s.thread? p.uid = some p → p ∈ participants c s.group → s'.thread? p.uid = some (p.sent s.clock c)
    (∀ ps, canonical va = true → va.toNat % 8 = 0 → s.foreignVault t ps = false →
      (s.mapRanges (some t.loc.core) t.ctx t.priv .read [(va.toNat, 516)] = .ok ps →
        sends (.dld c x) fun a => a.op = .dld x.r.toNat w.wid (w.dseq + 1) ∧ a.reads = targetRanges ps [(va.toNat, 516)]) ∧
      (s.mapRanges (some t.loc.core) t.ctx t.priv .write [(va.toNat, 516)] = .ok ps →
        (∀ i < 516, s.deferred? t (keyIn ps (va.toNat + i)) = false) →
        sends (.dst c x) fun a =>
          a.op = .store ((((List.range 516).map (va.toNat + ·)).zip (dirImage w x.r)).map fun b => (keyIn ps b.1, b.2)))) ∧
    (canonical va = false → WaveFrom s s (.dld c x) c 0 (TrapsWith s c cBadAddress) ∧
      WaveFrom s s (.dst c x) c 0 (TrapsWith s c cBadAddress)) ∧
    (canonical va = true → va.toNat % 8 ≠ 0 → WaveFrom s s (.dld c x) c 0 (TrapsWith s c cDirAlign) ∧
      WaveFrom s s (.dst c x) c 0 (TrapsWith s c cDirAlign)))

/-! The matrix engine. -/

/-- R137 to R139, R144: KSIGN and KCLR change a register's members 2 ac later; a member's MMA or MMAS arrives and is held; a
thread at home whose workgroup lacks the engine traps with MATRIX_OWNER, and one in a landing slot whose workgroup holds it with
MIGRATED_SYNC.
R143, R144, R149: a complete collective whose record, tags and members are in order queues one pass with the tiles as they
stand, and its members move past it.
An MMA or MMAS by a thread that is no member traps with MATRIX_OPERAND (log 12). -/
def Obligations.ConvergenceAndPasses : Prop :=
  (∀ (s : State) (c : Ctl) (t : Thread), s.solo c t →
    (∀ (k : Reg) (x : Mma) (y : Mmas),
      let trap (e : Cause) : Prop :=
        Becomes s (.ksign c k) t (t.stoppedBy s e c.len.bytes) ∧ Becomes s (.kclr c k) t (t.stoppedBy s e c.len.bytes) ∧
        (s.groupIssue → Becomes s (.mma c x) t (t.stoppedBy s e c.len.bytes) ∧ Becomes s (.mmas c y) t (t.stoppedBy s e c.len.bytes))
      (s.holdsEngine t = false → t.home = none → trap cMatrixOwner) ∧ (s.holdsEngine t = true → t.home ≠ none → trap cMigratedSync)) ∧
    (s.holdsEngine t = true → t.home = none →
      let kreg (k : Nat) : KReg := (s.core t.loc.core).k.getD k { members := [], arrived := [] }
      let change (k : Reg) (join : Bool) : Thread :=
        let u := t.sent s.clock c
        { u with pend := u.pend ++ [{ due := s.clock + 2 * Config.ac, regs := [], preds := []
                                      flag := if c.setf = 15 then none else some c.setf.toNat, ksig := some (k.toNat, join) }] }
      (∀ k : Reg, (kreg k.toNat).complete = false →
        Becomes s (.ksign c k) t (change k true) ∧ Becomes s (.kclr c k) t (change k false)) ∧
      (s.groupIssue → ∀ (x : Mma) (y : Mmas),
        ((kreg x.k.toNat).complete = false → (kreg x.k.toNat).members.contains t.uid = true →
          Becomes s (.mma c x) t (t.heldAt c (.converge x.k.toNat))) ∧
        ((kreg y.k.toNat).complete = false → (kreg y.k.toNat).members.contains t.uid = true →
          Becomes s (.mmas c y) t (t.heldAt c (.converge y.k.toNat))) ∧
        ((kreg x.k.toNat).members.contains t.uid = false → Becomes s (.mma c x) t (t.stoppedBy s cMatrixOperand c.len.bytes)) ∧
        ((kreg y.k.toNat).members.contains t.uid = false → Becomes s (.mmas c y) t (t.stoppedBy s cMatrixOperand c.len.bytes))))) ∧
  (∀ (s : State) (c : Ctl) (g : Issue) (k : Nat) (t : Thread),
    s.issue = some g → g.kind = .converge k → (participants c s.group).head? = some t →
    let queues (i : Instr) (x : MmaArgs) : Prop :=
      let cr := (t.optVal x.c).toNat
      let ps := participants c s.group
      ∀ r, s.recLook t (t.pair x.a) = .ok r → s.matRoom g.core = true →
      mmaCause x g.core t s.group ps r = none → (∀ a ∈ aBytes r cr, s.poisoned a 1 = false) →
      ∃ s' m, exec i s = .next s' ∧ s'.mem = s.mem ∧ s'.issue = none ∧
        (s'.core g.core).mqueue = (s.core g.core).mqueue ++ [m] ∧ m.acc = x.d.toNat ∧ m.uids = ps.map (·.uid) ∧
        m.kind = .pass { ma := r.m, mb := x.mb, qa := (aTile s.mem g.core x r cr).1, ea := (aTile s.mem g.core x r cr).2
                         qb := (bTile x ps).1, eb := (bTile x ps).2, time := mmaTime s.mem g.core x ps }
    (∀ x : Mma, queues (.mma c x)
      { d := x.d, a := x.a, b := x.b, k := x.k.toNat, mb := x.mbf.val + 2, c := x.c, abm := none, e := none }) ∧
    (∀ x : Mmas, queues (.mmas c x)
      { d := x.d, a := x.a, b := x.b, k := x.k.toNat, mb := x.mbf.val + 2, c := x.c, abm := some x.abm.toNat, e := x.e }))

/-- R150 to R154: the wave collectives of the matrix class. MZERO, MCHK, MPUT and MDRAIN queue their command when the queue has
room; MGET reads, with SYNC once every command on its accumulator that was issued before it has completed, MSTAT gives the status word 4 ac later, ERRINJ arms an injection; without the engine all trap.
R142, R133: a matrix collective of a workgroup that does not hold the engine traps every participant. -/
def Obligations.MatrixCollectives : Prop :=
  (∀ (s : State) (c : Ctl) (t : Thread), s.matrixIssue c t →
    let core := t.loc.core
    (s.matRoom core = true →
      (∀ m : Reg, MatrixQueues s (.mzero c m) c core m.toNat (· = .zero)) ∧
      (∀ p : Reg, MatrixQueues s (.mchk c p) c core 0 (· = .chk p)) ∧
      (∀ x : MPut, rowOrigin t x.s + cntN x.cnt ≤ 64 →
        (∀ p ∈ participants c s.group, ∀ i < cntN x.cnt, (p.runReg x.a i).tag = tagF32 ∨ (p.runReg x.a i).tag = tagRAW) →
        MatrixQueues s (.mput c x) c core x.m.toNat fun k => k = .put ((participants c s.group).flatMap fun p =>
          (List.range (cntN x.cnt)).map fun i => (tilePlace x.tr (rowOrigin t x.s) p.loc.lane i, (p.runReg x.a i).val))
          (2 + (cntN x.cnt + 3) / 4)) ∧
      (∀ (x : MDrain) (r : TRec), s.issueDone.recLook t (t.pair x.a) = .ok r → drainOk r (t.optVal x.c).toNat = true →
        MatrixQueues s (.mdrain c x) c core x.m.toNat
          (· = .drain x.d x.keep x.rm r ((t.optVal x.c).toNat % 2 ^ 16) ((t.optVal x.c).toNat / 2 ^ 16) t.ctx t.priv))) ∧
    (∀ x : MPut, 64 < rowOrigin t x.s + cntN x.cnt → WaveFrom s s (.mput c x) c 0 (TrapsWith s c cMatrixOperand)) ∧
    (∀ x : MGet, rowOrigin t x.s + cntN x.cnt ≤ 64 → (x.sync = true ∨ ∀ p ∈ participants c s.group, s.isDet p = false) →
      ∃ s' g, exec (.mget c x) s = .next s' ∧ s'.issue = none ∧ s'.mem = s.mem ∧ (s'.core core).mgets = (s.core core).mgets ++ [g] ∧
        g.acc = x.m.toNat ∧ g.d = x.d ∧ g.uids = (participants c s.group).map (·.uid) ∧ g.due = s.clock + 8 * Config.ac ∧
        g.sync = x.sync ∧ g.waits = (if x.sync then (s.core core).idsOf x.m.toNat else []) ∧
        g.hist = [(s.core core).tile x.m.toNat x.tr (rowOrigin t x.s) (cntN x.cnt)]) ∧
    (∀ x : Un, WaveFrom s s (.mstat c x) c 0 (Completes s c 4 (wr1 x.d
      (((s.core core).stat x.a.toNat).bits + BitVec.ofNat 32 (min 255 ((s.core core).pendOf x.a.toNat))) tagINT) [] 0)) ∧
    (∀ x : ErrInj, ∃ s', exec (.errinj c x) s = .next s' ∧ s'.issue = none ∧ s'.mem = s.mem ∧
      (s'.core core).inject = (s.core core).inject.filter (·.1 != x.m.toNat) ++
        [(x.m.toNat, { mode := x.mode, row := x.row.toNat, col := x.col.toNat, bit := x.bit.toNat })])) ∧
  (∀ (s : State) (c : Ctl) (t : Thread), s.waveIssue →
    (participants c s.group).head? = some t → s.holdsEngine t = false →
    (∀ m : Reg, WaveFrom s s (.mzero c m) c 0 (TrapsWith s c cMatrixOwner) ∧ WaveFrom s s (.mchk c m) c 0 (TrapsWith s c cMatrixOwner)) ∧
    (∀ x : MPut, WaveFrom s s (.mput c x) c 0 (TrapsWith s c cMatrixOwner)) ∧
    (∀ x : MGet, WaveFrom s s (.mget c x) c 0 (TrapsWith s c cMatrixOwner)) ∧
    (∀ x : MDrain, WaveFrom s s (.mdrain c x) c 0 (TrapsWith s c cMatrixOwner)) ∧
    (∀ x : Un, WaveFrom s s (.mstat c x) c 0 (TrapsWith s c cMatrixOwner)) ∧
    (∀ x : ErrInj, WaveFrom s s (.errinj c x) c 0 (TrapsWith s c cMatrixOwner)))

/-- R134, R148, R150, R151, R153: the engine starts the command at the head of its queue, which then occupies it for its time: 4 ac
MZERO, 2 + N/4 MPUT, 64 MDRAIN, 40 MCHK, an array run T a pass; an error-free pass without injection holds its exact products.
R145, R148, R150, R151: at its end MZERO clears the accumulator and its status word, MPUT writes its elements and no others, and 8 ac
after its array run a pass adds each product to its element with one rounding, or writes the canonical NaN where an exponent is
0xFF; no other accumulator changes, and SETF falls. 4 ac after it, a pass whose check failed is computed again, and one whose check
fails again is a machine check: FAIL is set, the queue is discarded, and a live first participant traps with MATRIX_INTEGRITY (R147).
R153: MCHK gives its predicate and clears the pending flips; MDRAIN returns the status word with the conversion's conditions and keeps or
clears it, and its copy, each element rounded once into the record's format, leaves as one store of the scalar lane's thread.
That no accumulator changes at the start of a command, and MZERO and MPUT write at its end, is log 124; how much the planes of a pass
are stretched while the die's grant falls short (R234) is a free value (log 151).
R146: an error-free computation of a pass is accepted as it is; one wrong element is found and corrected exactly. -/
def Obligations.MatrixEngine : Prop :=
  (∀ (s : State) (core : Nat) (m : MCmd) (rest : List MCmd),
    let k := s.core core
    k.mqueue = m :: rest → s.matStarts core m = true →
    let ends (n : Nat) : Nat := s.clock + n * Config.ac
    let starts (e : MExec) : Prop := ∃ s', exec (.matrixCommandStart core) s = .next s' ∧ s'.mem = s.mem ∧ s'.threads = s.threads ∧
      (s'.core core).mqueue = rest ∧ (s'.core core).mland = k.executing ∧ (s'.core core).mexec = some e ∧
      ∀ a i j, i < 64 → j < 64 → (s'.core core).accGet a i j = k.accGet a i j
    (m.kind = .zero → starts { cmd := m, inj := none, prod := none, ends := ends 4 }) ∧
    (∀ ws n, m.kind = .put ws n → starts { cmd := m, inj := none, prod := none, ends := ends n }) ∧
    (∀ p, m.kind = .chk p → starts { cmd := m, inj := none, prod := none, ends := ends 40 }) ∧
    (∀ d keep rm r row0 col0 ctx priv, m.kind = .drain d keep rm r row0 col0 ctx priv →
      starts { cmd := m, inj := none, prod := none, ends := ends 64 }) ∧
    (∀ p, m.kind = .pass p → k.flips = [] → k.inject = [] → p.qa.length = 64 → p.qb.length = 64 →
      (∀ r ∈ p.qa, r.length = 32) → (∀ r ∈ p.qb, r.length = 32) → 0 < p.mb →
      ∃ w ∈ [0, 1, 2, 4, 8, 12], (Config.arrayDemand ≤ s.power.grants.getD (s.physCore core / 84) 0 → w = 0) ∧
        starts { cmd := m, inj := none, prod := some (products p), ends := ends (p.time + p.mb * w), began := s.clock, stretch := w })) ∧
  (∀ (s : State) (core : Nat) (e : MExec),
    let k := s.core core
    let c := e.cmd
    k.mland = [] → k.mexec = some e → k.readsBad c = false →
    let completes (out : Nat → Nat → Nat → Word) : Prop := ∃ s', exec (.matrixAccumulate core) s = .next s' ∧ s'.mem = s.mem ∧
      s'.threads = (s.flagFall c.uids c.setf).threads ∧ (s'.core core).executing = [] ∧
      (c.kind = .zero → e.fixed = false → (s'.core core).mstat = k.mstat.set c.acc MStat.clear) ∧
      ∀ a i j, i < 64 → j < 64 → (s'.core core).accGet a i j = if a = c.acc then out a i j else k.accGet a i j
    (c.kind = .zero → e.ends ≤ s.clock → completes fun _ _ _ => 0) ∧
    (∀ ws n, c.kind = .put ws n → e.ends ≤ s.clock → (ws.map (·.1)).Nodup → (∀ w ∈ ws, w.1 < 4096) →
      completes fun a i j => ((ws.find? (·.1 == 64 * i + j)).map (·.2)).getD (k.accGet a i j)) ∧
    (∀ p prod, c.kind = .pass p → e.prod = some prod → e.ends + 8 * Config.ac ≤ s.clock →
      completes fun a i j => BitVec.ofNat 32 (accumulate p (k.accGet a i j) i j ((prod.getD i []).getD j 0)).1) ∧
    (∀ p, c.kind = .chk p → e.ends ≤ s.clock → c.uids.Nodup →
      ∃ s', exec (.matrixAccumulate core) s = .next s' ∧ s'.mem = s.mem ∧ (s'.core core).executing = [] ∧ (s'.core core).flips = [] ∧
        ∀ x : Thread, s.thread? x.uid = some x → c.uids.contains x.uid = true → x.status ≠ .exited →
          s'.thread? x.uid = some (({ x with preds := writePreds x.preds [(p.toNat, k.flips.isEmpty)] } : Thread).flagSub c.setf)) ∧
    (∀ d keep rm r row0 col0 ctx priv (t : Thread) (ps : List Part), c.kind = .drain d keep rm r row0 col0 ctx priv → e.ends ≤ s.clock →
      c.uids.head? = some t.uid → c.uids.Nodup → s.thread? t.uid = some t → s.foreignVault t ps = false →
      let el (i j : Nat) : Nat × Word :=
        (fmtOf r.tag).round (fmtF32.decode (k.accGet c.acc i j).toNat) rm (r.theta [col0 + j, row0 + i])
      let bytes : List (Nat × Byte) := (List.range 64).flatMap fun i => (List.range 64).flatMap fun j =>
        (r.putElem [col0 + j, row0 + i] (el i j).1).map fun b => (b.1.toNat, b.2)
      let st := (k.stat c.acc).with (((List.range 64).flatMap fun i => (List.range 64).map fun j => (el i j).2).foldl (· ||| ·) 0)
      s.mapRanges none ctx priv .write (bytes.map fun b => (b.1, 1)) = .ok ps → bytes ≠ [] →
      (∀ b ∈ bytes, s.deferred? t (keyIn ps b.1) = false) →
      ∃ s' a, exec (.matrixAccumulate core) s = .next s' ∧ s'.mem = s.mem ∧ (s'.core core).executing = [] ∧
        (s'.core core).mstat = k.mstat.set c.acc (if keep then st else MStat.clear) ∧
        (s'.core core).drain = some { cmd := c, bytes := bytes, fault := none, acc := some c.id } ∧
        a ∈ s'.inflight ∧ a.id = c.id ∧ a.uids = [t.uid] ∧ a.also = c.uids.drop 1 ∧ a.setf = c.setf ∧
        a.op = .store (bytes.map fun b => (keyIn ps b.1, b.2)) ∧
        ∀ x : Thread, s.thread? x.uid = some x → c.uids.contains x.uid = true → x.status ≠ .exited →
          s'.thread? x.uid = some { x with v := writeRegs x.v (wr1 d st.bits tagINT) }) ∧
    (∀ p (t : Thread), c.kind = .pass p → e.prod = none → e.again = true → e.fixed = false → e.ends + 4 * Config.ac ≤ s.clock →
      c.uids.head? = some t.uid → s.thread? t.uid = some t → t.status = .live →
      ∃ s' t' q, exec (.matrixRecompute core) s = .next s' ∧ s'.mem = s.mem ∧ (s'.core core).executing = [] ∧
        (s'.core core).mqueue = k.mqueue.filter (·.id < c.id) ∧ (s'.core core).mstat = (k.mstat.modify c.acc fun x => { x with fail := true }) ∧
        s'.thread? t.uid = some t' ∧ t'.status = .stopped q false ∧ q.cause = cMatrixIntegrity.cause ∧ q.pc = c.pc ∧ t'.v = t.v ∧
        ∀ g ∈ s'.wgs, g.lnum = c.lnum → g.idx = c.wg → g.mcheck = true) ∧
    (∀ p, c.kind = .pass p → e.prod = none → e.again = false → e.fixed = false → e.ends + 4 * Config.ac ≤ s.clock → k.flips = [] → 0 < p.mb →
      (∀ x, e.inj = some x → x.mode ≠ .twoTwice) →
      p.qa.length = 64 → p.qb.length = 64 → (∀ r ∈ p.qa, r.length = 32) → (∀ r ∈ p.qb, r.length = 32) →
      ∃ s' w, exec (.matrixRecompute core) s = .next s' ∧ s'.mem = s.mem ∧ s'.threads = s.threads ∧ w ∈ [0, 1, 2, 4, 8, 12] ∧
        (Config.arrayDemand ≤ s.power.grants.getD (s.physCore core / 84) 0 → w = 0) ∧
        (s'.core core).icntRetry = min 0xFFFF (k.icntRetry + 1) ∧
        (s'.core core).mexec = some { cmd := c, inj := e.inj, prod := some (products p), again := true
                                      ends := s.clock + (p.time + p.mb * w) * Config.ac, began := s.clock, stretch := w })) ∧
  (∀ (p : Pass),
    p.qa.length = 64 → p.qb.length = 64 → (∀ r ∈ p.qa, r.length = 32) → (∀ r ∈ p.qb, r.length = 32) →
    checkProducts p (products p) = some (products p, false) ∧
    ∀ (i j : Nat) (d : Int), i < 64 → j < 64 → d ≠ 0 →
      checkProducts p ((products p).modify i fun row => row.modify j (· + d)) = some (products p, true))

/-! System registers and identities. -/

/-- R213, R214, R225: SYSRD gives the register's value tagged RAW 2 ac later; an unassigned number, another width or a register
that SYSWR may not write traps with SYSREG, and a user thread at a privileged register with PRIVILEGE. A write to one of the
plain registers named reads back and leaves the others; to STICKY it clears the bits written as 1. That FBASE and WINBASE read back as
written, though R300 aligns what they name, is log 76.
R217, R218, R220, R222, R272, R361: IDRD, CLKRD and WEAR give their values tagged RAW 2 ac later, or trap; STRIG fires the
common trigger, and the registers latched then hold what the registers held. -/
def Obligations.SystemRegistersAndIdentities : Prop :=
  (∀ (s : State) (c : Ctl) (x : SysArgs),
    LanesFrom { s with free := s.free + 1 } s (.sysrd c x) c (fun t t' =>
      match sysCheck t x.num.toNat x.w64 false with
      | some e => TrapsWith s c e t t'
      | none => Completes s c 2 (wrw x.w64 x.r (s.sysRead t x.num.toNat) tagRAW) [] 0 t t') ∧
    (∀ (t : Thread) (write : Bool),
      (sysInfo x.num.toNat = none → sysCheck t x.num.toNat x.w64 write = some cSysreg) ∧
      (∀ i, sysInfo x.num.toNat = some i → (i.w64 ≠ x.w64 ∨ (write = true ∧ i.fixed = true)) →
        sysCheck t x.num.toNat x.w64 write = some cSysreg) ∧
      (∀ i, sysInfo x.num.toNat = some i → i.w64 = x.w64 → (write = true → i.fixed = false) →
        sysCheck t x.num.toNat x.w64 write =
          if t.priv = false ∧ (if write then i.uWrite else i.uRead) = false then some cPrivilege else none)) ∧
    (∀ t : Thread, s.solo c t →
      (∀ e, sysCheck t x.num.toNat x.w64 true = some e → Becomes s (.syswr c x) t (t.stoppedBy s e c.len.bytes)) ∧
      (x.num.toNat = 0x010 → x.w64 = false → Becomes s (.syswr c x) t
        { t.past s.clock (t.pc + BitVec.ofNat 64 c.len.bytes) with sticky := t.sticky &&& ~~~(t.val x.r &&& 0x3FF) }) ∧
      (let plain : List Nat := [0x105, 0x106, 0x350, 0x370, 0x40A, 0x40B, 0x40C]
       x.num.toNat ∈ plain → x.w64 = true → t.priv = true → ∃ s', exec (.syswr c x) s = .next s' ∧ s'.issue = none ∧ s'.mem = s.mem ∧
        s'.thread? t.uid = some (t.past s.clock (t.pc + BitVec.ofNat 64 c.len.bytes)) ∧
        (∀ u, u ≠ t.uid → s'.thread? u = s.thread? u) ∧ (∀ k, s'.devReg k x.num.toNat = t.pair x.r) ∧
        ∀ n ∈ plain, n ≠ x.num.toNat → ∀ k, s'.devReg k n = s.devReg k n))) ∧
  (∀ (s : State) (c : Ctl),
    (∀ (d : Reg) (sel : BitVec 8), LanesFrom { s with free := s.free + 1 } s (.idrd c d sel) c fun t t' =>
      match s.identity t sel.toNat (s.isDet t) with
      | some v => Completes s c 2 (wr1 d v tagRAW) [] 0 t t'
      | none => TrapsWith s c cPrivilege t t') ∧
    (∀ (d : Reg) (sel : BitVec 2), Lanes s (.clkrd c d sel) c fun t =>
      Completes s c 2 (wr2 d (s.clockValue t sel.toNat) tagRAW) [] 0 t) ∧
    (∀ (d : Reg) (sel : BitVec 16), let unit := sel.toNat % 256
      let k := sel.toNat / 256 % 16
      (wearKept unit k = true → Lanes s (.wear c d sel) c fun t => Completes s c 2 (wr2 d (dw (s.power.counter unit k)) tagRAW) [] 0 t) ∧
      (wearKept unit k = false → Lanes s (.wear c d sel) c fun t => TrapsWith s c cSysreg t)) ∧
    (∀ d : Reg, s.onUids c ≠ [] → LanesFrom s.latch s (.strig c d) c fun t =>
      Completes s c 2 (wr1 d (BitVec.ofNat 32 (s.cmd.trigger + 1)) tagRAW) [] 0 t) ∧
    (∀ n ∈ latchNums, perCore n = false → ∀ k, s.latch.snapReg k (n / 256) (n % 256) = s.devReg 0 n))

/-- R219, R299, R222, R396: HEAPSET, TLBINV and L1INV send their work, which performs at its place; a triple that fails its
checks traps, and L1INV of all cores is privileged. HEAPSET then writes the triple, L1INV empties the L1 caches its mode names, and TLBINV
drops the entries it names from every TLB and completes once the loads and stores then in flight have performed. The moments at
which they perform are log 71 and log 136. PWRREQ asks for its die and waits; on a control core it gives 0. -/
def Obligations.TranslationAndPower : Prop := ∀ (s : State) (c : Ctl) (t : Thread), s.solo c t →
  (∀ x : HeapSet, let ok := s.heapOk (t.val x.x) (t.pair x.a) (t.pair x.b) (t.optPair x.c)
    (ok = true → Sends s (.heapset c x) c t fun a =>
      a.op = .heapset (t.val x.x).toNat (t.pair x.a) (t.pair x.b) (t.optPair x.c)) ∧
    (ok = false → Becomes s (.heapset c x) t (t.stoppedBy s cSysreg c.len.bytes))) ∧
  (∀ x : TlbInv, Sends s (.tlbinv c x) c t fun a => a.op = .tlbinv x.mode.toNat t.ctx (t.pair x.a).toNat (t.val x.b).toNat none) ∧
  (∀ mode : BitVec 2, (mode ≠ 3 ∨ t.priv = true → Sends s (.l1inv c mode) c t fun a => a.op = .l1inv mode.toNat) ∧
    (mode = 3 → t.priv = false → Becomes s (.l1inv c mode) t (t.stoppedBy s cPrivilege c.len.bytes))) ∧
  (∀ (d a : Reg) (restore : Bool),
    (isControl t.loc.core = true → Becomes s (.pwrreq c d a restore) t
      ((t.past s.clock (t.pc + BitVec.ofNat 64 c.len.bytes)).withResult s.clock 2 c.setf (wr1 d 0 tagINT) [])) ∧
    (isControl t.loc.core = false → ∃ s', exec (.pwrreq c d a restore) s = .next s' ∧ s'.issue = none ∧ s'.mem = s.mem ∧
      s'.thread? t.uid = some (t.sent s.clock c) ∧ s'.power.grants = s.power.grants ∧
      s'.power.requests.find? (·.1 == s.physCore t.loc.core / 84) =
        (if restore then none else some (s.physCore t.loc.core / 84, min 600 (t.val a).toNat)) ∧
      s'.power.waiting = s.power.waiting ++ [{ uid := t.uid, d := d, die := s.physCore t.loc.core / 84, setf := c.setf }])) ∧
  (∀ (id : Nat) (a : Access) (ctx : Nat) (base limit off : DWord), s.ready? id = some a → a.op = .heapset ctx base limit off →
    ∃ s', exec (.storeComplete id) s = .next s' ∧ s'.mem = s.mem ∧ s'.mmu.hbase = s.mmu.hbase.set ctx base ∧
      s'.mmu.hlimit = s.mmu.hlimit.set ctx limit ∧ s'.mmu.hoff = s.mmu.hoff.set ctx off) ∧
  (∀ (id : Nat) (a : Access) (mode ctx va count : Nat), s.ready? id = some a →
    let hit (e : TlbEntry) : Prop := mode = 0 ∨ (mode = 1 ∧ e.ctx = ctx) ∨
      (2 ≤ mode ∧ e.va < va % 2 ^ 57 / 2 ^ 16 * 2 ^ 16 + (if mode = 3 then 1 else count) * 2 ^ 16 ∧
        va % 2 ^ 57 / 2 ^ 16 * 2 ^ 16 < e.va + e.size)
    (a.op = .tlbinv mode ctx va count none → ∃ s', exec (.storeComplete id) s = .next s' ∧ s'.mem = s.mem ∧
      (∀ e ∈ s'.mmu.tlb2, ¬ hit e) ∧ (∀ p ∈ s'.cores, ∀ e ∈ p.2.tlb, ¬ hit e) ∧
      ((∃ x ∈ s.inflight, x.op.loads = true ∨ x.op.stores = true) → ∃ b ∈ s'.inflight, ∃ ws, b.id = a.id ∧
        b.op = .tlbinv mode ctx va count (some ws) ∧ ∀ x ∈ s.inflight, x.op.loads = true ∨ x.op.stores = true → x.id ∈ ws)) ∧
    (∀ ws, a.op = .tlbinv mode ctx va count (some ws) → ∃ s', exec (.storeComplete id) s = .next s' ∧ s'.mem = s.mem ∧
      (∀ b ∈ s'.inflight, b.id ≠ a.id) ∧ s'.threads = (s.flagFall (a.uids ++ a.also) a.setf).threads)) ∧
  (∀ (id : Nat) (a : Access) (mode : Nat) (u : Thread), s.ready? id = some a → a.op = .l1inv mode → a.uids.head? = some u.uid →
    s.thread? u.uid = some u → ∃ s', exec (.storeComplete id) s = .next s' ∧ s'.mem = s.mem ∧ (∀ b ∈ s'.inflight, b.id ≠ a.id) ∧
      (mode ≠ 3 → (s'.core u.loc.core).l1 = (if mode = 1 then (s.core u.loc.core).l1 else []) ∧
        (s'.core u.loc.core).l1i = (if mode = 0 then (s.core u.loc.core).l1i else [])) ∧
      (mode = 3 → ∀ p ∈ s'.cores, p.2.l1 = [] ∧ p.2.l1i = []))

/-- R207, R247: MIGR of a thread whose flags are set takes it on its way to the die of the line it names, or home; it waits for
its flags, passes a MIGR.HOME at home, and traps in a deterministic kernel. MIGRATION_LAND seats it when its time has come, on the
lowest-numbered other logical core of the die whose landing slot in the lane is free and whose lane has registers for it (R3). -/
def Obligations.Migration : Prop := ∀ (s : State) (c : Ctl) (t : Thread) (a : Reg),
  let flags := (List.range 12).all t.flagSet
  let next : Thread := t.past s.clock (t.pc + BitVec.ofNat 64 c.len.bytes)
  let leaves (die : Option Nat) : Thread :=
    { next with hold := .migrating die (s.clock + 180 * Config.ns + t.v.length * Config.ns / 2) }
  (s.solo c t → isControl t.loc.core = false →
    (s.isDet t = true → ∀ home, Becomes s (.migr c a home) t (t.stoppedBy s (cDet 8) c.len.bytes)) ∧
    (s.isDet t = false → t.home = none → Becomes s (.migr c a true) t next) ∧
    (s.isDet t = false → t.home ≠ none → flags = true → Becomes s (.migr c a true) t (leaves none)) ∧
    (s.isDet t = false → flags = false → Becomes s (.migr c a false) t { t with hold := .retry .flags }) ∧
    (s.isDet t = false → flags = true → canonical (t.pair a) = true → ∀ die, s.migrHome t (t.pair a) = .ok die →
      Becomes s (.migr c a false) t (leaves (some die)))) ∧
  (s.thread? t.uid = some t → s.locks = [] →
    (∀ d due k, t.hold = .migrating (some d) due → due ≤ s.clock → s.landingCore t d = some k →
      ∃ s', exec (.migrationLand t.uid) s = .next s' ∧ s'.mem = s.mem ∧ s'.thread? t.uid = some { t with
        loc := { t.loc with core := k, slot := 16 }, home := some (t.home.getD t.loc), hold := .free, lastIssue := none, ready := none }) ∧
    (∀ h due, t.hold = .migrating none due → due ≤ s.clock → t.home = some h →
      ∃ s', exec (.migrationLand t.uid) s = .next s' ∧ s'.mem = s.mem ∧ s'.thread? t.uid = some { t with
        loc := h, home := none, hold := .free, lastIssue := none, ready := none })) ∧
  (let fits (d k : Nat) : Prop := k < s.enabled.length ∧ s.physCore k / 84 = d ∧ s.power.dieState.getD d 0 = 0 ∧ k ≠ t.loc.core ∧
      t.home.map (·.core) ≠ some k ∧
      (∀ x ∈ s.threads, s.keepsSlot x = true → x.loc ≠ { core := k, quad := t.loc.quad, lane := t.loc.lane, slot := 16 }) ∧
      s.laneRegs k t.loc.quad t.loc.lane + t.v.length ≤ 512
    ∀ d k, s.landingCore t d = some k ↔ fits d k ∧ ∀ j, j < k → ¬ fits d j)

/-! Traps, halts. -/

/-- R216, R277: TRET sends a stopped thread on, after the instruction, at it, or elsewhere, its stall elapsed and the flag counts of
its discarded accesses removed, and answers 0; a record not yet posted stays to be posted. It answers 1 where the handle names no
thread stopped by a trap, 2 where the mode does not suit the cause; KILL ends the thread and its workgroup. That it acts on a thread whose
record is not posted yet, and that the record stays, is log 72. -/
def Obligations.TrapReturn : Prop := ∀ (s : State) (c : Ctl) (t : Thread) (x : TRet), s.solo c t →
  let answer (n : Word) : Thread :=
    (t.past s.clock (t.pc + BitVec.ofNat 64 c.len.bytes)).withResult s.clock 2 c.setf (wr1 x.d n tagRAW) []
  (s.stoppedBy (t.val x.a) = none → Becomes s (.tret c x) t (answer 1)) ∧
  (∀ (u : Thread) (r : TrapRec), s.stoppedBy (t.val x.a) = some (u, r) → s.thread? u.uid = some u → u.uid ≠ t.uid →
    let fatal := 0x40 ≤ r.cause.toNat
    let early := 1 ≤ r.cause.toNat ∧ r.cause.toNat ≤ 3
    let kept : State := if u.status = .stopped r true then s
      else { s with cmd := { s.cmd with trapWait := s.cmd.trapWait ++ [(s.handleOf u.loc, r)] } }
    let goes (pc : DWord) : Prop := ∃ s', exec (.tret c x) s = .next s' ∧ s'.issue = none ∧ Quiet kept s' [t.uid, u.uid] ∧
      s'.thread? t.uid = some (answer 0) ∧
      s'.thread? u.uid = some { r.drop.foldl (fun (v : Thread) f => v.flagSub f) u with
        status := .live, pc := pc, hold := .free, lastIssue := none }
    (x.mode = .next → ¬ fatal → ¬ early → goes (r.pc + BitVec.ofNat 64 r.ilen)) ∧
    (x.mode = .next → fatal ∨ early → Becomes s (.tret c x) t (answer 2)) ∧
    (x.mode = .retry → ¬ fatal → goes r.pc) ∧ (x.mode = .retry → fatal → Becomes s (.tret c x) t (answer 2)) ∧
    (x.mode = .goto → ¬ fatal → canonical (t.pair x.b) = true → goes (t.pair x.b)) ∧
    (x.mode = .goto → fatal ∨ canonical (t.pair x.b) = false → Becomes s (.tret c x) t (answer 2)) ∧
    (x.mode = .kill → ∃ s', exec (.tret c x) s = .next s' ∧ s'.issue = none ∧
      (s'.thread? u.uid).map (·.status) = some .exited ∧
      ∀ g, s.wgOf u = some g → g.lnum ≠ 0 → (s'.wg? g.lnum g.idx).map (·.killed) = some true ∧
        ∀ v : Thread, s.thread? v.uid = some v → s.wgOf v = some g → (s'.thread? v.uid).map (·.status) = some .exited))

/-- R86, R221, R283 to R285: BRK without BRKEN and DBGHALT without HALTEN only pass; with it the workgroup halts and the trigger
fires. HALT.0 holds its thread, HALT.1 quiesces on the ridge pair alone. HALTREQ halts every workgroup of the launch that
DBG.LAUNCH names, RESUME ends that, HTIMER_EVENT passes the threads that HALT.0 holds. -/
def Obligations.Halts : Prop := ∀ (s : State) (c : Ctl),
  (∀ (t : Thread) (l : Launch) (g : Wg), s.firstOn c = some (t, l) → s.wgOf t = some g →
    let halts (i : Instr) : Prop := ∃ s', exec i s = .next s' ∧ s'.issue = none ∧ s'.mem = s.mem ∧
      s'.cmd.trigger = s.cmd.trigger + 1 ∧ (s'.wg? g.lnum g.idx).map (·.halted) = some true
    (∀ tag, (l.brken = false → Lanes s (.brk c tag) c fun u u' => u' = u.past s.clock (u.pc + BitVec.ofNat 64 c.len.bytes)) ∧
      (l.brken = true → halts (.brk c tag))) ∧
    (l.halten = false → Lanes s (.dbghalt c) c fun u u' => u' = u.past s.clock (u.pc + BitVec.ofNat 64 c.len.bytes)) ∧
    (l.halten = true → halts (.dbghalt c))) ∧
  (∀ t : Thread, s.solo c t → Becomes s (.halt c false) t (t.heldAt c .halt0) ∧
    (t.loc.core ≠ 688 → Becomes s (.halt c true) t (t.stoppedBy s cPrivilege c.len.bytes)) ∧
    (t.loc.core = 688 → ∃ s', exec (.halt c true) s = .next s' ∧ s'.cmd.quiesced = true ∧ ∀ r ∈ s'.cmd.rings, r.frozen = true)) ∧
  (∀ (idx : Nat) (g : Wg), s.wg? s.cmd.dbgLaunch.toNat idx = some g → s.cmd.dbgLaunch ≠ 0 →
    (g.state ≠ .ended → ∃ s' g', exec .haltreq s = .next s' ∧ s'.mem = s.mem ∧ s'.wg? g.lnum idx = some g' ∧ g'.halted = true) ∧
    (∃ s' g', exec .resume s = .next s' ∧ s'.mem = s.mem ∧ s'.wg? g.lnum idx = some g' ∧ g'.halted = false)) ∧
  (∀ core period, ∃ s', exec (.htimerWrite core period) s = .next s' ∧ s'.threads = s.threads ∧ s'.mem = s.mem ∧
    (s'.core core).htimer = period % 2 ^ 24 ∧ (s'.core core).htimerSince = s.clock) ∧
  (∀ core, let k := s.core core
    k.htimer ≠ 0 → k.htimerSince + k.htimer * Config.us ≤ s.clock → ∃ s', exec (.htimerEvent core) s = .next s' ∧ s'.mem = s.mem ∧
      s'.threads = s.threads.map fun t => if (s.threads.filter fun u => u.loc.core == core && u.hold == .halt0).any (·.uid == t.uid)
        then t.past s.clock (t.pc + BitVec.ofNat 64 t.ilen) else t)

/-- R74, R215, R306, R378, R379: a stopped thread's record is posted into the trap queue when its trap has happened and there is
room; the ridge pair consumes the next record, reports it, and ends the workgroup where its launch says so; a waiting event goes
to the host's ring and a fault record to its buffer, with their counts.
The layout of the event ring (log 31, DESIGN CHOICE) and the address of the trap queue (log 14, DESIGN CHOICE) are the model's. -/
def Obligations.RecordsArePosted : Prop := ∀ (s : State),
  (∀ (t : Thread) (r : TrapRec) (g : Wg), s.thread? t.uid = some t → t.status = .stopped r false → t.hold = .free → s.wgOf t = some g →
    g.state = .placed → r.due ≤ s.clock → s.trapRoom = true → (∀ x ∈ s.threads, x.uid = t.uid → x = t) →
    ∃ s', exec (.trapRecordPost t.uid) s = .next s' ∧ s'.cmd.trapWr = (s.cmd.trapWr + 1) % 2 ^ 32 ∧
      Stored s s' (cellsAt (Config.trapqBase + 32 * (s.cmd.trapWr % 4096)) (r.bytes (s.handleOf t.loc))) ∧
      s'.thread? t.uid = some { t with status := .stopped r true }) ∧
  (let bs := (List.range 32).map fun i => memGet s.mem (Config.trapqBase + 32 * (s.cmd.trapRd % 4096) + i)
   let n := (s.cmd.trapWr + 2 ^ 32 - s.cmd.trapRd) % 2 ^ 32
   let cause := field bs 4 1
   let handle : Word := BitVec.ofNat 32 (field bs 0 4)
   ∀ l : Launch, s.cmd.ridge = .running → s.mmu.ilvEdit = false → 0 < n → n ≤ 4096 → s.launch? (field bs 0x18 4) = some l → cause < 0x40 → cause ≠ 0x38 →
    handle.toNat / 2 ^ 22 < 672 →
    ∃ s' e, exec .trapDispose s = .next s' ∧ s'.cmd.trapRd = (s.cmd.trapRd + 1) % 2 ^ 32 ∧ e ∈ s'.cmd.eventWait ∧ e.type = 1 ∧
      e.body = padTo 32 bs ∧ (l.tpol ≠ 0 → s'.threads = s.threads ∧ s'.mem = s.mem) ∧
      (l.tpol = 0 → ∀ (u : Thread) (r : TrapRec), s.stoppedBy handle = some (u, r) → (s'.thread? u.uid).map (·.status) = some .exited)) ∧
  (∀ (e : EventRec) (rest : List EventRec), s.cmd.eventWait = e :: rest →
    let base := s.cmd.eventBase.toNat
    let slot := base + 64 + 64 * (e.seq % max 1 s.cmd.eventSize)
    (e.seq + 2 ^ 32 - s.readHome s.cmd.eventWord.toNat 4) % 2 ^ 32 < s.cmd.eventSize →
    s.editHolds [s.cmd.eventWord.toNat] = false → s.apertureOk (slot + 63) = true →
    ∃ s', exec .eventPost s = .next s' ∧ s'.cmd.eventWait = rest ∧ s'.threads = s.threads ∧
      Stored s s' (cellsAt (s.hostKey slot) e.bytes ++ bytesAt (s.hostKey base) 4 ((e.seq + 1) % 2 ^ 32))) ∧
  (∀ r : FaultRec, let m := s.mmu
    let nrec := m.fctl.toNat % 2 ^ 16
    m.fctl.getLsbD 31 = true → s.editHolds [s.homed m.fbase.toNat] = false →
    (m.nextSeq + 2 ^ 32 - s.faultRd) % 2 ^ 32 < nrec → m.recs.find? (·.seq.isNone) = some r →
    ∃ s', exec .faultRecordPost s = .next s' ∧ s'.threads = s.threads ∧ s'.mmu.nextSeq = (m.nextSeq + 1) % 2 ^ 32 ∧
      Stored s s' (cellsAt (s.homed (m.fbase.toNat + 64 + 32 * (m.nextSeq % nrec))) (r.bytes m.nextSeq) ++
        bytesAt (s.homed m.fbase.toNat) 4 ((m.nextSeq + 1) % 2 ^ 32)))

/-! What lands and what completes. -/

/-- R27, R79, R116: RESULT_WRITEBACK writes the registers and predicates of the results that are due, in their order, and lets
their flags fall; DIRECTIONAL_WRITE lands a wave's writes that are due. No memory changes, and no other thread.
R152: an MGET that is due, and waits for no command, lands in all its participants with it: element i of lane L in register d + i,
tagged F32, as the accumulator stood, and its flags fall.
R162, R161, R334, R342: a write-combined line leaves its buffer as one store; a line leaves an L1 or the ridge cache without
a byte of memory changing; the oldest entry of the persist queue reaches the SCM media. -/
def Obligations.ResultsAndLines : Prop :=
  (∀ (s : State),
    (∀ t : Thread, s.thread? t.uid = some t → s.mgetsDue t.homeCore t.uid = [] →
      let due := t.pend.filter fun p => decide (p.due ≤ s.clock)
      ∃ s' t', exec (.resultWriteback t.uid) s = .next s' ∧ s'.mem = s.mem ∧ s'.thread? t.uid = some t' ∧
        (∀ u, u ≠ t.uid → s'.thread? u = s.thread? u) ∧ s'.waves = s.waves ∧ s'.launches = s.launches ∧
        t'.v = writeRegs t.v (due.flatMap (·.regs)) ∧ t'.preds = writePreds t.preds (due.flatMap (·.preds)) ∧
        t'.flags = due.foldl (fun fs p => match p.flag with | some f => fs.modify f (· - 1) | none => fs) t.flags ∧
        t'.pend = (t.pend.filter fun p => decide (s.clock < p.due)) ∧
        t' = { t with v := t'.v, preds := t'.preds, flags := t'.flags, pend := t'.pend }) ∧
    (∀ (t : Thread) (g : MGetPend) (h : List Word), s.thread? t.uid = some t → t.pend = [] → s.mgetsDue t.homeCore t.uid = [g] →
      (s.core t.homeCore).mgetSees g = [h] → (s.core t.homeCore).accBad = [] → g.uids.Nodup →
      ∃ s', exec (.resultWriteback t.uid) s = .next s' ∧ s'.mem = s.mem ∧ (∀ q ∈ (s'.core t.homeCore).mgets, q.id ≠ g.id) ∧
        ∀ x : Thread, s.thread? x.uid = some x → g.uids.contains x.uid = true → x.status ≠ .exited →
          s'.thread? x.uid = some (({ x with v := writeRegs x.v ((List.range g.cnt).flatMap fun i =>
            if g.d = 255 then [] else [(g.d.toNat + i, { val := h.getD (64 * i + x.loc.lane) 0, tag := tagF32, scale := 0 })])
          } : Thread).flagSub g.setf)) ∧
    (∀ (w : Wave) (p : DPend), s.wave? w.wid = some w → w.dpend = [p] → p.due ≤ s.clock →
      ∃ s' w', exec (.directionalWrite w.wid) s = .next s' ∧ s'.threads = s.threads ∧ s'.mem = s.mem ∧ s'.wave? w.wid = some w' ∧
        w'.dpend = [] ∧
        (∀ cs, p.comps = some cs → w.dlast.getD p.reg 0 ≤ p.seq → w'.d = w.d.set p.reg cs) ∧
        (∀ n, p.norm = some n → w.nlast.getD p.reg 0 ≤ p.seq → w'.n = w.n.set p.reg n) ∧
        (p.comps = none → w'.d = w.d) ∧ (p.norm = none → w'.n = w.n))) ∧
  (∀ (s : State),
    (∀ (core : Nat) (l : WcLine), (s.core core).wcb = [l] →
      ∃ s' a, exec (.wcLineFlush core l.line) s = .next s' ∧ s'.mem = s.mem ∧ s'.threads = s.threads ∧ (s'.core core).wcb = [] ∧
        a ∈ s'.inflight ∧ a.op = .store l.bytes) ∧
    (∀ core line, ∃ s', exec (.l1LineReplacement core line) s = .next s' ∧ s'.mem = s.mem ∧ s'.threads = s.threads ∧
      ∀ e ∈ (s'.core core).l1, e.1 ≠ line) ∧
    (∀ line, s.dirty.contains line = true → s.pqRoom 256 = true → ∃ s', exec (.ridgeCacheEviction line) s = .next s' ∧
      s'.mem = s.mem ∧ s'.dirty = s.dirty.filter (· != line) ∧
      s'.pq = s.pq ++ (List.range 256).map fun i => (line * 256 + i, memGet s.mem (line * 256 + i))) ∧
    (∀ (e : PqEntry) (rest : List PqEntry), s.pq = e :: rest → ∃ s', exec .persistDrain s = .next s' ∧ s'.mem = s.mem ∧
      s'.threads = s.threads ∧ s'.pq = rest ∧ memGet s'.media e.1 = e.2 ∧ ∀ k, k ≠ e.1 → memGet s'.media k = memGet s.media k))

/-- R169, R170, R173 to R175, R186, R187: a chunk of a command that may start it is written at its home, whatever the command, its peer
apart; the bytes of COPY are those of its source. The chunk at the resume point is credited to the command's barrier object with the
conditions that its conversions raised, and the last credit ends the command and lowers INFLIGHT (R178); a later chunk waits for the
earlier ones and is credited with them. A chunk of RGET or RPUT leaves for its peer on virtual lane 0 while a link serves it, and is
written or credited when the peer answers; the peer's refusal cancels the command, whose uncredited bytes are credited as poisoned
(R172; log 153 gives the refusal's form). A collective whose every member has joined has its data (R187 to R189).
The order in which chunks are started is the environment's. -/
def Obligations.EnginesWork : Prop := ∀ (s : State) (x : EngCmd),
  (s.cmds.find? (·.id == x.id) = some x → x.bytes < x.total → Config.vwin ≤ x.bar → s.poisoned x.bar 32 = false →
    let b := s.barGet x.bar
    let frame (s' : State) (bs : List (Nat × Byte)) : Prop := s'.threads = s.threads ∧ s'.waves = s.waves ∧
      ∀ k, k < x.bar ∨ x.bar + 28 ≤ k → memGet s'.mem k = (lastByte bs k).getD (memGet s.mem k)
    let credited (s' : State) (i n : Nat) (cond : Word) : Prop :=
      s'.barGet x.bar = ({ b with inflight := if x.bytes + n = x.total then b.inflight - 1 else b.inflight } : BarObj).credit n
        (x.cond ||| cond).toNat false ∧
      s'.cmds.find? (·.id == x.id) = if x.bytes + n = x.total then none
        else some { x with written := x.written ++ [i], sent := x.sent.filter (· != i), cond := 0, credited := x.credited + 1
                           bytes := x.bytes + n }
    let later (s' : State) (i : Nat) (cond : Word) : Prop := s'.barGet x.bar = b ∧ s'.cmds.find? (·.id == x.id) =
      some { x with written := x.written ++ [i], sent := x.sent.filter (· != i), cond := x.cond ||| cond }
    let cancelled (s' : State) : Prop := (∀ y ∈ s'.cmds, y.id ≠ x.id) ∧
      s'.barGet x.bar = ({ b with inflight := b.inflight - 1 } : BarObj).credit (x.total - x.bytes) 0 true
    let put (s' : State) (i n : Nat) (ws : List (DWord × Byte)) (cond : Word) (ks : List (Nat × Bool)) : Prop :=
      frame s' ((ks.map (·.1)).zip (ws.map (·.2))) ∧
      (i = x.credited → x.written.contains (i + 1) = false → credited s' i n cond) ∧
      (x.credited < i → x.written.contains x.credited = false → later s' i cond)
    let room (ks : List (Nat × Bool)) (per : Bool) : Prop :=
      (∀ k ∈ ks, k.2 = per ∧ s.stagingFull (k.1 / 64) = false ∧ (k.1 < x.bar ∨ x.bar + 32 ≤ k.1)) ∧
      s.pqRoom (if per then ks.length else 0) = true
    (∀ i, s.cmdReady x = true → x.chunkOk i = true → (∀ va bs, x.op ≠ .record va bs true) → s.peerOf x = none →
      (∀ ws cond ks per, s.chunkWork x i [] = .ok (ws, cond) → s.engKeys x.ctx x.priv (ws.map (·.1)) = .ok ks → room ks per →
        ∃ s', exec (.engineChunkWrite x.id i []) s = .next s' ∧
          put s' i (if x.sizes = [] then ws.length else x.sizes.getD i 0) ws cond ks) ∧
      (∀ d r n ws cond, x.op = .copy d r n → s.chunkWork x i [] = .ok (ws, cond) →
        let p := (lineParts d n).getD i (0, 0)
        cond = 0 ∧ ws.map (·.1) = vaRange (d + BitVec.ofNat 64 p.1) p.2 ∧
        ∀ j, j < p.2 → ∃ k per, s.engKey x.ctx x.priv .read (r + BitVec.ofNat 64 p.1 + BitVec.ofNat 64 j) = .ok (k, per) ∧
          (ws.map (·.2))[j]? = some (s.cmdByte x k))) ∧
    (∀ i k, s.cmdReady x = true → x.chunkOk i = true → s.peerOf x = some k →
      let sends (m : Out) : Prop := ∃ s', exec (.engineChunkWrite x.id i []) s = .next s' ∧ s'.mem = s.mem ∧ s'.threads = s.threads ∧
        s'.cmd.outbox = (s.engOut x (s.chunkSources x i)).cmd.outbox ++ [m] ∧
        s'.cmds.find? (·.id == x.id) = some { x with sent := x.sent ++ [i] }
      (s.laneOpen k 0 = false → exec (.engineChunkWrite x.id i []) s = .next s) ∧
      (∀ l r n q, s.laneOpen k 0 = true → x.op = .rget l r n q →
        let p := (lineParts l n).getD i (0, 0)
        sends (.remoteRead k (r + BitVec.ofNat 64 p.1) p.2 x.priv x.id i)) ∧
      (∀ r l n q ws cond, s.laneOpen k 0 = true → x.op = .rput r l n q → s.chunkWork x i [] = .ok (ws, cond) → ws ≠ [] →
        sends (.remoteWrite k ((ws.headD (0, 0)).1) (ws.map (·.2)) x.priv x.id i))) ∧
    (∀ i (remote : List Byte), s.cmdLands x = true → remote ≠ [] → x.sent.contains i = true →
      (∀ r l n q, x.op = .rput r l n q →
        (remote = [0] → ∃ s', exec (.engineChunkWrite x.id i remote) s = .next s' ∧ frame s' [] ∧ cancelled s') ∧
        (remote ≠ [0] → i = x.credited → i < x.sizes.length → x.written.contains (i + 1) = false →
          ∃ s', exec (.engineChunkWrite x.id i remote) s = .next s' ∧ frame s' [] ∧ credited s' i (x.sizes.getD i 0) 0)) ∧
      (∀ l r n q ks per, x.op = .rget l r n q →
        let p := (lineParts l n).getD i (0, 0)
        let vas := vaRange (l + BitVec.ofNat 64 p.1) p.2
        (remote.length ≠ p.2 → ∃ s', exec (.engineChunkWrite x.id i remote) s = .next s' ∧ frame s' [] ∧ cancelled s') ∧
        (remote.length = p.2 → i < x.sizes.length → s.engKeys x.ctx x.priv vas = .ok ks → room ks per →
          ∃ s', exec (.engineChunkWrite x.id i remote) s = .next s' ∧ put s' i p.2 (vas.zip remote) 0 ks)))) ∧
  (∀ (g : Group) (kind : Nat) (d r : TRec) (op : COp) (root place : Nat) (peers : List PeerPart) (mine : PeerPart),
    s.cmds = [x] → x.op = .coll kind d r g.num op root place → x.data = none → s.cmd.groups.find? (·.num == g.num) = some g →
    let others := g.ranks.filter (· != s.cmd.rank)
    let parts := g.ranks.filterMap fun k => if k == s.cmd.rank then some mine else peers.find? (·.rank == k)
    (others.all fun k => peers.any (·.rank == k)) = true →
    (∀ p ∈ peers, others.contains p.rank = true ∧ p.place = place ∧ p.cancelled = false) →
    s.cmdReady { x with data := some [] } = true →
    s.ownPart x kind d r op root place (kind != 2 || g.ranks.getD root 0 == s.cmd.rank) = .ok mine → collAgree parts = true →
    exec (.collectiveJoin g.num peers) s = .next { s with cmds := [{ x with
      data := some (collBytes kind root op d parts).1, cond := (collBytes kind root op d parts).2 }] })

/-! Work and launches. -/

/-- R208, R210, R211, R220: when every thread of a launch is held at SSTEP and everything has settled, what the exited threads had issued
too, the commit applies the
deferred entries, starts the next superstep with the lines then private, and frees them; CLUSTER_BARRIER_COMPLETE frees a cluster's threads; STEP_ADVANCE
advances the device step and gives it to the launch's threads. -/
def Obligations.StepsCommit : Prop := ∀ (s : State) (lnum : Nat),
  (∀ l : Launch, s.launch? lnum = some l → l.hdr.det = true → s.launchThreads lnum ≠ [] → s.allHeld lnum (· == .sstep) = true →
    s.settled (s.commitUids lnum) = true → (∀ d ∈ l.deferred, s.commitReady d = true) →
    (∃ g ∈ s.wgs, g.lnum = lnum ∧ g.state ≠ .ended ∧ g.killed = false) →
    ∃ s', exec (.superstepCommit lnum) s = .next s' ∧
      (s'.launch? lnum).map (fun x => (x.deferred, x.claims, x.superstep, x.owned)) =
        some ([], [], l.superstep + 1, ownedOf (s.ownRoom lnum) l.claims) ∧
      (l.deferred = [] → s'.mem = s.mem ∧ s'.threads = s.threads.map fun t => if (s.launchThreads lnum).contains t.uid
        then t.past s.clock (t.pc + BitVec.ofNat 64 t.ilen) else t) ∧
      ∀ d, l.deferred = [d] → d.red = none → Stored s s' d.bytes) ∧
  (∀ cluster id : Nat,
    let gs := s.wgs.filter fun g => g.lnum == lnum && s.clusterOf g.core == cluster && g.state != .ended
    let ts := gs.flatMap fun g => s.wgThreads g.lnum g.idx
    ts ≠ [] → (∀ g ∈ gs, g.state = .placed) → s.settled (ts.map (·.uid)) = true →
    (∀ t ∈ ts, t.home = none ∧ t.status = .live ∧ t.hold = .cbar id) →
    let after := s.threads.map fun t => if (ts.map (·.uid)).contains t.uid then t.past s.clock (t.pc + BitVec.ofNat 64 t.ilen) else t
    exec (.clusterBarrierComplete lnum cluster id) s = .next { s with threads := after }) ∧
  (s.launchThreads lnum ≠ [] → s.settled (s.launchThreads lnum) = true → s.advanceWaits = false →
    (∀ t ∈ s.threads, s.lnumOf t = lnum → t.status ≠ .exited → t.status = .live ∧ ∃ d, t.hold = .stepadv d) →
    (∀ g ∈ s.wgs, g.lnum = lnum → g.state ≠ .waiting) →
    ∃ s', exec (.stepAdvance lnum) s = .next s' ∧ s'.mem = s.mem ∧ s'.ckpt.step = s.ckpt.step + 1 ∧
      (s.trigger = false → s'.ckpt = { s.ckpt with step := s.ckpt.step + 1 }) ∧
      (s.trigger = true → s'.ckpt.sweep = some { step := s.ckpt.step, region := 0, offset := 0, image := [], started := s.clock }) ∧
      ∀ (t : Thread) (d : Reg), s.thread? t.uid = some t → (s.launchThreads lnum).contains t.uid = true → t.hold = .stepadv d →
        s'.thread? t.uid = some ((t.past s.clock (t.pc + BitVec.ofNat 64 t.ilen)).withResult s.clock 2 t.setf
          (wr1 d (s.ckpt.step + 1) tagINT) []))

/-- R249, R250, R263, R264, R278 to R280: a workgroup with room on its core is placed whole, its threads at the entry with ARGP in
v0 and v1; one whose threads have all exited ends when nothing of it is outstanding; a killed one's threads end; a pre-emption by
SAVE stops it, ends when it is still, and gives its places up until WORKGROUP_RESTORE. -/
def Obligations.Workgroups : Prop := ∀ (s : State) (lnum idx : Nat) (l : Launch) (g : Wg),
  s.launch? lnum = some l → s.wg? lnum idx = some g → lnum ≠ 0 →
  (∀ sl v, g.state = .waiting → s.cmd.ridge = .running → s.firstWaiting g.core = some lnum → s.predUnplaced l g.core = false →
    s.roomFor g.core g.hdr = some (sl, v) → l.objs = [] →
    ∃ s', exec (.workgroupPlace lnum idx) s = .next s' ∧ s'.mem = s.mem ∧ (s'.wg? lnum idx).map (·.state) = some .placed ∧
      s'.threads.length = s.threads.length + 64 * g.hdr.nwave ∧
      ∀ t ∈ s'.threads.drop s.threads.length, t.pc = g.hdr.entry ∧ t.status = .live ∧ t.hold = .free ∧ t.loc.core = g.core ∧
        t.pair 0 = l.argp ∧ t.preds = 0 ∧ t.sticky = 0 ∧ t.v.length = max 2 g.hdr.nvreg) ∧
  (g.state = .placed → s.wgThreads lnum idx = [] → s.wgQuiet lnum idx = true → (s.core g.core).owner ≠ some (lnum, idx) →
    ∃ s', exec (.workgroupEnd lnum idx) s = .next s' ∧ s'.mem = s.mem ∧ s'.threads = s.threads ∧
      (s'.wg? lnum idx).map (·.state) = some .ended) ∧
  (g.state = .placed → ∃ s', exec (.workgroupKill lnum idx) s = .next s' ∧
    ∀ t ∈ s.wgThreads lnum idx, s.thread? t.uid = some t → (s'.thread? t.uid).map (·.status) = some .exited) ∧
  (∀ bound area, s.preemptable g = true → g.stopping = none → s.cmd.ridge = .running → (∀ x ∈ s.wgs, x.stopping = none) →
    area % 4096 = 0 → s.spaceOf area = .hbm →
    ∃ s', exec (.preempt lnum idx bound area) s = .next s' ∧ (s.locks = [] → s'.mem = s.mem) ∧
      (s'.wg? lnum idx).map (·.stopping) = some (some (s.preemptKind g bound, some area))) ∧
  (∀ bound area kind a, s.preemptable g = true → g.stopping = some (kind, a) → s.wgStill g kind = true →
    (a.isSome = true → s.mmu.ilvEdit = false) → (s.core g.core).accBad = [] →
    ∃ s', exec (.preempt lnum idx bound area) s = .next s' ∧
      (s'.wg? lnum idx).map (fun x => (x.state, x.stopping, x.saved.isSome)) = some (.saved, none, true)) ∧
  (∀ v slots, g.state = .saved → g.saved = some v → s.cmd.ridge = .running → s.cmd.quiesced = false → s.power.retiring = [] →
    (v.area.isSome = true → s.mmu.ilvEdit = false) → s.pinsReady g = true → s.roomAgain g = some slots → s.mmu.log = [] → s.mmu.waiters = [] →
    ∃ s', exec (.workgroupRestore lnum idx) s = .next s' ∧
      (s'.wg? lnum idx).map (fun x => (x.state, x.saved.isSome)) = some (.placed, false))

/-! Device steps, snapshots, yealms. -/

/-- R341, R345 to R350: the timer's expiry, EN and RSIZE writes, the device's own step, the sweep line by line to its end, the
forced save of a line, and the completion of a snapshot and of a CKPT.1. The layout of what a snapshot stores in its area is the
model's (log 28). -/
def Obligations.Snapshots : Prop := ∀ (s : State),
  (s.timerElapsed = true → exec .ckptTimerExpire s = .next { s with ckpt := { s.ckpt with timerDue := true } }) ∧
  (∃ s', exec .ckptEnWrite s = .next s' ∧ s'.mem = s.mem ∧ s'.threads = s.threads ∧ s'.ckpt.en = true ∧ s'.ckpt.lastTime = s.clock ∧
    s'.ckpt.lastStep = s.ckpt.step) ∧
  (∀ (i : Nat) (v : DWord), i < 8 → s.sysOk (0x411 + 2 * i) v = true → s.ckpt.sweep = none → ∃ s', exec (.rsizeWrite i v) s = .next s' ∧
    s'.mem = s.mem ∧ s'.threads = s.threads ∧ s'.ckpt = { s.ckpt with rsize := s.ckpt.rsize.set i v }) ∧
  ((s.ckpt.reqs.any fun r => r.waitsSnap) = true → s.stepResident = false → s.ckpt.sweep = none →
    ∃ s', exec .ckptSelfAdvance s = .next s' ∧ s'.mem = s.mem ∧ s'.threads = s.threads ∧ s'.ckpt.step = s.ckpt.step + 1 ∧
      ∃ w, s'.ckpt.sweep = some w ∧ w.step = s.ckpt.step) ∧
  (∀ w : Sweep, s.ckpt.sweep = some w →
    (w.region < s.ckpt.nreg → w.offset < (s.ckpt.rsize.getD w.region 0).toNat →
      let line := s.homed ((s.ckpt.rbase.getD w.region 0).toNat + w.offset) / 64
      let copy := ((List.range 64).map fun i => memGet s.mem (line * 64 + i), s.poison.contains line)
      s.editHolds [line * 64] = false → ∃ s', exec .sweepLine s = .next s' ∧ s'.mem = s.mem ∧ s'.threads = s.threads ∧
        s'.ckpt.sweep = some { w with offset := w.offset + 64
                                      image := if s.oldLine w.step line then w.image ++ [(line, copy)] else w.image }) ∧
    (s.ckpt.nreg ≤ w.region → s.ckpt.image = none → ∃ s' g, exec .sweepLine s = .next s' ∧ s'.mem = s.mem ∧ s'.ckpt.sweep = none ∧
      s'.ckpt.image = some g ∧ g.step = w.step)) ∧
  (∀ (id : Nat) (a : Access) (key n : Nat), s.ready? id = some a → a.writes = [(key, n)] → 0 < n → key % 64 + n ≤ 64 →
    s.spaceOf (s.dpaOf (key / 64 * 64)) = .hbm → exec (.forcedSave id) s = .next (s.forceLine (key / 64))) ∧
  (∀ (g : SnapGen) (peers : List PeerSnap), s.ckpt.image = some g → (∀ r ∈ s.ckpt.reqs, r.mode = true) →
    g.allHere peers = true → ∃ s', exec (.snapshotComplete peers) s = .next s' ∧ Stored s s' (s.genDone g peers).cells ∧ s'.threads = s.threads ∧ s'.ckpt.lastok = g.step ∧
      s'.ckpt.image = none ∧ (s'.ckpt.gens.head?).map (·.step) = some g.step) ∧
  (∀ r : CkptReq, s.ckpt.reqs.find? (·.mode) = some r → (∀ g ∈ s.wgs, s.preemptable g = false) →
    s.poisoned (r.bar.getD 0) 32 = false →
    ∃ s', exec (.ckptComplete false) s = .next s' ∧ s'.threads = s.threads ∧ (∀ q ∈ s'.ckpt.reqs, q.mode = false) ∧
      s'.ckpt.whole = s.wholeImage)

/-- R290, R313, R315, R349: the head of the stream queue begins to stream; a stream that ends makes the yealm resident, its slot
holding the bytes of its shards, or leaves the slot reserved for a rebuild, which stores the shard and queues the stream. -/
def Obligations.YealmStreams : Prop := ∀ (s : State),
  (∀ (d y n : Nat) (rest : List (Nat × Nat)), s.wanted = [] → s.streaming = none → s.thatches.queue = (d, y) :: rest →
    (List.range s.thatches.slots.length).find? (fun n => s.thatches.slots.getD n .empty == .reserved d y) = some n →
    ∃ s', exec .yealmStreamStart s = .next s' ∧ s'.mem = s.mem ∧ s'.threads = s.threads ∧ s'.thatches.queue = rest ∧
      s'.thatches.slots = s.thatches.slots.set n (.filling d y)) ∧
  (∀ (n d y : Nat) (t : Thatch), s.streaming = some (n, d, y) → s.thatch? d = some t →
    (∀ k, k < t.k → ∃ s', exec (.yealmArrive (some k)) s = .next s' ∧ s'.mem = s.mem ∧ s'.threads = s.threads ∧
      s'.thatches.slots = s.thatches.slots.set n (.reserved d y) ∧ s'.thatches.failed = s.thatches.failed ++ [(d, y, k)]) ∧
    (s.badShard t y = none → s.mmu.ilvEdit = false → s.thatches.swaps = [] → s.cmd.remote = [] → Memory.wf s.mem = true →
      t.ysize ≤ s.slotSize → (∀ i < t.ysize, s.homed (s.slotBase n + i) < 0x100000000000) →
      (∀ i < t.ysize, ∀ j < t.ysize, s.homed (s.slotBase n + i) = s.homed (s.slotBase n + j) → i = j) →
      ∃ s', exec (.yealmArrive none) s = .next s' ∧ s'.thatches.slots = s.thatches.slots.set n (.resident t.desc y) ∧
        ∀ i, i < t.k * (t.ysize / t.k) →
          memGet s'.mem (s.homed (s.slotBase n + i)) = memGet s.mem (t.shardAt (i / (t.ysize / t.k)) y (i % (t.ysize / t.k))))) ∧
  (∀ (d y k : Nat) (rest : List (Nat × Nat × Nat)) (t : Thatch) (bs : List Byte), s.thatches.failed = (d, y, k) :: rest →
    (∃ s', exec (.shardRebuild true) s = .next s' ∧ s'.mem = s.mem ∧ s'.threads = s.threads ∧ s'.thatches.failed = rest) ∧
    (s.thatch? d = some t → s.rebuildShard t y k = some bs → ∃ s', exec (.shardRebuild false) s = .next s' ∧ s'.threads = s.threads ∧
      s'.thatches.failed = rest ∧ s'.thatches.queue = s.thatches.queue ++ [(d, y)] ∧
      Stored s s' ((List.range bs.length).map fun i => (t.shardAt k y 0 + i, bs.getD i 0))))

/-! Command rings. -/

/-- R363 to R368, R374, R375: consuming a packet advances RDIDX, in the control block too. A packet of its type that is
published and sound is consumed: FENCE once nothing before it is outstanding, SIGNAL with its store, WAITVAL when its condition
holds (else it polls, each 1 us), COPY as a command of the worker's copy engine. A restarted queue goes on at NEWRD.
A worker acts as a packet processor (log 33, DEDUCED). -/
def Obligations.RingPackets : Prop := ∀ (s : State) (ring : Nat) (p : Packet),
  (∀ (r : Ring) (open_ : Bool) (ps : List Part) (s1 : State), s.ring? r.num = some r → s.consume r open_ [] = .ok s1 →
    s.mapRanges none r.ctx true .write [(r.base.toNat, 4)] = .ok ps →
    s.homeFree ((List.range 4).map fun i => keyIn ps (r.base.toNat + i)) true (ps.any (·.persist)) = true →
    Stored s s1 ((cellsAt r.base.toNat (bytesOf 4 ((r.rd + 1) % 2 ^ 32))).map fun b => (keyIn ps b.1, b.2)) ∧ s1.threads = s.threads ∧
    (s1.ring? r.num).map (fun q => (q.rd, q.outstanding)) =
      some ((r.rd + 1) % 2 ^ 32, if open_ then r.outstanding ++ [r.rd] else r.outstanding)) ∧
  (s.packet ring 3 = .ok p → p.zero [] = true →
    (p.ring.outstanding ≠ [] → exec (.fencePacket ring) s = .next s) ∧
    (p.ring.outstanding = [] → ∀ s1, s.consume p.ring false [] = .ok s1 → exec (.fencePacket ring) s = .next s1)) ∧
  (s.packet ring 4 = .ok p →
    ((p.w 8).toNat % 8 = 0 → canonical (p.w 8) = true → ∀ s1, s.consume p.ring false [(p.w 8, bytesOf 8 (p.f 0x10 8))] = .ok s1 →
      exec (.signal ring) s = .next s1) ∧
    ((p.w 8).toNat % 8 ≠ 0 → ∀ s1, s.ringError p.ring 6 = .ok s1 → exec (.signal ring) s = .next s1)) ∧
  (let sound := p.zero [(8, 8), (0x10, 8), (0x18, 8), (0x20, 1)] = true ∧ (p.w 8).toNat % 8 = 0 ∧ canonical (p.w 8) = true ∧ p.f 0x20 1 < 4
   ∀ bs, s.ringRead p.ring true (p.w 8) 8 = .ok bs →
    let holds := waitvalCond (p.f 0x20 1) ((dw (natOfBytes bs)) &&& p.w 0x18).toNat (p.f 0x10 8)
    let answers (i : Instr) : Prop := (holds = true → ∀ s1, s.consume p.ring false [] = .ok s1 → exec i s = .next s1) ∧
      (holds = false → exec i s = .next (s.modRing p.ring.num fun r => { r with poll := some s.clock }))
    (s.packet ring 5 = .ok p → sound → answers (.waitval ring)) ∧
    (∀ at_, (s.ring? ring).bind (·.poll) = some at_ → at_ + Config.us ≤ s.clock → s.packet ring 5 true = .ok p →
      answers (.waitvalPoll ring))) ∧
  (s.packet ring 2 = .ok p → p.zero [(8, 8), (0x10, 8), (0x18, 4)] = true → 0 < p.f 0x18 4 → p.f 0x18 4 ≤ 2 ^ 30 →
    canonical (p.w 8) = true → canonical (p.w 0x10) = true → s.engQueued (672 + p.ring.num % 16) 0 < engCapacity 0 →
    ∀ s1, s.consume p.ring true [] = .ok s1 → ∃ s' x, exec (.copyPacket ring) s = .next s' ∧ s'.mem = s1.mem ∧ x ∈ s'.cmds ∧
      x.op = .copy (p.w 8) (p.w 0x10) (p.f 0x18 4) ∧ x.ring = some (p.ring.num, p.ring.rd) ∧ x.core = 672 + p.ring.num % 16) ∧
  (∀ (r : Ring) (idx code : Nat) (bs : List Byte), s.ring? ring = some r → r.err = some (idx, code) → s.served r = true →
    s.ringRead r true (r.base + 0x14) 12 = .ok bs → field bs 0 4 ≠ field bs 8 4 →
    (field bs 4 4 + 2 ^ 32 - idx) % 2 ^ 32 ≤ 16 →
    ∀ s1, State.workerStores r [(r.base + 0x1C, bytesOf 4 (field bs 0 4)), (r.base, bytesOf 4 (field bs 4 4)), (r.base + 4, bytesOf 4 0)]
        (s.modRing ring fun q => { q with err := none, rd := field bs 4 4 }) = .ok s1 →
    exec (.queueRestart ring) s = .next s1)

/-- R309, R311, R350, R374 to R376: the packets that the ridge pair executes, once published and sound, while it runs. LAUNCH
starts a launch with a workgroup waiting for each enabled core; CKPT joins the requests; THATCH_CREATE, LOAD and EVICT change
the held thatches; FAULTREPLAY disposes of the covered records; ERRQUERY reports events or acts as TRET; SNAPCFG writes its
registers in order. A packet whose reads and writes its home does not serve yet waits, and all of them wait for the end of a rollback.
Which events ERRQUERY reports is log 86, the order of SNAPCFG's writes log 88, and the tables and tests of LAUNCH logs 35, 41 and 122. -/
def Obligations.RidgePackets : Prop := ∀ (s : State) (ring : Nat) (p : Packet), s.cmd.ridge = .running →
  s.rolling = none →
  (∀ (bs : List Byte) (r : LaunchRec) (h : Header) (sh : List (Nat × List Nat)) (ds : List (List Byte)) (s1 : State),
    s.packet ring 1 = .ok p →
    p.zero [(8, 8)] = true → (p.w 8).toNat % 64 = 0 → canonical (p.w 8) = true →
    s.ringRead p.ring p.ring.priv (p.w 8) 192 = .ok bs → LaunchRec.read bs = some r → r.groups = 0 → s.launchWaits p.ring r = false →
    s.headerAt p.ring.ctx p.ring.priv r.khdr = some h → s.shrinkTable p.ring.ctx p.ring.priv r.shrink = some sh →
    s.declTable p.ring.ctx p.ring.priv h = some ds → ds.all declOk = true →
    s.launchFields r h = true → s.launchState r p.ring.priv = true → s.consume p.ring true [] = .ok s1 →
    ∃ s' l, exec (.launch ring) s = .next s' ∧ s'.mem = s1.mem ∧ s'.launch? r.lnum = some l ∧ l.hdr = h ∧ l.argp = r.argp ∧
      l.objs = ds ∧ l.ended = false ∧ l.nextRank = 0 ∧ l.priv = (r.attr % 2 == 1) ∧ l.ctx = r.attr / 2 ^ 8 % 16 ∧
      s'.wgs.filter (·.lnum == r.lnum) = (List.range s.enabled.length).map fun k => newWg r.lnum k k h) ∧
  (∀ s1, s.packet ring 7 = .ok p → p.zero [(8, 1), (0x10, 8)] = true → p.f 8 1 < 2 → canonical (p.w 0x10) = true →
    s.consume p.ring true [] = .ok s1 → (∀ r ∈ s1.ckpt.reqs, r.mode ≠ (p.f 8 1 == 1)) → (p.f 8 1 = 1 ∨ s1.ckpt.en = true) →
    ∃ s', exec (.ckptPacket ring) s = .next s' ∧ s'.mem = s1.mem ∧ s'.threads = s1.threads ∧
      s'.ckpt.reqs.map (fun r => (r.mode, r.va)) = s1.ckpt.reqs.map (fun r => (r.mode, r.va)) ++ [(p.f 8 1 == 1, p.w 0x10)]) ∧
  (∀ (t : Thatch) (s1 : State), s.packet ring 8 = .ok p → p.zero [(8, 8), (0x10, 8), (0x18, 4)] = true → (p.w 8).toNat % 64 = 0 →
    canonical (p.w 8) = true → s.thatch? (p.w 8).toNat = none → p.w 0x10 = 0 → s.thatches.held.length < 256 →
    s.devWaits p.ring.ctx true .read (p.w 8) 64 = false →
    (s.devRead p.ring.ctx true (p.w 8) 64).bind (Thatch.parse (p.w 8).toNat s.slotSize) = some t → s.thatchOk t = true →
    let th := s.thatches
    { s with thatches := { th with held := th.held ++ [t] } }.consume p.ring false [] = .ok s1 →
    exec (.thatchCreate ring) s = .next s1) ∧
  (∀ (t : Thatch) (s1 : State), s.packet ring 9 = .ok p → p.zero [(8, 8)] = true → s.thatch? (p.w 8).toNat = some t →
    (∃ y, y < t.nyealm ∧ s.slotOf t.desc y = none) → s.consume p.ring true [] = .ok s1 → ∃ s', exec (.thatchLoad ring) s = .next s' ∧
      s'.mem = s1.mem ∧ s'.threads = s1.threads ∧ ∀ x ∈ s'.thatches.held, x.desc = t.desc → x.loaded = true) ∧
  (∀ (t : Thatch) (s1 : State), s.packet ring 0xA = .ok p → p.zero [(8, 8)] = true → s.thatch? (p.w 8).toNat = some t →
    t.pins = [] → s.thatchRead t = false → s.consume p.ring false [] = .ok s1 → s1.thatches.swaps = [] → s1.cmd.remote = [] →
    ∃ s', exec (.thatchEvict ring) s = .next s' ∧ s'.mem = s1.mem ∧ ∀ x ∈ s'.thatches.held, x.desc ≠ t.desc) ∧
  (∀ s1, s.packet ring 0xB = .ok p → p.zero [(8, 1), (9, 1), (0xC, 4)] = true → p.f 8 1 < 16 → p.f 9 1 < 2 →
    s.consume p.ring false [] = .ok s1 → s1.covered (p.f 8 1) (p.f 0xC 4) = [] →
    ∃ s', exec (.faultreplay ring) s = .next s' ∧ s'.mem = s1.mem ∧ s'.mmu = s1.mmu) ∧
  (∀ s1, s.packet ring 0xB = .ok p → p.zero [(8, 1), (9, 1), (0xC, 4)] = true → p.f 8 1 < 16 → p.f 9 1 = 1 →
    s.consume p.ring false [] = .ok s1 → ∃ s', exec (.faultreplay ring) s = .next s' ∧
      ∀ e ∈ s1.mmu.log, e.acts = [] → (s1.covered (p.f 8 1) (p.f 0xC 4)).contains e.frec = true → ∀ x ∈ s'.mmu.log, x.id ≠ e.id) ∧
  (s.packet ring 0xC = .ok p → errqueryOk p = true →
    (p.f 8 1 = 0 →
      let es := s.cmd.events.filter fun e => (e.seq + 2 ^ 32 - p.f 0x18 4) % 2 ^ 32 < p.f 0x1C 4
      s.devWaits p.ring.ctx true .write (p.w 0x10) (64 * es.length) = false →
      s.devWaits p.ring.ctx true .write (p.w 0x10 + dw (64 * p.f 0x1C 4)) 4 = false →
      ∀ s1 s2 s3, s.devWrite p.ring.ctx true (p.w 0x10) (es.flatMap (·.bytes)) = some s1 →
        s1.devWrite p.ring.ctx true (p.w 0x10 + dw (64 * p.f 0x1C 4)) (bytesOf 4 es.length) = some s2 →
        s2.consume p.ring false [] = .ok s3 → exec (.errqueryEvents ring) s = .next s3) ∧
    (p.f 8 1 = 1 → p.f 0x1C 4 < 4 → s.devWaits p.ring.ctx true .write (p.w 0x10) 4 = false →
      let q := s.tret (BitVec.ofNat 32 (p.f 0x18 4)) (tretMode (p.f 0x1C 4)) (p.w 0x20)
      ∀ s1 s2, q.2.devWrite p.ring.ctx true (p.w 0x10) (bytesOf 4 q.1.toNat) = some s1 → s1.consume p.ring false [] = .ok s2 →
        exec (.errqueryTret ring) s = .next s2)) ∧
  (∀ s1 s2, s.packet ring 6 = .ok p → p.zero [(8, 0x30)] = true → p.f 0x34 4 = 0 → p.f 8 4 % 16 = 0 → s.ckpt.sweep = none →
    State.sysWrites (snapWrites p []) s = (s1, true) → s1.consume p.ring false [] = .ok s2 → exec (.snapcfg ring) s = .next s2)

/-! Management. -/

/-- R381, R382, R393: while the management port answers and the device is not in recovery, each message does its work and is
answered with status 0, or 1 for a bad field, 2 where the state does not allow it, and then changes nothing else. That JOBCFG tests its
fields before the state is log 84. -/
def Obligations.ManagementMessages : Prop := ∀ (s : State), s.answers = true → s.cmd.recovery = false →
  let fails (i : Instr) (n : Nat) : Prop := exec i s = .next (s.say (.status n))
  let works (i : Instr) (ok : State → Prop) : Prop := ∃ s', exec i s = .next s' ∧ s'.mem = s.mem ∧ s'.threads = s.threads ∧
    s'.cmd.outbox = s.cmd.outbox ++ [.status 0] ∧ ok s'
  (∀ qp ctx rkey, (64 ≤ qp ∨ 16 ≤ ctx → fails (.qpcfg qp ctx rkey) 1) ∧
    (qp < 64 → ctx < 16 → works (.qpcfg qp ctx rkey) fun s' =>
      s'.cmd.qps.find? (·.num == qp) = some { num := qp, ctx := ctx, rkey := rkey })) ∧
  (∀ ring base ctx priv, (256 ≤ ring → fails (.qcreate ring base ctx priv) 1) ∧
    (ring < 256 → ctx < 16 → base.toNat % 64 = 0 → canonical base = true → canonical (base + 1087) = true →
      (∀ r, s.ring? ring = some r → fails (.qcreate ring base ctx priv) 2) ∧
      (s.ring? ring = none → works (.qcreate ring base ctx priv) fun s' => ∃ r, s'.ring? ring = some r ∧ r.base = base ∧
        r.ctx = ctx ∧ r.priv = priv ∧ r.outstanding = []))) ∧
  (∀ ring, (256 ≤ ring → fails (.qdestroy ring) 1) ∧ (ring < 256 → s.ring? ring = none → fails (.qdestroy ring) 2) ∧
    (∀ r, ring < 256 → s.ring? ring = some r →
      (r.held = none → r.poll = none → works (.qdestroy ring) fun s' => s'.ring? ring = none) ∧
      (r.held.isSome ∨ r.poll.isSome → works (.qdestroy ring) fun s' => ∃ q, s'.ring? ring = some q ∧ q.closing = true))) ∧
  (∀ ap qp base rkey size, (16 ≤ ap ∨ 64 ≤ qp ∨ 2 ^ 42 < size → fails (.apcfg ap qp base rkey size) 1) ∧
    (ap < 16 → qp < 64 → size ≤ 2 ^ 42 → works (.apcfg ap qp base rkey size) fun s' =>
      s'.cmd.apertures.find? (·.num == ap) = some { num := ap, qp := qp, base := base, rkey := rkey, size := size })) ∧
  (∀ (base : DWord) (k : Nat) (consumed : DWord), k < 11 → s.spaceOf base.toNat = .host →
    s.apertureOk base.toNat = true → s.apertureOk (base.toNat + 63 + 64 * (64 * 2 ^ k)) = true → (s.spaceOf consumed.toNat = .hbm ∨ s.spaceOf consumed.toNat = .scm) →
    works (.evcfg base (64 * 2 ^ k) consumed) fun s' =>
      s'.cmd.eventBase = base ∧ s'.cmd.eventSize = 64 * 2 ^ k ∧ s'.cmd.eventWord = consumed) ∧
  (∀ rank npkg pctx links hops,
    let bad := npkg ≤ rank ∨ 16 ≤ pctx ∨ 36 < links.length ∨ (∃ p, some p ∈ links ∧ npkg ≤ p) ∨ (∃ h, some h ∈ hops ∧ 36 ≤ h) ∨
      tableReaches rank npkg links hops = false
    (bad → fails (.jobcfg rank npkg pctx links hops) 1) ∧
    (¬ bad →
      ((∃ l ∈ s.launches, l.ended = false) → fails (.jobcfg rank npkg pctx links hops) 2) ∧
      ((∀ l ∈ s.launches, l.ended = true) → s.ckpt.en = false → works (.jobcfg rank npkg pctx links hops) fun s' =>
        s'.cmd.rank = rank ∧ s'.cmd.npkg = npkg ∧ s'.cmd.pctx = pctx ∧ s'.cmd.links = links ∧ s'.cmd.hops = hops ∧
        s'.cmd.groups.map (·.ranks) = [List.range npkg]))) ∧
  (∀ pkg, (pkg = s.cmd.rank ∨ s.cmd.npkg ≤ pkg → fails (.pkglost pkg) 1) ∧
    (pkg ≠ s.cmd.rank → pkg < s.cmd.npkg → s.cmds = [] → works (.pkglost pkg) fun s' => s'.cmd.lost.contains pkg = true)) ∧
  (∀ num value, (num / 256 ≠ 6 ∨ sysInfo num = none → ∀ write, fails (.dbgrw num value write) 1) ∧
    (∀ i, num / 256 = 6 → sysInfo num = some i → snapSource num = none →
      (exec (.dbgrw num value false) s = .next ((s.say (.sysreg ((s.devReg 688 num).setWidth 32))).say (.status 0)))) ∧
    (works (.dbgrw 0x600 value true) fun s' => s'.cmd.dbgLaunch = value)) ∧
  (∀ len, fails (.fwrecov len) 2) ∧
  (∀ req : List Byte,
    let answers (i : Instr) (k : Nat) : Prop := exec i s = .next ({ s with free := s.free + 1 }.say (.spdm (Config.spdmResponse k s.free)))
    answers (.getVersion req) 0 ∧ answers (.getCapabilities req) 1 ∧ answers (.negotiateAlgorithms req) 2 ∧ answers (.getDigests req) 3 ∧
    answers (.getCertificate req) 4 ∧ answers (.challenge req) 5 ∧ answers (.getMeasurements req) 6) ∧
  (s.mmu.ilvEdit = false → ∀ (qp : Nat) (rkey : Word) (va : DWord),
    (∀ data, s.rdmaRefused qp rkey va data.length = true → exec (.rdmaWrite qp rkey va data) s = .next (s.say .nak)) ∧
    (∀ len, s.rdmaRefused qp rkey va len = true → exec (.rdmaRead qp rkey va len) s = .next (s.say .nak)) ∧
    (∀ (data : List Byte) (ps : List Part), s.rdmaRefused qp rkey va data.length = false →
      s.mapRanges none (s.qpCtx qp) true .write [(va.toNat, data.length)] = .ok ps →
      s.devWaits (s.qpCtx qp) true .write va data.length = false → ∃ s', exec (.rdmaWrite qp rkey va data) s = .next s' ∧
        s'.threads = s.threads ∧ Stored s s' ((cellsAt va.toNat data).map fun b => (keyIn ps b.1, b.2))) ∧
    (∀ (len : Nat) (bs : List Byte), s.rdmaRefused qp rkey va len = false → s.devRead (s.qpCtx qp) true va len = some bs →
      s.devWaits (s.qpCtx qp) true .read va len = false →
      exec (.rdmaRead qp rkey va len) s = .next (s.say (.readData bs))))

/-! Links. -/

/-- R383 to R388, R403: what each link event does to its link, by the state of a wavelength: wakes and retrainings, the active set
after a WIDTH flit, PAUSE and RESUME of a lane, replays, forwarding, and a flit received in order, at whose SEQ the receiver takes up
the set that a WIDTH flit announced for it.
The codes of control flits are the model's (log 26), and so is that a parked or sleeping wavelength changes its state at a WIDTH flit
alone (log 66). -/
def Obligations.Links : Prop := ∀ (s : State) (link : Nat),
  let l := s.link link
  let only (i : Instr) (ok : Link → Prop) : Prop := ∃ s', exec i s = .next s' ∧ s'.mem = s.mem ∧ s'.threads = s.threads ∧
    (∀ k, k ≠ link → s'.link k = s.link k) ∧ ok (s'.link link)
  l.num = link →
  (∀ req : BitVec 16, link < 36 → only (.lnkctlReq link req) fun l' =>
    let asked : Link := { l with req := l'.req }
    ∀ w, w < 8 →
      l'.req.getD w 0 = (if req.toNat / 4 ^ w % 4 = 3 then l.req.getD w 0 else req.toNat / 4 ^ w % 4) ∧
      (l.st w ≠ 3 ∨ l.woke.contains w = false ∨ asked.wants w = 0 → l'.st w = l.st w) ∧
      (l.st w = 3 → l.woke.contains w = true → asked.wants w ≠ 0 → l'.st w = asked.wants w) ∧
      (asked.wants w ≠ 0 → l'.woke.contains w = false)) ∧
  (∀ w, w < 8 → l.waking w = true → l.st w ≠ 3 → only (.wavelengthWakeDone link w) fun l' =>
    l'.woke.contains w = true ∧ l'.state = l.state) ∧
  (∀ w e, w < 8 → e < s.power.berthr → l.st w = 0 → w < l.state.length → only (.berCheck link w e) fun l' => l'.st w = 3) ∧
  (∀ w, w < 8 → l.st w = 3 → w < l.state.length → only (.wavelengthRetrainDone link w) fun l' =>
    (l.req.getD w 0 = 0 → l'.woke.contains w = true) ∧ (l.req.getD w 0 ≠ 0 → l'.st w = l.req.getD w 0)) ∧
  (only (.widthFlit link) fun l' => l'.state = (List.range 8).map fun w =>
    if l.newActive.contains w then 0 else if l.st w == 3 || l.wants w == 0 then l.st w else l.wants w) ∧
  (∀ vl, vl < 4 → only (.pause link vl) fun l' => l'.pausedIn.contains vl = true) ∧
  (∀ vl, only (.resumeFlit link vl) fun l' => l'.pausedIn = l.pausedIn.filter (· != vl)) ∧
  (∀ seq, ∃ s', exec (.replayFlit link seq) s = .next s' ∧ s'.links = s.links ∧ s'.mem = s.mem ∧ s'.threads = s.threads ∧
    s'.cmd.outbox = s.cmd.outbox ++ (l.recent.dropWhile fun f => flitSeq f != seq).map fun f => .flit link f l.beats) ∧
  (∀ (f : List Byte) (rest : List (List Byte)) (o : Nat) (os : List Nat), l.inbuf = f :: rest → s.hintLinks (flitDst f) = o :: os →
    o ≠ link → (s.link o).num = o → ∃ s', exec (.flitForward link) s = .next s' ∧ s'.mem = s.mem ∧ s'.threads = s.threads ∧
      (s'.link link).inbuf = rest ∧ (s'.link o).queue = (s.link o).queue ++ [f]) ∧
  (∀ f : List Byte, l.inService = true → flitOk f = true →
    (flitSeq f ≠ l.recvSeq → exec (.flitReceive link f none) s = .next s) ∧
    (flitSeq f = l.recvSeq → flitVl f = 4 → only (.flitReceive link f none) fun l' =>
      l'.recvSeq = (l.recvSeq + 1) % 256 ∧ l'.inbuf = l.inbuf ∧ (∀ x, widthOf f = some x → l'.rxNext = some x) ∧
      ∀ m, l.rxNext = some (m, flitSeq f) → l'.rxSet = m) ∧
    (flitSeq f = l.recvSeq → flitVl f < 4 → flitDst f ≠ s.cmd.rank → only (.flitReceive link f none) fun l' =>
      l'.recvSeq = (l.recvSeq + 1) % 256 ∧ l'.inbuf = l.inbuf ++ [f] ∧ ∀ m, l.rxNext = some (m, flitSeq f) → l'.rxSet = m))

/-! Power, resets, maintenance. -/

/-- R296, R356 to R360: an edited interleave table replaces T only when it is valid; a bank whose corrected lines reach the
threshold takes the stronger code; a reset of a die takes it offline and discards its cores' state, and its end clears the
vaults; a retirement moves its blocks and leaves the channels that survive, and one that the plan cannot serve moves nothing. -/
def Obligations.Maintenance : Prop := ∀ (s : State),
  (∀ on, ∃ s', exec (.ilvEdit on) s = .next s' ∧ s'.mem = s.mem ∧ s'.threads = s.threads ∧ s'.mmu.ilvEdit = on ∧ s'.mmu.ilv = s.mmu.ilv ∧
    s'.mmu.nch = s.mmu.nch) ∧
  (s.mmu.ilvEdit = true → ilvValid s.mmu.nchEdit ((List.range 4096).map s.mmu.ilvShown) = false →
    ∃ s', exec .ilvCommit s = .next s' ∧ s'.mem = s.mem ∧ s'.threads = s.threads ∧ s'.mmu = { s.mmu with ilvErr := true }) ∧
  (s.mmu.ilvEdit = true → ilvValid s.mmu.nchEdit ((List.range 4096).map s.mmu.ilvShown) = true →
    ∃ s', exec .ilvCommit s = .next s' ∧ s'.threads = s.threads ∧ s'.mmu.ilv = some ((List.range 4096).map s.mmu.ilvShown) ∧
      s'.mmu.nch = s.mmu.nchEdit ∧ s'.mmu.ilvEdit = false) ∧
  (∀ (bank n : Nat), s.power.corrected.find? (·.1 == bank) = some (bank, n) → s.mmu.channels.contains (bank / 16) = true →
    (n < s.ckpt.eccthr → ∃ s', exec (.scrubPass bank) s = .next s' ∧ s'.mem = s.mem ∧ s'.power.strong = s.power.strong ∧
      s'.power.corrected.find? (·.1 == bank) = none) ∧
    (s.ckpt.eccthr ≤ n → s.power.strong.contains bank = false → ∃ s' e, exec (.scrubPass bank) s = .next s' ∧ s'.mem = s.mem ∧
      s'.power.strong = bank :: s.power.strong ∧ e ∈ s'.cmd.eventWait ∧ e.type = 6)) ∧
  (∀ (gone : List Nat) (short : Nat), s.power.retiring = [] → s.retireOk gone = true → s.cmd.ridge = .running → s.mmu.ilvEdit = false →
    s.evacPlan ((s.mmu.channels.length - gone.length) * 512) (s.mmu.channels.length * 512) = .error short →
    ∃ s' e, exec (.channelRetire gone) s = .next s' ∧ s'.mem = s.mem ∧ s'.threads = s.threads ∧ s'.mmu = s.mmu ∧
      e ∈ s'.cmd.eventWait ∧ e.type = 10) ∧
  (∀ (gone : List Nat) (plan : List (Nat × Nat) × List Nat), s.power.retiring = [] → s.retireOk gone = true → s.cmd.ridge = .running →
    s.mmu.ilvEdit = false → s.mmu.channels.Nodup → s.wgs = [] → s.memOk = true →
    s.evacPlan ((s.mmu.channels.length - gone.length) * 512) (s.mmu.channels.length * 512) = .ok plan →
    let left := s.mmu.channels.filter fun c => !gone.contains c
    ∃ s', exec (.channelRetire gone) s = .next s' ∧ s'.threads = s.threads ∧ s'.power.retiring = [] ∧ s'.mmu.channels = left ∧
      s'.mmu.nch = left.length ∧ ∀ p, plan.1 = [p] → p.2 + 2 ^ 21 ≤ (s.mmu.channels.length - gone.length) * 2 ^ 30 →
        ∀ i, i < 2 ^ 21 → memGet s'.mem (p.2 + i) = memGet s.mem (p.1 * 2 ^ 21 + i)) ∧
  (∀ die, die < 8 → s.power.dieState.getD die 0 = 0 → die < s.power.dieState.length → s.wgs = [] →
    ∃ s', exec (.coreReset die) s = .next s' ∧ s'.mem = s.mem ∧ s'.power.dieState.getD die 0 = 1 ∧
      ∀ k ∈ s.coresOf die, (s'.core k).acc = [] ∧ (s'.core k).mqueue = [] ∧ (s'.core k).l1 = []) ∧
  (∀ die, s.power.dieState.getD die 0 = 1 → ∃ s', exec (.coreResetEnd die) s = .next s' ∧ s'.threads = s.threads ∧
    s'.power.dieState.getD die 0 = 0 ∧ (∀ k ∈ s.coresOf die, ∀ i, i < Config.vaultBytes → memGet s'.mem (vaultBase k + i) = 0) ∧
    ∀ a, a < Config.vwin → memGet s'.mem a = memGet s.mem a)

/-- R343, R391 to R394, R396 to R399: a power failure leaves the SCM media with the persist queue drained into them, and of the other
memory the host's alone; a cold reset boots from slot A, or from slot B, or ends in recovery with what it says in BOOTSTAT; in recovery an
image that authenticates is written to slot A and booted; a unit that has retrained gets a record; the arbiter, at a boundary of 1 us,
grants every request when the pool suffices; temperatures set the throttle and are kept; the counters are saved.
That host memory keeps its bytes is log 93, that the clock restarts at 0 log 92, and what lost memory reads log 4. -/
def Obligations.PowerEvents : Prop := ∀ (s : State),
  (s.power.vmain = true → s.charged = true → s.memOk = true →
    ∃ s', exec .powerFail s = .next s' ∧ s'.threads = [] ∧ s'.inflight = [] ∧ s'.pq = [] ∧
      s'.power.vmain = false ∧ s'.media = memSets s.media s.pq ∧
      (∀ k, s.spaceOf k ≠ .host → memGet s'.mem k = (lastByte s.pq k).getD (memGet s.media k)) ∧
      ∀ k, s.spaceOf k = .host → (∀ c ∈ s.media, c.1 ≠ k) → (∀ e ∈ s.pq, e.1 ≠ k) → memGet s'.mem k = memGet s.mem k) ∧
  (700 < s.power.outlet → ∃ s', exec .overtempCutoff s = .next s' ∧ exec .powerFail s = .next s') ∧ (s.power.outlet ≤ 700 → exec .overtempCutoff s = .next s) ∧
  (∀ imageA imageB, let n := s.nvm.programmed imageA imageB
   imageOk n.slotA = true ∨ imageOk n.slotB = true → ∃ s', exec (.coldReset imageA imageB) s = .next s' ∧ s'.threads = [] ∧ s'.wgs = [] ∧
    s'.clock = 0 ∧ s'.power.vmain = true ∧ s'.cmd.booted = true ∧ s'.cmd.recovery = false ∧ s'.links.length = 36 ∧ s'.nvm = n ∧
    s'.cmd.bootstat.getLsbD 31 = false ∧ s'.cmd.bootstat.getLsbD 30 = !imageOk n.slotA ∧
    s'.cmd.bootstat.getLsbD 29 = !s.power.drainMark) ∧
  (∀ imageA imageB, let n := s.nvm.programmed imageA imageB
   imageOk n.slotA = false → imageOk n.slotB = false → ∃ s', exec (.coldReset imageA imageB) s = .next s' ∧ s'.threads = [] ∧ s'.wgs = [] ∧
    s'.cmd.booted = true ∧ s'.cmd.recovery = true ∧ s'.cmd.bootstat.getLsbD 31 = true ∧ s'.power.drainMark = s.power.drainMark ∧ s'.nvm = n) ∧
  (∀ len : Word, s.answers = true → s.cmd.recovery = true →
    let image := (List.range len.toNat).map fun i => memGet s.mem i
    (imageOk image = true → ∃ s', exec (.fwrecov len) s = .next s' ∧ s'.cmd.recovery = false ∧ s'.threads = [] ∧
      s'.clock = 0 ∧ s'.cmd.outbox = s.cmd.outbox ++ [.status 0] ∧ s'.nvm = { s.nvm with slotA := image }) ∧
    (imageOk image = false → exec (.fwrecov len) s = .next (s.say (.status 1)))) ∧
  (∀ unit, s.power.retrain.contains unit = true → ∃ s' r, exec (.trainingRetrain unit) s = .next s' ∧ s'.mem = s.mem ∧
    s'.threads = s.threads ∧ s'.power.retrain = s.power.retrain.filter (· != unit) ∧
    s'.power.recsDue = s.power.recsDue ++ [(unit, r)] ∧ r.valid = true ∧ r.temp = s.power.trainTemp unit ∧
    (16 ≤ unit → unit < 52 → (s.link (unit - 16)).num = unit - 16 → (s'.link (unit - 16)).up = true)) ∧
  (s.arbDue = false → exec .arbitrationInterval s = .next s) ∧
  (let reqs := (List.range 8).map fun d => ((s.power.requests.find? (·.1 == d)).map (·.2)).getD (s.power.defs.getD d 0)
   s.arbDue = true → reqs.sum + s.power.reserve ≤ s.power.budget → s.power.waiting = [] → ∃ s', exec .arbitrationInterval s = .next s' ∧
    s'.mem = s.mem ∧ s'.threads = s.threads ∧
    s'.power = { s.power with grants := reqs.map (· % 2 ^ 16), waiting := [], arbAt := s.clock / Config.us }) ∧
  (let p := s.power
   exec .wearSave s = .next { s with power := { p with wearSaved := p.wear, savedAt := p.held + s.clock } }) ∧
  (∀ tenths, ∃ s', exec (.temperatureThreshold 32 tenths) s = .next s' ∧ s'.mem = s.mem ∧ s'.threads = s.threads ∧
    s'.power.outlet = tenths % 2 ^ 16 ∧ (600 < tenths → s'.power.throttle = true) ∧ (tenths < 550 → s'.power.throttle = false) ∧
    (550 ≤ tenths → tenths ≤ 600 → s'.power.throttle = s.power.throttle))

/-- R283, R351 to R353, R370, R373: a mismatch of the ridge pair stops it, twice within 1 s for good; a restart lets it go on. A
package lost without a snapshot at the agreed step loses the job, with nothing rewritten (log 32). CORE.CGO starts a thread at a sound kernel's entry. -/
def Obligations.RidgePair : Prop := ∀ (s : State),
  (s.cmd.ridge ≠ .stopped → s.power.vmain = true → (∀ t ∈ s.threads, t.loc.core ≠ 688) →
    (s.cmd.mismatchAt = none → ∃ s' e, exec .ridgeMismatch s = .next s' ∧ s'.mem = s.mem ∧ s'.threads = s.threads ∧
      s'.cmd.ridge = .restarting ∧ e ∈ s'.cmd.eventWait ∧ e.type = 8) ∧
    (∀ m, s.cmd.mismatchAt = some m → s.clock ≤ m + 1000000 * Config.us → s.wgs = [] → ∃ s' e, exec .ridgeMismatch s = .next s' ∧
      s'.mem = s.mem ∧ s'.cmd.ridge = .stopped ∧ e ∈ s'.cmd.eventWait ∧ e.type = 9)) ∧
  (let cmd := s.cmd
   cmd.ridge = .restarting → exec .ridgePairRestart s = .next { s with cmd := { cmd with ridge := .running } }) ∧
  (let cmd := s.cmd
   ∀ on, exec (.qfrz on) s = .next { s with cmd := { cmd with qfrz := on } }) ∧
  (∀ (r : Nat) (step : Word) (peers : List PeerSnap), s.cmd.ridge = .running → r < s.cmd.npkg → r ≠ s.cmd.rank → s.cmds = [] →
    s.wgs = [] → s.rolling = none → s.jobQuiet = true → s.mmu.ilvEdit = false → s.ckpt.gens.find? (·.step == step) = none → step.toNat ≤ s.ckpt.lastok.toNat →
    ∃ s' e, exec (.packageLost [r] step peers) s = .next s' ∧ s'.mem = s.mem ∧ s'.ckpt.en = false ∧ s'.cmd.lost.contains r = true ∧
      e ∈ s'.cmd.eventWait ∧ e.type = 4) ∧
  (∀ s1, s.cgoWaits = false → s.cgoStart = .ok s1 → exec .coreCgo s = .next s1 ∧ s1.mem = s.mem ∧ ∃ (t : Thread) (h : Header),
    s1.threads = s.threads ++ [t] ∧ s.headerAt (s.cmd.csel.toNat / 2 ^ 8 % 16) true s.cmd.chdr = some h ∧ t.pc = h.entry ∧
    t.pair 0 = s.cmd.carg ∧ t.priv = true ∧ t.status = .live ∧ 672 ≤ t.loc.core)

/-! Decoding, the step, reset, invariants. -/

/-- R7 to R31: words of the manual's worked encodings, bit 0 the least significant bit of the first parcel, decode to the
instructions it writes beside them. -/
def Obligations.DecodesSpecWords : Prop :=
  decodeTableWord 64 0x7FF0001004 = some (.nop (.listed .l64 1 0 15)) ∧
  decodeTableWord 96 0x7FF0001005 = some (.nop (.listed .l96 1 0 15)) ∧
  decodeTableWord 128 0x7FF0001006 = some (.nop (.listed .l128 1 0 15)) ∧
  decodeTableWord 64 0x80F0801018 = some (.exit (.listed .l64 1 0x080 15 0 true)) ∧
  decodeTableWord 96 0x11100000001E0681F0002161 =
    some (.isetp (.listed .l96 2 0 15 1 true) { p := 6, a := 30, b := .imm 0, cond := .ne, w64 := true }) ∧
  decodeTableWord 96 0x101001A7FF000116D = some (.movi (.listed .l96 1 0 15) 26 .s64 1) ∧
  decodeTableWord 64 0x8027F30001300 = some (.dnorm (.listed .l64 1 0 3) { d := 2, a := 8, sf := .f32 }) ∧
  decodeTableWord 96 0x1010000002037F50001311 = some (.dscl (.listed .l96 1 0 5) { d := 3, a := 2, s := .imm 4096 }) ∧
  decodeTableWord 96 0x1400000C0828027F20011409 =
    some (.mma (.listed .l96 1 0x001 2) { d := 2, a := 40, b := 8, k := 1, mbf := 2, c := some 12 }) ∧
  decodeTableWord 96 0x1000003400001D7F10001501 =
    some (.ld (.listed .l96 1 0 1)
      { d := 29, a := 0, sz := .w32, fresh := true, acq := false, nt := false, scope := .thread, ftag := 0, off := 0x34 }) ∧
  decodeTableWord 96 0x2E2C2A280020001521 = some (.copy (.listed .l96 1 0 2 0) { bar := 40, d := 42, s := 44, n := some 46 }) ∧
  decodeTableWord 64 0x47F70001048 = some (.fetchw (.listed .l64 1 0 7) 4 0) ∧
  decodeTableWord 64 0xC04007F2001254C = some (.yacq (.listed .l64 2 0x001 2) 4 12) ∧
  decodeTableWord 64 0x80A1200F0401568 =
    some (.cgath (.listed .l64 1 0x040 15 0) { bar := 18, d := 10, s := 8, g := none, op := .add, root := 0 }) ∧
  decodeTableWord 96 0x9800004FF00007FF0001505 =
    some (.st (.listed .l96 1 0 15)
      { a := 0, b := 255, sz := .w32, rel := true, nt := false, wc := false, scope := .system, off := 4 }) ∧
  decodeTableWord 96 0x41000000A7F20001735 = some (.wear (.listed .l96 1 0 2) 10 0x0410)

/-- R16 to R32, R75 to R77, R112: no bit of an encoding is dropped. Every well-formed instruction, with every operand at every
value its form admits, decodes from its own bytes to itself, wherever it stands in an instruction block that holds it whole. -/
def Obligations.RoundTrip : Prop := ∀ (i : Instr) (bs rest : List Byte) (pc : DWord),
  i.wf DecodeCtx.open.limits = true → encode i = some bs → pc.toNat % 4 = 0 → pc.toNat % 32 + bs.length ≤ 32 →
  decode DecodeCtx.open pc (bs ++ rest) = .ok (i, rest)

/-- R17, R18, R33: when the bytes at an issue group's program counter decode to i, the step executes i on the state after the
fetch, which keeps the block and its translation, and brings the ready stamps up to date; when they do not, every thread of
the group stops with the decoder's cause. An event at the head of the agenda, with nothing due, is executed in the same way
(log 1).
The agenda is the model's own (log 1, DESIGN CHOICE). -/
def Obligations.StepRunsDecoded : Prop :=
  (∀ (s : State) (g : Issue) (t : Thread) (a : Nat) (p o : Bool) (l : Option (Nat × Nat)),
    s.issue = some g → g.uids.head?.bind s.thread? = some t → t.pc.extractLsb' 0 2 = 0 → s.targetOk t.ctx t.pc = true →
    s.xlate (some t.loc.core) t.ctx t.priv .fetch t.pc = .dpa a p o l → s.editHolds [a] = false → s.poisoned (32 * (a / 32)) 32 = false →
    let bytes := (s.blockBytes t.loc.core (a / 32)).drop (a % 32)
    (∀ i rest, decode (s.decodeCtx t) t.pc bytes = .ok (i, rest) → step s = stamped (exec i (s.keepBlock t (a / 32)).earlyReads)) ∧
    (∀ e, decode (s.decodeCtx t) t.pc bytes = .error e → ∃ s', step s = .next s' ∧ s'.mem = s.mem ∧
      ∀ u ∈ g.uids, ∀ x, s.thread? u = some x → ∃ y r, s'.thread? u = some y ∧ y.status = .stopped r false ∧ r.cause = DecodeErr.cause e ∧
        r.pc = x.pc ∧ y.pc = x.pc ∧ y.v = x.v ∧ y.preds = x.preds)) ∧
  (∀ (s : State) (i : Instr) (rest : List Act), s.issue = none → s.dueAct = none → s.agenda = .event i :: rest → i.shape = none →
    step s = stamped (exec i { s with agenda := rest }))

/-- R136, R208, R221, R283, R296, R300, R305, R341, R345 to R348, R357, R384, R385, R396: the registers whose reset value the manual
states hold it, and the interleave table is that of the boot. -/
def Obligations.ResetValues : Prop :=
  (let known : List (Nat × DWord) := [(0x360, 0x0), (0x361, 0x8000), (0x362, 0x2000000), (0x351, 0x0), (0x400, 0x0), (0x404, 0x1140000), 
       (0x408, 0x0), (0x409, 0x40), (0x500, 0x5180FA0), (0x5E0, 0x14), (0x600, 0x0)]
   ∀ p ∈ known, State.reset.devReg 0 p.1 = p.2) ∧
  (∀ c, c < 16 → State.reset.devReg 0 (0x310 + c) = 0) ∧
  (∀ d, d < 8 → State.reset.devReg 0 (0x510 + d) = 337) ∧
  (∀ l, l < 36 → State.reset.devReg 0 (0x580 + l) = 0 ∧ State.reset.devReg 0 (0x5B0 + l) = 0) ∧
  (∀ k, State.reset.devReg k 0x200 = 0 ∧ State.reset.devReg k 0x108 = 0) ∧
  (∀ i, i < 4096 → State.reset.mmu.ilvShown i = 0x8000#16 + BitVec.ofNat 16 (i / 512 * 4096 + i % 512))

/-- The invariants hold at reset: every memory list is in its canonical form, and the ready stamps are right; nothing is under
way, no thread exists, and no byte of memory differs from what an unlisted address reads as (log 4, log 5). -/
def Obligations.ResetInvariant : Prop :=
  State.reset.memOk = true ∧ State.reset.stampsOk ∧ State.reset.threads = [] ∧ State.reset.inflight = [] ∧
  ∀ k, memGet State.reset.mem k = 0

/-- R268: after every step, every thread carries a ready time exactly when it is eligible.
The stamp is the model's record of the age that R268 compares. -/
def Obligations.StampsInvariant : Prop := ∀ (s s' : State), s.stampsOk → step s = .next s' → s'.stampsOk

/-- Every step keeps the canonical form of memory and of the SCM media: addresses rise strictly, and no entry holds the value
that an unlisted address reads as, whatever instruction or event the step executes.
The default value of an unlisted address is the model's choice (log 4, DESIGN CHOICE). -/
def Obligations.MemoryInvariant : Prop := ∀ (s s' : State), s.memOk = true → step s = .next s' → s'.memOk = true

/-! Whole-machine rules. -/

/-- R16, R17: LEN gives an instruction 8, 12 or 16 bytes, whose parcels are little-endian, and 0b11 is ILLEGAL_LENGTH; blocks of
32 bytes are fetched, and an instruction that would cross its block is FETCH_CROSS; a program counter that is not a multiple of
4 is FETCH_ALIGN before anything is fetched. A block that the instruction cache does not hold reads as memory does: that no other
block is kept is the model's choice (log 108, DESIGN CHOICE). -/
def Obligations.LengthsAndBlocks : Prop :=
  (∀ (k : DecodeCtx) (pc : DWord) (bs : List Byte), pc.toNat % 4 ≠ 0 → decode k pc bs = .error .fetchAlign) ∧
  (∀ (s : State) (t : Thread), t.pc.toNat % 4 ≠ 0 → s.look t = .trap .fetchAlign 0 0) ∧
  (∀ (s : State) (core block : Nat), (s.core core).l1i.find? (·.1 == block) = none →
    s.blockBytes core block = (List.range 32).map fun i => memGet s.mem (32 * block + i)) ∧
  (∀ b0 b1 b2 b3 : Byte, (parcel b0 b1 b2 b3).toNat = b0.toNat + 2 ^ 8 * b1.toNat + 2 ^ 16 * b2.toNat + 2 ^ 24 * b3.toNat) ∧
  (∀ (k : DecodeCtx) (pc : DWord) (b0 b1 b2 b3 : Byte) (u : List Byte), pc.toNat % 4 = 0 →
    let bs := b0 :: b1 :: b2 :: b3 :: u
    (b0.toNat % 4 = 3 → decode k pc bs = .error .illegalLength) ∧
    ∀ (n : Nat), (b0.toNat % 4 = 0 ∧ n = 8) ∨ (b0.toNat % 4 = 1 ∧ n = 12) ∨ (b0.toNat % 4 = 2 ∧ n = 16) →
      (32 < pc.toNat % 32 + n → decode k pc bs = .error .fetchCross) ∧
      (∀ i rest, decode k pc bs = .ok (i, rest) → pc.toNat % 32 + n ≤ 32 ∧ n ≤ bs.length ∧ rest = bs.drop n ∧
        i.shape.map (·.ctl.len.bytes) = some n))

/-- R34, R35: a copy wave may issue no instruction of classes 2 to 4, a matrix wave none of classes 2 and 3 and no engine copy,
a vector wave none of class 4 and no engine copy, a general wave all; a control-profile core has no opcode of classes 2 to 4. -/
def Obligations.RolesAndProfiles : Prop := ∀ (k : DecodeCtx) (r : Raw),
  let cls := r.opc.toNat / 64
  let copies := r.opc = 0x148 ∨ r.opc = 0x149 ∨ r.opc = 0x14A ∨ r.opc = 0x14B
  let forbidden := (k.role = 1 ∧ (cls = 2 ∨ cls = 3 ∨ cls = 4)) ∨ (k.role = 2 ∧ (cls = 2 ∨ cls = 3 ∨ copies)) ∨
    (k.role = 3 ∧ (cls = 4 ∨ copies))
  let free := decodeRaw { k with role := 0 } r
  (forbidden → (∀ i, free = .ok i → decodeRaw k r = .error .roleViolation) ∧
    (free = .error .privilege → decodeRaw k r = .error .roleViolation)) ∧
  (¬ forbidden → decodeRaw k r = free) ∧ (∀ e, free = .error e → e ≠ .privilege → decodeRaw k r = .error e) ∧
  (k.control = true → (cls = 2 ∨ cls = 3 ∨ cls = 4) → decodeRaw k r = .error .illegalOpcode) ∧
  ∀ (s : State) (t : Thread), ((s.decodeCtx t).control = true ↔ 672 ≤ t.loc.core) ∧
    ∀ w, s.waveOf t = some w → (s.decodeCtx t).role = w.role

/-- R272: in a deterministic launch IDRD reads the lane, the wave index, WAVE mod 4, WAVE div 4 and the workgroup index: nothing
of where the wave was placed. -/
def Obligations.DeterministicIdentities : Prop := ∀ (s : State) (c : Ctl) (d : Reg),
  let wave (t : Thread) : Nat := ((s.waveOf t).map (·.idx)).getD 0
  let reads (sel : BitVec 8) (v : Thread → Nat) : Prop := LanesFrom { s with free := s.free + 1 } s (.idrd c d sel) c fun t t' =>
    s.isDet t = true → Completes s c 2 (wr1 d (BitVec.ofNat 32 (v t)) tagRAW) [] 0 t t'
  reads 0 (fun t => t.homeLoc.lane) ∧ reads 2 wave ∧ reads 1 (fun t => wave t % 4) ∧ reads 3 (fun t => wave t / 4) ∧
  reads 4 fun t => s.wgIdxOf t

/-- R295, R296: where a valid table puts a DPA, and that the mapping is one-to-one between the N GiB of present HBM and N GiB of
channel storage. -/
def Obligations.InterleaveIsOneToOne : Prop := ∀ (s : State), let n := s.mmu.nch
  ilvValid n ((List.range 4096).map s.mmu.ilvAt) = true →
  (∀ a, a < n * 2 ^ 30 →
    let g := a / 2 ^ 12
    let r := g / (8 * n)
    let e := s.mmu.ilvAt ((g % (8 * n) + 3 * r) % (8 * n))
    s.channelOf a = ((e.extractLsb' 0 9).toNat, (8 * r + (e.extractLsb' 12 3).toNat) * 4096 + a % 4096) ∧
    (s.channelOf a).2 < 2 ^ 30) ∧
  (∀ a b, a < n * 2 ^ 30 → b < n * 2 ^ 30 → s.channelOf a = s.channelOf b → a = b) ∧
  (∀ i offset, i < 8 * n → offset < 2 ^ 30 → ∃ a, a < n * 2 ^ 30 ∧ s.channelOf a = (((s.mmu.ilvAt i).extractLsb' 0 9).toNat, offset))

/-- R349: P is the XOR of the data, Q their sum weighted by the powers of g = 2 in GF(2^8) with polynomial 0x11D, and any M lost
shards of a stripe come back from the others: one with P alone; one or two of data and parity with both. Thatch stripes use the
same codes. -/
def Obligations.LostShardsComeBack : Prop :=
  (∀ y, y < 256 → gfMul 1 y = y ∧ gfMul 2 y = (if y < 128 then 2 * y else (2 * y) ^^^ 0x11D)) ∧
  (∀ x y z, x < 256 → y < 256 → z < 256 → gfMul (x ^^^ z) y = gfMul x y ^^^ gfMul z y ∧ gfMul x y = gfMul y x ∧
    gfMul (gfMul x y) z = gfMul x (gfMul y z)) ∧
  (gfPow 0 = 1 ∧ ∀ i, gfPow (i + 1) = gfMul 2 (gfPow i)) ∧
  (parityP [] = 0 ∧ parityQ [] = 0 ∧ ∀ ds d, parityP (ds ++ [d]) = parityP ds ^^^ d ∧
    parityQ (ds ++ [d]) = parityQ ds ^^^ gfMul (gfPow ds.length) d) ∧
  (∀ ds : List Nat, ds.length ≤ 8 → (∀ d ∈ ds, d < 256) →
    let known (lost : List Nat) : List (Option Nat) :=
      (List.range ds.length).map fun i => if lost.contains i then none else some (ds.getD i 0)
    (∀ p q, recoverByte (known []) p q = some ds) ∧
    (∀ a, a < ds.length → recoverByte (known [a]) (some (parityP ds)) none = some ds ∧
      recoverByte (known [a]) (some (parityP ds)) (some (parityQ ds)) = some ds ∧
      recoverByte (known [a]) none (some (parityQ ds)) = some ds) ∧
    ∀ a b, a < b → b < ds.length → recoverByte (known [a, b]) (some (parityP ds)) (some (parityQ ds)) = some ds) ∧
  (∀ (s : State) (t : Thatch) (y : Nat), let sh := t.ysize / t.k
    let col (i : Nat) : List Nat := (List.range t.k).map fun d => (memGet s.mem (t.shardAt d y i)).toNat
    1 ≤ t.k → t.k ≤ 8 → (t.m = 1 ∨ t.m = 2) → s.poison = [] →
    (∀ i, i < sh → (memGet s.mem (t.shardAt t.k y i)).toNat = parityP (col i)) →
    (∀ i, i < sh → t.m = 2 → (memGet s.mem (t.shardAt (t.k + 1) y i)).toNat = parityQ (col i)) →
    ∀ lost, lost < t.k → s.rebuildShard t y lost = some ((List.range sh).map fun i => memGet s.mem (t.shardAt lost y i)))
end

