-- ==== Sys2Proof/Laws/Encoding.lean ====
section
/-! SUPPORT. Bytes and fields: the decoder reads from an instruction's bytes the fields they were made from. -/

namespace Sys2Proof

/-- Bytes of a parcel make the parcel again. -/
theorem parcel_bytes (p : Word) :
    parcel (p.extractLsb' 0 8) (p.extractLsb' 8 8) (p.extractLsb' 16 8) (p.extractLsb' 24 8) = p := by
  unfold parcel
  ext i hi
  simp only [BitVec.getElem_append, BitVec.getElem_extractLsb']
  repeat' split
  all_goals (simp only [← BitVec.getLsbD_eq_getElem]; congr 1; omega)

/-- A field that lies in the low part of a concatenation. -/
theorem extract_low {n m : Nat} (x : BitVec n) (y : BitVec m) {s w : Nat} (h : s + w ≤ m) :
    (x ++ y).extractLsb' s w = y.extractLsb' s w := by
  ext i hi
  simp only [BitVec.getElem_extractLsb', BitVec.getLsbD_append]
  rw [if_pos (by omega)]

/-- A field that lies in the high part of a concatenation. -/
theorem extract_high {n m : Nat} (x : BitVec n) (y : BitVec m) {s w : Nat} (h : m ≤ s) :
    (x ++ y).extractLsb' s w = x.extractLsb' (s - m) w := by
  ext i hi
  simp only [BitVec.getElem_extractLsb', BitVec.getLsbD_append]
  rw [if_neg (by omega)]
  congr 1; omega

/-- The whole of a value. -/
theorem extract_all {n : Nat} (x : BitVec n) : x.extractLsb' 0 n = x := by
  ext i hi
  simp

/-- LEN is read back. -/
theorem Len.dec_enc (l : Len) : Len.dec l.enc = some l := by cases l <;> rfl

/-- The fields that a length does not have are zero (R21 to R23). -/
def Raw.fits (r : Raw) : Prop :=
  (r.len = .l64 → r.w = 0) ∧
  (r.len ≠ .l128 → r.c = 0 ∧ r.x4 = 0 ∧ r.g1 = 0 ∧ r.n1 = 0 ∧ r.gcomb = 0 ∧ r.chint = 0 ∧ r.ops = 0 ∧ r.pad = 0)

/-- The fields of the first two parcels are read back. -/
theorem fields01 (r : Raw) (e : BitVec 2) :
    let p0 : Word := (r.setf ++ r.wait ++ r.stall ++ r.opc ++ e : BitVec 32)
    let p1 : Word := (r.b ++ r.a ++ r.dst ++ r.n0 ++ r.g0 : BitVec 32)
    p0.extractLsb' 0 2 = e ∧ p0.extractLsb' 2 10 = r.opc ∧ p0.extractLsb' 12 4 = r.stall ∧ p0.extractLsb' 16 12 = r.wait ∧
    p0.extractLsb' 28 4 = r.setf ∧ p1.extractLsb' 0 7 = r.g0 ∧ p1.extractLsb' 7 1 = r.n0 ∧ p1.extractLsb' 8 8 = r.dst ∧
    p1.extractLsb' 16 8 = r.a ∧ p1.extractLsb' 24 8 = r.b := by
  refine ⟨?_, ?_, ?_, ?_, ?_, ?_, ?_, ?_, ?_, ?_⟩ <;>
    · repeat first
        | rw [extract_low _ _ (by decide)]
        | rw [extract_high _ _ (by decide)]
      first
        | exact extract_all _
        | rfl

/-- The fields of the third parcel of the longest form are read back (R23). -/
theorem fields2 (r : Raw) :
    let p2 : Word := (r.pad ++ r.ops ++ r.chint ++ r.gcomb ++ r.n1 ++ r.g1 ++ r.x4 ++ r.c : BitVec 32)
    p2.extractLsb' 0 8 = r.c ∧ p2.extractLsb' 8 8 = r.x4 ∧ p2.extractLsb' 16 7 = r.g1 ∧ p2.extractLsb' 23 1 = r.n1 ∧
    p2.extractLsb' 24 2 = r.gcomb ∧ p2.extractLsb' 26 3 = r.chint ∧ p2.extractLsb' 29 1 = r.ops ∧ p2.extractLsb' 30 2 = r.pad := by
  refine ⟨?_, ?_, ?_, ?_, ?_, ?_, ?_, ?_⟩ <;>
    · repeat first
        | rw [extract_low _ _ (by decide)]
        | rw [extract_high _ _ (by decide)]
      first
        | exact extract_all _
        | rfl

/-- The parcels of some fields give them back. -/
theorem Raw.ofParcels_64 {r : Raw} (hl : r.len = .l64) (h : r.fits) (e : BitVec 2) (p2 p3 : Word) :
    Raw.ofParcels .l64 (r.setf ++ r.wait ++ r.stall ++ r.opc ++ e : BitVec 32) (r.b ++ r.a ++ r.dst ++ r.n0 ++ r.g0 : BitVec 32)
      p2 p3 = r := by
  obtain ⟨-, f2, f3, f4, f5, f6, f7, f8, f9, f10⟩ := fields01 r e
  obtain ⟨hw, hz⟩ := h
  obtain ⟨z1, z2, z3, z4, z5, z6, z7, z8⟩ := hz (by simp [hl])
  cases r
  simp_all [Raw.ofParcels]

theorem Raw.ofParcels_96 {r : Raw} (hl : r.len = .l96) (h : r.fits) (e : BitVec 2) (p3 : Word) :
    Raw.ofParcels .l96 (r.setf ++ r.wait ++ r.stall ++ r.opc ++ e : BitVec 32) (r.b ++ r.a ++ r.dst ++ r.n0 ++ r.g0 : BitVec 32)
      r.w p3 = r := by
  obtain ⟨-, f2, f3, f4, f5, f6, f7, f8, f9, f10⟩ := fields01 r e
  obtain ⟨-, hz⟩ := h
  obtain ⟨z1, z2, z3, z4, z5, z6, z7, z8⟩ := hz (by simp [hl])
  cases r
  simp_all [Raw.ofParcels]

theorem Raw.ofParcels_128 {r : Raw} (hl : r.len = .l128) (e : BitVec 2) :
    Raw.ofParcels .l128 (r.setf ++ r.wait ++ r.stall ++ r.opc ++ e : BitVec 32) (r.b ++ r.a ++ r.dst ++ r.n0 ++ r.g0 : BitVec 32)
      (r.pad ++ r.ops ++ r.chint ++ r.gcomb ++ r.n1 ++ r.g1 ++ r.x4 ++ r.c : BitVec 32) r.w = r := by
  obtain ⟨-, f2, f3, f4, f5, f6, f7, f8, f9, f10⟩ := fields01 r e
  obtain ⟨g1, g2, g3, g4, g5, g6, g7, g8⟩ := fields2 r
  cases r
  simp_all [Raw.ofParcels]

/-- The bytes of some fields, wherever they stand in a block that holds them, decode as the fields do. -/
theorem decode_bytes (k : DecodeCtx) (pc : DWord) (r : Raw) (rest : List Byte) (h : r.fits) (ha : pc.extractLsb' 0 2 = 0)
    (hb : pc.toNat % 32 + r.len.bytes ≤ 32) :
    decode k pc (r.parcels.flatMap parcelBytes ++ rest) = (decodeRaw k r).map fun i => (i, rest) := by
  have hlen : (r.setf ++ r.wait ++ r.stall ++ r.opc ++ r.len.enc : BitVec 32).extractLsb' 0 2 = r.len.enc := (fields01 r r.len.enc).1
  rcases hl : r.len with _ | _ | _
  · have e : r.parcels = [(r.setf ++ r.wait ++ r.stall ++ r.opc ++ r.len.enc : BitVec 32), (r.b ++ r.a ++ r.dst ++ r.n0 ++ r.g0 : BitVec 32)] := by
      simp only [Raw.parcels, hl]
    rw [e]
    simp only [List.flatMap_cons, List.flatMap_nil, parcelBytes, List.cons_append, List.nil_append, decode, parcel_bytes, hlen, Len.dec_enc, ha]
    rw [if_neg (by simp), if_neg (by omega)]
    simp only [hl, parcel_bytes]
    rw [Raw.ofParcels_64 hl h]
  · have e : r.parcels = [(r.setf ++ r.wait ++ r.stall ++ r.opc ++ r.len.enc : BitVec 32), (r.b ++ r.a ++ r.dst ++ r.n0 ++ r.g0 : BitVec 32), r.w] := by
      simp only [Raw.parcels, hl]
    rw [e]
    simp only [List.flatMap_cons, List.flatMap_nil, parcelBytes, List.cons_append, List.nil_append, decode, parcel_bytes, hlen, Len.dec_enc, ha]
    rw [if_neg (by simp), if_neg (by omega)]
    simp only [hl, parcel_bytes]
    rw [Raw.ofParcels_96 hl h]
  · have e : r.parcels = [(r.setf ++ r.wait ++ r.stall ++ r.opc ++ r.len.enc : BitVec 32), (r.b ++ r.a ++ r.dst ++ r.n0 ++ r.g0 : BitVec 32),
        (r.pad ++ r.ops ++ r.chint ++ r.gcomb ++ r.n1 ++ r.g1 ++ r.x4 ++ r.c : BitVec 32), r.w] := by
      simp only [Raw.parcels, hl]
    rw [e]
    simp only [List.flatMap_cons, List.flatMap_nil, parcelBytes, List.cons_append, List.nil_append, decode, parcel_bytes, hlen, Len.dec_enc, ha]
    rw [if_neg (by simp), if_neg (by omega)]
    simp only [hl, parcel_bytes]
    rw [Raw.ofParcels_128 hl]

end Sys2Proof
end

