-- ==== Sys2Proof/Laws/Lanes.lean ====
section
/-! SUPPORT. What an issue does to its threads: one lemma for every instruction that acts lane by lane. -/

namespace Sys2Proof.Machine

/-- A thread whose guard is false only moves past the instruction. -/
theorem issueLane_off {s : State} {c : Ctl} {lat : Nat} {f : Thread → LaneRes} {t : Thread} (h : t.guard c = false) :
    s.issueLane c lat f t = t.past s.clock (t.pc + BitVec.ofNat 64 c.len.bytes) := by
  simp [State.issueLane, h, Thread.skip, Thread.issued, Thread.past, Thread.nextPc]

/-- A lane that traps. -/
theorem issueLane_trap {s : State} {c : Ctl} {lat : Nat} {f : Thread → LaneRes} {t : Thread} {e : Cause}
    (h : t.guard c = true) (hf : f t = .error e) : TrapsWith s c e t (s.issueLane c lat f t) := by
  simp [State.issueLane, h, hf, TrapsWith, Thread.stoppedBy, Thread.trap, Thread.record]

/-- A lane that completes. -/
theorem issueLane_ok {s : State} {c : Ctl} {lat : Nat} {f : Thread → LaneRes} {t : Thread} {o : LaneOut}
    (h : t.guard c = true) (hf : f t = .ok o) (hp : o.pc = none) (hl : lat ≠ 0) :
    Completes s c lat o.regs o.preds o.sticky t (s.issueLane c lat f t) := by
  unfold Completes State.issueLane
  simp only [h, hf, hp, Option.getD_none]
  cases hd : dataCause (o.sticky &&& s.trapen t) <;> by_cases h15 : c.setf = 15#4 <;>
    simp [Thread.issued, Thread.land, hl, Thread.flagAdd, Thread.past, Thread.withResult, Thread.nextPc, Thread.trap, Thread.record, h15]

/-- A lane ends as its outcome says. -/
theorem issueLane_ends {s : State} {c : Ctl} {lat : Nat} {f : Thread → LaneRes} {t : Thread}
    (h : t.guard c = true) (hp : ∀ o, f t = .ok o → o.pc = none) (hl : lat ≠ 0) :
    LaneEnds s c lat (f t) t (s.issueLane c lat f t) := by
  unfold LaneEnds
  cases hf : f t with
  | ok o => exact issueLane_ok h hf (hp o hf) hl
  | error e => exact issueLane_trap h hf

/-- Tags that do not resolve end in TAG_MISMATCH (R53). -/
theorem resolveTags_error {dflt : Byte} {ok : Byte → Bool} {tags : List Byte} {e : Cause}
    (h : resolveTags dflt ok tags = .error e) : e = cTagMismatch := by
  unfold resolveTags at h
  split at h
  · simpa using h.symm
  · split at h <;> split at h <;> simp_all

/-- A resolved tag is one the instruction accepts. -/
theorem resolveTags_ok {dflt : Byte} {ok : Byte → Bool} {tags : List Byte} {tag : Byte}
    (h : resolveTags dflt ok tags = .ok tag) : ok tag = true := by
  unfold resolveTags at h
  split at h
  · simp at h
  · split at h <;> split at h <;> simp_all

/-- A lane whose outcome is a function of its resolved tag. -/
theorem resolves_issueLane {s : State} {c : Ctl} {dflt : Byte} {ok : Byte → Bool} {tags : List Byte} {lat : Nat}
    {out : Byte → List (Nat × VReg) × List (Nat × Bool) × Word} {f : Thread → LaneRes} {t : Thread} (g : Byte → LaneOut)
    (hf : f t = (resolveTags dflt ok tags).map g) (hl : lat ≠ 0) (hg : t.guard c = true)
    (ho : ∀ tag, ok tag = true → (g tag).pc = none ∧ out tag = ((g tag).regs, (g tag).preds, (g tag).sticky)) :
    Resolves s c dflt ok tags lat out t (s.issueLane c lat f t) := by
  unfold Resolves
  cases hr : resolveTags dflt ok tags with
  | ok tag =>
    obtain ⟨hp, ho⟩ := ho tag (resolveTags_ok hr)
    simp only [ho]
    exact issueLane_ok hg (by rw [hf, hr]; rfl) hp hl
  | error e =>
    obtain rfl := resolveTags_error hr
    exact issueLane_trap hg (by rw [hf, hr]; rfl)

/-- An instruction whose meaning is an issue over the lanes acts on each lane on its own. -/
theorem lanes_of_issueAll {base s : State} {i : Instr} {c : Ctl} {lat : Nat} {f : Thread → LaneRes} {R : Thread → Thread → Prop}
    (h : exec i s = .next (base.issueAll c lat f)) (ht : base.threads = s.threads) (hi : base.issue = s.issue)
    (hc : base.clock = s.clock) (hR : ∀ t, t.guard c = true → R t (base.issueLane c lat f t)) : LanesFrom base s i c R := by
  refine ⟨_, h, rfl, by simp [State.issueAll, ht], ?_⟩
  intro k t t' hk hk'
  have hu : base.issueUids = s.issueUids := by simp [State.issueUids, hi]
  simp only [State.issueAll, ht, List.getElem?_map, hk, Option.map_some, Option.some.injEq, hu] at hk'
  subst hk'
  refine ⟨fun h => ?_, fun h hg => ?_, fun h hg => ?_⟩ <;> simp only [State.inGroup] at h <;> simp only [h, if_true]
  · rfl
  · rw [issueLane_off hg, hc]
  · exact hR t hg

end Sys2Proof.Machine
end

