-- ==== Sys2Proof/Laws/State.lean ====
section
/-! SUPPORT. What each update of the state leaves alone: one lemma for each update and field, true by definition. -/

namespace Sys2Proof.Machine

@[simp] theorem State.modThreads_waves (s : State) (uids : List Nat) (f : Thread → Thread) : (s.modThreads uids f).waves = s.waves := rfl
@[simp] theorem State.modThreads_wgs (s : State) (uids : List Nat) (f : Thread → Thread) : (s.modThreads uids f).wgs = s.wgs := rfl
@[simp] theorem State.modThreads_launches (s : State) (uids : List Nat) (f : Thread → Thread) : (s.modThreads uids f).launches = s.launches := rfl
@[simp] theorem State.modThreads_cores (s : State) (uids : List Nat) (f : Thread → Thread) : (s.modThreads uids f).cores = s.cores := rfl
@[simp] theorem State.modThreads_mem (s : State) (uids : List Nat) (f : Thread → Thread) : (s.modThreads uids f).mem = s.mem := rfl
@[simp] theorem State.modThreads_media (s : State) (uids : List Nat) (f : Thread → Thread) : (s.modThreads uids f).media = s.media := rfl
@[simp] theorem State.modThreads_pq (s : State) (uids : List Nat) (f : Thread → Thread) : (s.modThreads uids f).pq = s.pq := rfl
@[simp] theorem State.modThreads_dirty (s : State) (uids : List Nat) (f : Thread → Thread) : (s.modThreads uids f).dirty = s.dirty := rfl
@[simp] theorem State.modThreads_tags (s : State) (uids : List Nat) (f : Thread → Thread) : (s.modThreads uids f).tags = s.tags := rfl
@[simp] theorem State.modThreads_poison (s : State) (uids : List Nat) (f : Thread → Thread) : (s.modThreads uids f).poison = s.poison := rfl
@[simp] theorem State.modThreads_inflight (s : State) (uids : List Nat) (f : Thread → Thread) : (s.modThreads uids f).inflight = s.inflight := rfl
@[simp] theorem State.modThreads_cmds (s : State) (uids : List Nat) (f : Thread → Thread) : (s.modThreads uids f).cmds = s.cmds := rfl
@[simp] theorem State.modThreads_locks (s : State) (uids : List Nat) (f : Thread → Thread) : (s.modThreads uids f).locks = s.locks := rfl
@[simp] theorem State.modThreads_woken (s : State) (uids : List Nat) (f : Thread → Thread) : (s.modThreads uids f).woken = s.woken := rfl
@[simp] theorem State.modThreads_marks (s : State) (uids : List Nat) (f : Thread → Thread) : (s.modThreads uids f).marks = s.marks := rfl
@[simp] theorem State.modThreads_rolling (s : State) (uids : List Nat) (f : Thread → Thread) : (s.modThreads uids f).rolling = s.rolling := rfl
@[simp] theorem State.modThreads_nvm (s : State) (uids : List Nat) (f : Thread → Thread) : (s.modThreads uids f).nvm = s.nvm := rfl
@[simp] theorem State.modThreads_mmu (s : State) (uids : List Nat) (f : Thread → Thread) : (s.modThreads uids f).mmu = s.mmu := rfl
@[simp] theorem State.modThreads_thatches (s : State) (uids : List Nat) (f : Thread → Thread) : (s.modThreads uids f).thatches = s.thatches := rfl
@[simp] theorem State.modThreads_ckpt (s : State) (uids : List Nat) (f : Thread → Thread) : (s.modThreads uids f).ckpt = s.ckpt := rfl
@[simp] theorem State.modThreads_cmd (s : State) (uids : List Nat) (f : Thread → Thread) : (s.modThreads uids f).cmd = s.cmd := rfl
@[simp] theorem State.modThreads_links (s : State) (uids : List Nat) (f : Thread → Thread) : (s.modThreads uids f).links = s.links := rfl
@[simp] theorem State.modThreads_power (s : State) (uids : List Nat) (f : Thread → Thread) : (s.modThreads uids f).power = s.power := rfl
@[simp] theorem State.modThreads_enabled (s : State) (uids : List Nat) (f : Thread → Thread) : (s.modThreads uids f).enabled = s.enabled := rfl
@[simp] theorem State.modThreads_agenda (s : State) (uids : List Nat) (f : Thread → Thread) : (s.modThreads uids f).agenda = s.agenda := rfl
@[simp] theorem State.modThreads_issue (s : State) (uids : List Nat) (f : Thread → Thread) : (s.modThreads uids f).issue = s.issue := rfl
@[simp] theorem State.modThreads_clock (s : State) (uids : List Nat) (f : Thread → Thread) : (s.modThreads uids f).clock = s.clock := rfl
@[simp] theorem State.modThreads_free (s : State) (uids : List Nat) (f : Thread → Thread) : (s.modThreads uids f).free = s.free := rfl
@[simp] theorem State.modThreads_nextId (s : State) (uids : List Nat) (f : Thread → Thread) : (s.modThreads uids f).nextId = s.nextId := rfl

@[simp] theorem State.modThread_waves (s : State) (uid : Nat) (f : Thread → Thread) : (s.modThread uid f).waves = s.waves := rfl
@[simp] theorem State.modThread_wgs (s : State) (uid : Nat) (f : Thread → Thread) : (s.modThread uid f).wgs = s.wgs := rfl
@[simp] theorem State.modThread_launches (s : State) (uid : Nat) (f : Thread → Thread) : (s.modThread uid f).launches = s.launches := rfl
@[simp] theorem State.modThread_cores (s : State) (uid : Nat) (f : Thread → Thread) : (s.modThread uid f).cores = s.cores := rfl
@[simp] theorem State.modThread_mem (s : State) (uid : Nat) (f : Thread → Thread) : (s.modThread uid f).mem = s.mem := rfl
@[simp] theorem State.modThread_media (s : State) (uid : Nat) (f : Thread → Thread) : (s.modThread uid f).media = s.media := rfl
@[simp] theorem State.modThread_pq (s : State) (uid : Nat) (f : Thread → Thread) : (s.modThread uid f).pq = s.pq := rfl
@[simp] theorem State.modThread_dirty (s : State) (uid : Nat) (f : Thread → Thread) : (s.modThread uid f).dirty = s.dirty := rfl
@[simp] theorem State.modThread_tags (s : State) (uid : Nat) (f : Thread → Thread) : (s.modThread uid f).tags = s.tags := rfl
@[simp] theorem State.modThread_poison (s : State) (uid : Nat) (f : Thread → Thread) : (s.modThread uid f).poison = s.poison := rfl
@[simp] theorem State.modThread_inflight (s : State) (uid : Nat) (f : Thread → Thread) : (s.modThread uid f).inflight = s.inflight := rfl
@[simp] theorem State.modThread_cmds (s : State) (uid : Nat) (f : Thread → Thread) : (s.modThread uid f).cmds = s.cmds := rfl
@[simp] theorem State.modThread_locks (s : State) (uid : Nat) (f : Thread → Thread) : (s.modThread uid f).locks = s.locks := rfl
@[simp] theorem State.modThread_woken (s : State) (uid : Nat) (f : Thread → Thread) : (s.modThread uid f).woken = s.woken := rfl
@[simp] theorem State.modThread_marks (s : State) (uid : Nat) (f : Thread → Thread) : (s.modThread uid f).marks = s.marks := rfl
@[simp] theorem State.modThread_rolling (s : State) (uid : Nat) (f : Thread → Thread) : (s.modThread uid f).rolling = s.rolling := rfl
@[simp] theorem State.modThread_nvm (s : State) (uid : Nat) (f : Thread → Thread) : (s.modThread uid f).nvm = s.nvm := rfl
@[simp] theorem State.modThread_mmu (s : State) (uid : Nat) (f : Thread → Thread) : (s.modThread uid f).mmu = s.mmu := rfl
@[simp] theorem State.modThread_thatches (s : State) (uid : Nat) (f : Thread → Thread) : (s.modThread uid f).thatches = s.thatches := rfl
@[simp] theorem State.modThread_ckpt (s : State) (uid : Nat) (f : Thread → Thread) : (s.modThread uid f).ckpt = s.ckpt := rfl
@[simp] theorem State.modThread_cmd (s : State) (uid : Nat) (f : Thread → Thread) : (s.modThread uid f).cmd = s.cmd := rfl
@[simp] theorem State.modThread_links (s : State) (uid : Nat) (f : Thread → Thread) : (s.modThread uid f).links = s.links := rfl
@[simp] theorem State.modThread_power (s : State) (uid : Nat) (f : Thread → Thread) : (s.modThread uid f).power = s.power := rfl
@[simp] theorem State.modThread_enabled (s : State) (uid : Nat) (f : Thread → Thread) : (s.modThread uid f).enabled = s.enabled := rfl
@[simp] theorem State.modThread_agenda (s : State) (uid : Nat) (f : Thread → Thread) : (s.modThread uid f).agenda = s.agenda := rfl
@[simp] theorem State.modThread_issue (s : State) (uid : Nat) (f : Thread → Thread) : (s.modThread uid f).issue = s.issue := rfl
@[simp] theorem State.modThread_clock (s : State) (uid : Nat) (f : Thread → Thread) : (s.modThread uid f).clock = s.clock := rfl
@[simp] theorem State.modThread_free (s : State) (uid : Nat) (f : Thread → Thread) : (s.modThread uid f).free = s.free := rfl
@[simp] theorem State.modThread_nextId (s : State) (uid : Nat) (f : Thread → Thread) : (s.modThread uid f).nextId = s.nextId := rfl

@[simp] theorem State.modWave_threads (s : State) (wid : Nat) (f : Wave → Wave) : (s.modWave wid f).threads = s.threads := rfl
@[simp] theorem State.modWave_wgs (s : State) (wid : Nat) (f : Wave → Wave) : (s.modWave wid f).wgs = s.wgs := rfl
@[simp] theorem State.modWave_launches (s : State) (wid : Nat) (f : Wave → Wave) : (s.modWave wid f).launches = s.launches := rfl
@[simp] theorem State.modWave_cores (s : State) (wid : Nat) (f : Wave → Wave) : (s.modWave wid f).cores = s.cores := rfl
@[simp] theorem State.modWave_mem (s : State) (wid : Nat) (f : Wave → Wave) : (s.modWave wid f).mem = s.mem := rfl
@[simp] theorem State.modWave_media (s : State) (wid : Nat) (f : Wave → Wave) : (s.modWave wid f).media = s.media := rfl
@[simp] theorem State.modWave_pq (s : State) (wid : Nat) (f : Wave → Wave) : (s.modWave wid f).pq = s.pq := rfl
@[simp] theorem State.modWave_dirty (s : State) (wid : Nat) (f : Wave → Wave) : (s.modWave wid f).dirty = s.dirty := rfl
@[simp] theorem State.modWave_tags (s : State) (wid : Nat) (f : Wave → Wave) : (s.modWave wid f).tags = s.tags := rfl
@[simp] theorem State.modWave_poison (s : State) (wid : Nat) (f : Wave → Wave) : (s.modWave wid f).poison = s.poison := rfl
@[simp] theorem State.modWave_inflight (s : State) (wid : Nat) (f : Wave → Wave) : (s.modWave wid f).inflight = s.inflight := rfl
@[simp] theorem State.modWave_cmds (s : State) (wid : Nat) (f : Wave → Wave) : (s.modWave wid f).cmds = s.cmds := rfl
@[simp] theorem State.modWave_locks (s : State) (wid : Nat) (f : Wave → Wave) : (s.modWave wid f).locks = s.locks := rfl
@[simp] theorem State.modWave_woken (s : State) (wid : Nat) (f : Wave → Wave) : (s.modWave wid f).woken = s.woken := rfl
@[simp] theorem State.modWave_marks (s : State) (wid : Nat) (f : Wave → Wave) : (s.modWave wid f).marks = s.marks := rfl
@[simp] theorem State.modWave_rolling (s : State) (wid : Nat) (f : Wave → Wave) : (s.modWave wid f).rolling = s.rolling := rfl
@[simp] theorem State.modWave_nvm (s : State) (wid : Nat) (f : Wave → Wave) : (s.modWave wid f).nvm = s.nvm := rfl
@[simp] theorem State.modWave_mmu (s : State) (wid : Nat) (f : Wave → Wave) : (s.modWave wid f).mmu = s.mmu := rfl
@[simp] theorem State.modWave_thatches (s : State) (wid : Nat) (f : Wave → Wave) : (s.modWave wid f).thatches = s.thatches := rfl
@[simp] theorem State.modWave_ckpt (s : State) (wid : Nat) (f : Wave → Wave) : (s.modWave wid f).ckpt = s.ckpt := rfl
@[simp] theorem State.modWave_cmd (s : State) (wid : Nat) (f : Wave → Wave) : (s.modWave wid f).cmd = s.cmd := rfl
@[simp] theorem State.modWave_links (s : State) (wid : Nat) (f : Wave → Wave) : (s.modWave wid f).links = s.links := rfl
@[simp] theorem State.modWave_power (s : State) (wid : Nat) (f : Wave → Wave) : (s.modWave wid f).power = s.power := rfl
@[simp] theorem State.modWave_enabled (s : State) (wid : Nat) (f : Wave → Wave) : (s.modWave wid f).enabled = s.enabled := rfl
@[simp] theorem State.modWave_agenda (s : State) (wid : Nat) (f : Wave → Wave) : (s.modWave wid f).agenda = s.agenda := rfl
@[simp] theorem State.modWave_issue (s : State) (wid : Nat) (f : Wave → Wave) : (s.modWave wid f).issue = s.issue := rfl
@[simp] theorem State.modWave_clock (s : State) (wid : Nat) (f : Wave → Wave) : (s.modWave wid f).clock = s.clock := rfl
@[simp] theorem State.modWave_free (s : State) (wid : Nat) (f : Wave → Wave) : (s.modWave wid f).free = s.free := rfl
@[simp] theorem State.modWave_nextId (s : State) (wid : Nat) (f : Wave → Wave) : (s.modWave wid f).nextId = s.nextId := rfl

@[simp] theorem State.modWg_threads (s : State) (lnum idx : Nat) (f : Wg → Wg) : (s.modWg lnum idx f).threads = s.threads := rfl
@[simp] theorem State.modWg_waves (s : State) (lnum idx : Nat) (f : Wg → Wg) : (s.modWg lnum idx f).waves = s.waves := rfl
@[simp] theorem State.modWg_launches (s : State) (lnum idx : Nat) (f : Wg → Wg) : (s.modWg lnum idx f).launches = s.launches := rfl
@[simp] theorem State.modWg_cores (s : State) (lnum idx : Nat) (f : Wg → Wg) : (s.modWg lnum idx f).cores = s.cores := rfl
@[simp] theorem State.modWg_mem (s : State) (lnum idx : Nat) (f : Wg → Wg) : (s.modWg lnum idx f).mem = s.mem := rfl
@[simp] theorem State.modWg_media (s : State) (lnum idx : Nat) (f : Wg → Wg) : (s.modWg lnum idx f).media = s.media := rfl
@[simp] theorem State.modWg_pq (s : State) (lnum idx : Nat) (f : Wg → Wg) : (s.modWg lnum idx f).pq = s.pq := rfl
@[simp] theorem State.modWg_dirty (s : State) (lnum idx : Nat) (f : Wg → Wg) : (s.modWg lnum idx f).dirty = s.dirty := rfl
@[simp] theorem State.modWg_tags (s : State) (lnum idx : Nat) (f : Wg → Wg) : (s.modWg lnum idx f).tags = s.tags := rfl
@[simp] theorem State.modWg_poison (s : State) (lnum idx : Nat) (f : Wg → Wg) : (s.modWg lnum idx f).poison = s.poison := rfl
@[simp] theorem State.modWg_inflight (s : State) (lnum idx : Nat) (f : Wg → Wg) : (s.modWg lnum idx f).inflight = s.inflight := rfl
@[simp] theorem State.modWg_cmds (s : State) (lnum idx : Nat) (f : Wg → Wg) : (s.modWg lnum idx f).cmds = s.cmds := rfl
@[simp] theorem State.modWg_locks (s : State) (lnum idx : Nat) (f : Wg → Wg) : (s.modWg lnum idx f).locks = s.locks := rfl
@[simp] theorem State.modWg_woken (s : State) (lnum idx : Nat) (f : Wg → Wg) : (s.modWg lnum idx f).woken = s.woken := rfl
@[simp] theorem State.modWg_marks (s : State) (lnum idx : Nat) (f : Wg → Wg) : (s.modWg lnum idx f).marks = s.marks := rfl
@[simp] theorem State.modWg_rolling (s : State) (lnum idx : Nat) (f : Wg → Wg) : (s.modWg lnum idx f).rolling = s.rolling := rfl
@[simp] theorem State.modWg_nvm (s : State) (lnum idx : Nat) (f : Wg → Wg) : (s.modWg lnum idx f).nvm = s.nvm := rfl
@[simp] theorem State.modWg_mmu (s : State) (lnum idx : Nat) (f : Wg → Wg) : (s.modWg lnum idx f).mmu = s.mmu := rfl
@[simp] theorem State.modWg_thatches (s : State) (lnum idx : Nat) (f : Wg → Wg) : (s.modWg lnum idx f).thatches = s.thatches := rfl
@[simp] theorem State.modWg_ckpt (s : State) (lnum idx : Nat) (f : Wg → Wg) : (s.modWg lnum idx f).ckpt = s.ckpt := rfl
@[simp] theorem State.modWg_cmd (s : State) (lnum idx : Nat) (f : Wg → Wg) : (s.modWg lnum idx f).cmd = s.cmd := rfl
@[simp] theorem State.modWg_links (s : State) (lnum idx : Nat) (f : Wg → Wg) : (s.modWg lnum idx f).links = s.links := rfl
@[simp] theorem State.modWg_power (s : State) (lnum idx : Nat) (f : Wg → Wg) : (s.modWg lnum idx f).power = s.power := rfl
@[simp] theorem State.modWg_enabled (s : State) (lnum idx : Nat) (f : Wg → Wg) : (s.modWg lnum idx f).enabled = s.enabled := rfl
@[simp] theorem State.modWg_agenda (s : State) (lnum idx : Nat) (f : Wg → Wg) : (s.modWg lnum idx f).agenda = s.agenda := rfl
@[simp] theorem State.modWg_issue (s : State) (lnum idx : Nat) (f : Wg → Wg) : (s.modWg lnum idx f).issue = s.issue := rfl
@[simp] theorem State.modWg_clock (s : State) (lnum idx : Nat) (f : Wg → Wg) : (s.modWg lnum idx f).clock = s.clock := rfl
@[simp] theorem State.modWg_free (s : State) (lnum idx : Nat) (f : Wg → Wg) : (s.modWg lnum idx f).free = s.free := rfl
@[simp] theorem State.modWg_nextId (s : State) (lnum idx : Nat) (f : Wg → Wg) : (s.modWg lnum idx f).nextId = s.nextId := rfl

@[simp] theorem State.modLaunch_threads (s : State) (lnum : Nat) (f : Launch → Launch) : (s.modLaunch lnum f).threads = s.threads := rfl
@[simp] theorem State.modLaunch_waves (s : State) (lnum : Nat) (f : Launch → Launch) : (s.modLaunch lnum f).waves = s.waves := rfl
@[simp] theorem State.modLaunch_wgs (s : State) (lnum : Nat) (f : Launch → Launch) : (s.modLaunch lnum f).wgs = s.wgs := rfl
@[simp] theorem State.modLaunch_cores (s : State) (lnum : Nat) (f : Launch → Launch) : (s.modLaunch lnum f).cores = s.cores := rfl
@[simp] theorem State.modLaunch_mem (s : State) (lnum : Nat) (f : Launch → Launch) : (s.modLaunch lnum f).mem = s.mem := rfl
@[simp] theorem State.modLaunch_media (s : State) (lnum : Nat) (f : Launch → Launch) : (s.modLaunch lnum f).media = s.media := rfl
@[simp] theorem State.modLaunch_pq (s : State) (lnum : Nat) (f : Launch → Launch) : (s.modLaunch lnum f).pq = s.pq := rfl
@[simp] theorem State.modLaunch_dirty (s : State) (lnum : Nat) (f : Launch → Launch) : (s.modLaunch lnum f).dirty = s.dirty := rfl
@[simp] theorem State.modLaunch_tags (s : State) (lnum : Nat) (f : Launch → Launch) : (s.modLaunch lnum f).tags = s.tags := rfl
@[simp] theorem State.modLaunch_poison (s : State) (lnum : Nat) (f : Launch → Launch) : (s.modLaunch lnum f).poison = s.poison := rfl
@[simp] theorem State.modLaunch_inflight (s : State) (lnum : Nat) (f : Launch → Launch) : (s.modLaunch lnum f).inflight = s.inflight := rfl
@[simp] theorem State.modLaunch_cmds (s : State) (lnum : Nat) (f : Launch → Launch) : (s.modLaunch lnum f).cmds = s.cmds := rfl
@[simp] theorem State.modLaunch_locks (s : State) (lnum : Nat) (f : Launch → Launch) : (s.modLaunch lnum f).locks = s.locks := rfl
@[simp] theorem State.modLaunch_woken (s : State) (lnum : Nat) (f : Launch → Launch) : (s.modLaunch lnum f).woken = s.woken := rfl
@[simp] theorem State.modLaunch_marks (s : State) (lnum : Nat) (f : Launch → Launch) : (s.modLaunch lnum f).marks = s.marks := rfl
@[simp] theorem State.modLaunch_rolling (s : State) (lnum : Nat) (f : Launch → Launch) : (s.modLaunch lnum f).rolling = s.rolling := rfl
@[simp] theorem State.modLaunch_nvm (s : State) (lnum : Nat) (f : Launch → Launch) : (s.modLaunch lnum f).nvm = s.nvm := rfl
@[simp] theorem State.modLaunch_mmu (s : State) (lnum : Nat) (f : Launch → Launch) : (s.modLaunch lnum f).mmu = s.mmu := rfl
@[simp] theorem State.modLaunch_thatches (s : State) (lnum : Nat) (f : Launch → Launch) : (s.modLaunch lnum f).thatches = s.thatches := rfl
@[simp] theorem State.modLaunch_ckpt (s : State) (lnum : Nat) (f : Launch → Launch) : (s.modLaunch lnum f).ckpt = s.ckpt := rfl
@[simp] theorem State.modLaunch_cmd (s : State) (lnum : Nat) (f : Launch → Launch) : (s.modLaunch lnum f).cmd = s.cmd := rfl
@[simp] theorem State.modLaunch_links (s : State) (lnum : Nat) (f : Launch → Launch) : (s.modLaunch lnum f).links = s.links := rfl
@[simp] theorem State.modLaunch_power (s : State) (lnum : Nat) (f : Launch → Launch) : (s.modLaunch lnum f).power = s.power := rfl
@[simp] theorem State.modLaunch_enabled (s : State) (lnum : Nat) (f : Launch → Launch) : (s.modLaunch lnum f).enabled = s.enabled := rfl
@[simp] theorem State.modLaunch_agenda (s : State) (lnum : Nat) (f : Launch → Launch) : (s.modLaunch lnum f).agenda = s.agenda := rfl
@[simp] theorem State.modLaunch_issue (s : State) (lnum : Nat) (f : Launch → Launch) : (s.modLaunch lnum f).issue = s.issue := rfl
@[simp] theorem State.modLaunch_clock (s : State) (lnum : Nat) (f : Launch → Launch) : (s.modLaunch lnum f).clock = s.clock := rfl
@[simp] theorem State.modLaunch_free (s : State) (lnum : Nat) (f : Launch → Launch) : (s.modLaunch lnum f).free = s.free := rfl
@[simp] theorem State.modLaunch_nextId (s : State) (lnum : Nat) (f : Launch → Launch) : (s.modLaunch lnum f).nextId = s.nextId := rfl

@[simp] theorem State.setCore_threads (s : State) (c : Nat) (x : CoreSt) : (s.setCore c x).threads = s.threads := rfl
@[simp] theorem State.setCore_waves (s : State) (c : Nat) (x : CoreSt) : (s.setCore c x).waves = s.waves := rfl
@[simp] theorem State.setCore_wgs (s : State) (c : Nat) (x : CoreSt) : (s.setCore c x).wgs = s.wgs := rfl
@[simp] theorem State.setCore_launches (s : State) (c : Nat) (x : CoreSt) : (s.setCore c x).launches = s.launches := rfl
@[simp] theorem State.setCore_mem (s : State) (c : Nat) (x : CoreSt) : (s.setCore c x).mem = s.mem := rfl
@[simp] theorem State.setCore_media (s : State) (c : Nat) (x : CoreSt) : (s.setCore c x).media = s.media := rfl
@[simp] theorem State.setCore_pq (s : State) (c : Nat) (x : CoreSt) : (s.setCore c x).pq = s.pq := rfl
@[simp] theorem State.setCore_dirty (s : State) (c : Nat) (x : CoreSt) : (s.setCore c x).dirty = s.dirty := rfl
@[simp] theorem State.setCore_tags (s : State) (c : Nat) (x : CoreSt) : (s.setCore c x).tags = s.tags := rfl
@[simp] theorem State.setCore_poison (s : State) (c : Nat) (x : CoreSt) : (s.setCore c x).poison = s.poison := rfl
@[simp] theorem State.setCore_inflight (s : State) (c : Nat) (x : CoreSt) : (s.setCore c x).inflight = s.inflight := rfl
@[simp] theorem State.setCore_cmds (s : State) (c : Nat) (x : CoreSt) : (s.setCore c x).cmds = s.cmds := rfl
@[simp] theorem State.setCore_locks (s : State) (c : Nat) (x : CoreSt) : (s.setCore c x).locks = s.locks := rfl
@[simp] theorem State.setCore_woken (s : State) (c : Nat) (x : CoreSt) : (s.setCore c x).woken = s.woken := rfl
@[simp] theorem State.setCore_marks (s : State) (c : Nat) (x : CoreSt) : (s.setCore c x).marks = s.marks := rfl
@[simp] theorem State.setCore_rolling (s : State) (c : Nat) (x : CoreSt) : (s.setCore c x).rolling = s.rolling := rfl
@[simp] theorem State.setCore_nvm (s : State) (c : Nat) (x : CoreSt) : (s.setCore c x).nvm = s.nvm := rfl
@[simp] theorem State.setCore_mmu (s : State) (c : Nat) (x : CoreSt) : (s.setCore c x).mmu = s.mmu := rfl
@[simp] theorem State.setCore_thatches (s : State) (c : Nat) (x : CoreSt) : (s.setCore c x).thatches = s.thatches := rfl
@[simp] theorem State.setCore_ckpt (s : State) (c : Nat) (x : CoreSt) : (s.setCore c x).ckpt = s.ckpt := rfl
@[simp] theorem State.setCore_cmd (s : State) (c : Nat) (x : CoreSt) : (s.setCore c x).cmd = s.cmd := rfl
@[simp] theorem State.setCore_links (s : State) (c : Nat) (x : CoreSt) : (s.setCore c x).links = s.links := rfl
@[simp] theorem State.setCore_power (s : State) (c : Nat) (x : CoreSt) : (s.setCore c x).power = s.power := rfl
@[simp] theorem State.setCore_enabled (s : State) (c : Nat) (x : CoreSt) : (s.setCore c x).enabled = s.enabled := rfl
@[simp] theorem State.setCore_agenda (s : State) (c : Nat) (x : CoreSt) : (s.setCore c x).agenda = s.agenda := rfl
@[simp] theorem State.setCore_issue (s : State) (c : Nat) (x : CoreSt) : (s.setCore c x).issue = s.issue := rfl
@[simp] theorem State.setCore_clock (s : State) (c : Nat) (x : CoreSt) : (s.setCore c x).clock = s.clock := rfl
@[simp] theorem State.setCore_free (s : State) (c : Nat) (x : CoreSt) : (s.setCore c x).free = s.free := rfl
@[simp] theorem State.setCore_nextId (s : State) (c : Nat) (x : CoreSt) : (s.setCore c x).nextId = s.nextId := rfl

@[simp] theorem State.modCore_threads (s : State) (c : Nat) (f : CoreSt → CoreSt) : (s.modCore c f).threads = s.threads := rfl
@[simp] theorem State.modCore_waves (s : State) (c : Nat) (f : CoreSt → CoreSt) : (s.modCore c f).waves = s.waves := rfl
@[simp] theorem State.modCore_wgs (s : State) (c : Nat) (f : CoreSt → CoreSt) : (s.modCore c f).wgs = s.wgs := rfl
@[simp] theorem State.modCore_launches (s : State) (c : Nat) (f : CoreSt → CoreSt) : (s.modCore c f).launches = s.launches := rfl
@[simp] theorem State.modCore_mem (s : State) (c : Nat) (f : CoreSt → CoreSt) : (s.modCore c f).mem = s.mem := rfl
@[simp] theorem State.modCore_media (s : State) (c : Nat) (f : CoreSt → CoreSt) : (s.modCore c f).media = s.media := rfl
@[simp] theorem State.modCore_pq (s : State) (c : Nat) (f : CoreSt → CoreSt) : (s.modCore c f).pq = s.pq := rfl
@[simp] theorem State.modCore_dirty (s : State) (c : Nat) (f : CoreSt → CoreSt) : (s.modCore c f).dirty = s.dirty := rfl
@[simp] theorem State.modCore_tags (s : State) (c : Nat) (f : CoreSt → CoreSt) : (s.modCore c f).tags = s.tags := rfl
@[simp] theorem State.modCore_poison (s : State) (c : Nat) (f : CoreSt → CoreSt) : (s.modCore c f).poison = s.poison := rfl
@[simp] theorem State.modCore_inflight (s : State) (c : Nat) (f : CoreSt → CoreSt) : (s.modCore c f).inflight = s.inflight := rfl
@[simp] theorem State.modCore_cmds (s : State) (c : Nat) (f : CoreSt → CoreSt) : (s.modCore c f).cmds = s.cmds := rfl
@[simp] theorem State.modCore_locks (s : State) (c : Nat) (f : CoreSt → CoreSt) : (s.modCore c f).locks = s.locks := rfl
@[simp] theorem State.modCore_woken (s : State) (c : Nat) (f : CoreSt → CoreSt) : (s.modCore c f).woken = s.woken := rfl
@[simp] theorem State.modCore_marks (s : State) (c : Nat) (f : CoreSt → CoreSt) : (s.modCore c f).marks = s.marks := rfl
@[simp] theorem State.modCore_rolling (s : State) (c : Nat) (f : CoreSt → CoreSt) : (s.modCore c f).rolling = s.rolling := rfl
@[simp] theorem State.modCore_nvm (s : State) (c : Nat) (f : CoreSt → CoreSt) : (s.modCore c f).nvm = s.nvm := rfl
@[simp] theorem State.modCore_mmu (s : State) (c : Nat) (f : CoreSt → CoreSt) : (s.modCore c f).mmu = s.mmu := rfl
@[simp] theorem State.modCore_thatches (s : State) (c : Nat) (f : CoreSt → CoreSt) : (s.modCore c f).thatches = s.thatches := rfl
@[simp] theorem State.modCore_ckpt (s : State) (c : Nat) (f : CoreSt → CoreSt) : (s.modCore c f).ckpt = s.ckpt := rfl
@[simp] theorem State.modCore_cmd (s : State) (c : Nat) (f : CoreSt → CoreSt) : (s.modCore c f).cmd = s.cmd := rfl
@[simp] theorem State.modCore_links (s : State) (c : Nat) (f : CoreSt → CoreSt) : (s.modCore c f).links = s.links := rfl
@[simp] theorem State.modCore_power (s : State) (c : Nat) (f : CoreSt → CoreSt) : (s.modCore c f).power = s.power := rfl
@[simp] theorem State.modCore_enabled (s : State) (c : Nat) (f : CoreSt → CoreSt) : (s.modCore c f).enabled = s.enabled := rfl
@[simp] theorem State.modCore_agenda (s : State) (c : Nat) (f : CoreSt → CoreSt) : (s.modCore c f).agenda = s.agenda := rfl
@[simp] theorem State.modCore_issue (s : State) (c : Nat) (f : CoreSt → CoreSt) : (s.modCore c f).issue = s.issue := rfl
@[simp] theorem State.modCore_clock (s : State) (c : Nat) (f : CoreSt → CoreSt) : (s.modCore c f).clock = s.clock := rfl
@[simp] theorem State.modCore_free (s : State) (c : Nat) (f : CoreSt → CoreSt) : (s.modCore c f).free = s.free := rfl
@[simp] theorem State.modCore_nextId (s : State) (c : Nat) (f : CoreSt → CoreSt) : (s.modCore c f).nextId = s.nextId := rfl

@[simp] theorem State.trapAll_waves (s : State) (uids : List Nat) (c : Cause) (ilen : Nat) : (s.trapAll uids c ilen).waves = s.waves := rfl
@[simp] theorem State.trapAll_wgs (s : State) (uids : List Nat) (c : Cause) (ilen : Nat) : (s.trapAll uids c ilen).wgs = s.wgs := rfl
@[simp] theorem State.trapAll_launches (s : State) (uids : List Nat) (c : Cause) (ilen : Nat) : (s.trapAll uids c ilen).launches = s.launches := rfl
@[simp] theorem State.trapAll_mem (s : State) (uids : List Nat) (c : Cause) (ilen : Nat) : (s.trapAll uids c ilen).mem = s.mem := rfl
@[simp] theorem State.trapAll_media (s : State) (uids : List Nat) (c : Cause) (ilen : Nat) : (s.trapAll uids c ilen).media = s.media := rfl
@[simp] theorem State.trapAll_pq (s : State) (uids : List Nat) (c : Cause) (ilen : Nat) : (s.trapAll uids c ilen).pq = s.pq := rfl
@[simp] theorem State.trapAll_dirty (s : State) (uids : List Nat) (c : Cause) (ilen : Nat) : (s.trapAll uids c ilen).dirty = s.dirty := rfl
@[simp] theorem State.trapAll_tags (s : State) (uids : List Nat) (c : Cause) (ilen : Nat) : (s.trapAll uids c ilen).tags = s.tags := rfl
@[simp] theorem State.trapAll_poison (s : State) (uids : List Nat) (c : Cause) (ilen : Nat) : (s.trapAll uids c ilen).poison = s.poison := rfl
@[simp] theorem State.trapAll_inflight (s : State) (uids : List Nat) (c : Cause) (ilen : Nat) : (s.trapAll uids c ilen).inflight = s.inflight := rfl
@[simp] theorem State.trapAll_cmds (s : State) (uids : List Nat) (c : Cause) (ilen : Nat) : (s.trapAll uids c ilen).cmds = s.cmds := rfl
@[simp] theorem State.trapAll_locks (s : State) (uids : List Nat) (c : Cause) (ilen : Nat) : (s.trapAll uids c ilen).locks = s.locks := rfl
@[simp] theorem State.trapAll_woken (s : State) (uids : List Nat) (c : Cause) (ilen : Nat) : (s.trapAll uids c ilen).woken = s.woken := rfl
@[simp] theorem State.trapAll_marks (s : State) (uids : List Nat) (c : Cause) (ilen : Nat) : (s.trapAll uids c ilen).marks = s.marks := rfl
@[simp] theorem State.trapAll_rolling (s : State) (uids : List Nat) (c : Cause) (ilen : Nat) : (s.trapAll uids c ilen).rolling = s.rolling := rfl
@[simp] theorem State.trapAll_nvm (s : State) (uids : List Nat) (c : Cause) (ilen : Nat) : (s.trapAll uids c ilen).nvm = s.nvm := rfl
@[simp] theorem State.trapAll_mmu (s : State) (uids : List Nat) (c : Cause) (ilen : Nat) : (s.trapAll uids c ilen).mmu = s.mmu := rfl
@[simp] theorem State.trapAll_thatches (s : State) (uids : List Nat) (c : Cause) (ilen : Nat) : (s.trapAll uids c ilen).thatches = s.thatches := rfl
@[simp] theorem State.trapAll_ckpt (s : State) (uids : List Nat) (c : Cause) (ilen : Nat) : (s.trapAll uids c ilen).ckpt = s.ckpt := rfl
@[simp] theorem State.trapAll_cmd (s : State) (uids : List Nat) (c : Cause) (ilen : Nat) : (s.trapAll uids c ilen).cmd = s.cmd := rfl
@[simp] theorem State.trapAll_links (s : State) (uids : List Nat) (c : Cause) (ilen : Nat) : (s.trapAll uids c ilen).links = s.links := rfl
@[simp] theorem State.trapAll_power (s : State) (uids : List Nat) (c : Cause) (ilen : Nat) : (s.trapAll uids c ilen).power = s.power := rfl
@[simp] theorem State.trapAll_enabled (s : State) (uids : List Nat) (c : Cause) (ilen : Nat) : (s.trapAll uids c ilen).enabled = s.enabled := rfl
@[simp] theorem State.trapAll_agenda (s : State) (uids : List Nat) (c : Cause) (ilen : Nat) : (s.trapAll uids c ilen).agenda = s.agenda := rfl
@[simp] theorem State.trapAll_issue (s : State) (uids : List Nat) (c : Cause) (ilen : Nat) : (s.trapAll uids c ilen).issue = s.issue := rfl
@[simp] theorem State.trapAll_clock (s : State) (uids : List Nat) (c : Cause) (ilen : Nat) : (s.trapAll uids c ilen).clock = s.clock := rfl
@[simp] theorem State.trapAll_free (s : State) (uids : List Nat) (c : Cause) (ilen : Nat) : (s.trapAll uids c ilen).free = s.free := rfl
@[simp] theorem State.trapAll_nextId (s : State) (uids : List Nat) (c : Cause) (ilen : Nat) : (s.trapAll uids c ilen).nextId = s.nextId := rfl

@[simp] theorem State.issueDone_threads (s : State) : (s.issueDone).threads = s.threads := rfl
@[simp] theorem State.issueDone_waves (s : State) : (s.issueDone).waves = s.waves := rfl
@[simp] theorem State.issueDone_wgs (s : State) : (s.issueDone).wgs = s.wgs := rfl
@[simp] theorem State.issueDone_launches (s : State) : (s.issueDone).launches = s.launches := rfl
@[simp] theorem State.issueDone_cores (s : State) : (s.issueDone).cores = s.cores := rfl
@[simp] theorem State.issueDone_mem (s : State) : (s.issueDone).mem = s.mem := rfl
@[simp] theorem State.issueDone_media (s : State) : (s.issueDone).media = s.media := rfl
@[simp] theorem State.issueDone_pq (s : State) : (s.issueDone).pq = s.pq := rfl
@[simp] theorem State.issueDone_dirty (s : State) : (s.issueDone).dirty = s.dirty := rfl
@[simp] theorem State.issueDone_tags (s : State) : (s.issueDone).tags = s.tags := rfl
@[simp] theorem State.issueDone_poison (s : State) : (s.issueDone).poison = s.poison := rfl
@[simp] theorem State.issueDone_inflight (s : State) : (s.issueDone).inflight = s.inflight := rfl
@[simp] theorem State.issueDone_cmds (s : State) : (s.issueDone).cmds = s.cmds := rfl
@[simp] theorem State.issueDone_locks (s : State) : (s.issueDone).locks = s.locks := rfl
@[simp] theorem State.issueDone_woken (s : State) : (s.issueDone).woken = s.woken := rfl
@[simp] theorem State.issueDone_marks (s : State) : (s.issueDone).marks = s.marks := rfl
@[simp] theorem State.issueDone_rolling (s : State) : (s.issueDone).rolling = s.rolling := rfl
@[simp] theorem State.issueDone_nvm (s : State) : (s.issueDone).nvm = s.nvm := rfl
@[simp] theorem State.issueDone_mmu (s : State) : (s.issueDone).mmu = s.mmu := rfl
@[simp] theorem State.issueDone_thatches (s : State) : (s.issueDone).thatches = s.thatches := rfl
@[simp] theorem State.issueDone_ckpt (s : State) : (s.issueDone).ckpt = s.ckpt := rfl
@[simp] theorem State.issueDone_cmd (s : State) : (s.issueDone).cmd = s.cmd := rfl
@[simp] theorem State.issueDone_links (s : State) : (s.issueDone).links = s.links := rfl
@[simp] theorem State.issueDone_power (s : State) : (s.issueDone).power = s.power := rfl
@[simp] theorem State.issueDone_enabled (s : State) : (s.issueDone).enabled = s.enabled := rfl
@[simp] theorem State.issueDone_agenda (s : State) : (s.issueDone).agenda = s.agenda := rfl
@[simp] theorem State.issueDone_clock (s : State) : (s.issueDone).clock = s.clock := rfl
@[simp] theorem State.issueDone_free (s : State) : (s.issueDone).free = s.free := rfl
@[simp] theorem State.issueDone_nextId (s : State) : (s.issueDone).nextId = s.nextId := rfl

@[simp] theorem State.issueAll_waves (s : State) (c : Ctl) (lat : Nat) (f : Thread → LaneRes) : (s.issueAll c lat f).waves = s.waves := rfl
@[simp] theorem State.issueAll_wgs (s : State) (c : Ctl) (lat : Nat) (f : Thread → LaneRes) : (s.issueAll c lat f).wgs = s.wgs := rfl
@[simp] theorem State.issueAll_launches (s : State) (c : Ctl) (lat : Nat) (f : Thread → LaneRes) : (s.issueAll c lat f).launches = s.launches := rfl
@[simp] theorem State.issueAll_cores (s : State) (c : Ctl) (lat : Nat) (f : Thread → LaneRes) : (s.issueAll c lat f).cores = s.cores := rfl
@[simp] theorem State.issueAll_mem (s : State) (c : Ctl) (lat : Nat) (f : Thread → LaneRes) : (s.issueAll c lat f).mem = s.mem := rfl
@[simp] theorem State.issueAll_media (s : State) (c : Ctl) (lat : Nat) (f : Thread → LaneRes) : (s.issueAll c lat f).media = s.media := rfl
@[simp] theorem State.issueAll_pq (s : State) (c : Ctl) (lat : Nat) (f : Thread → LaneRes) : (s.issueAll c lat f).pq = s.pq := rfl
@[simp] theorem State.issueAll_dirty (s : State) (c : Ctl) (lat : Nat) (f : Thread → LaneRes) : (s.issueAll c lat f).dirty = s.dirty := rfl
@[simp] theorem State.issueAll_tags (s : State) (c : Ctl) (lat : Nat) (f : Thread → LaneRes) : (s.issueAll c lat f).tags = s.tags := rfl
@[simp] theorem State.issueAll_poison (s : State) (c : Ctl) (lat : Nat) (f : Thread → LaneRes) : (s.issueAll c lat f).poison = s.poison := rfl
@[simp] theorem State.issueAll_inflight (s : State) (c : Ctl) (lat : Nat) (f : Thread → LaneRes) : (s.issueAll c lat f).inflight = s.inflight := rfl
@[simp] theorem State.issueAll_cmds (s : State) (c : Ctl) (lat : Nat) (f : Thread → LaneRes) : (s.issueAll c lat f).cmds = s.cmds := rfl
@[simp] theorem State.issueAll_locks (s : State) (c : Ctl) (lat : Nat) (f : Thread → LaneRes) : (s.issueAll c lat f).locks = s.locks := rfl
@[simp] theorem State.issueAll_woken (s : State) (c : Ctl) (lat : Nat) (f : Thread → LaneRes) : (s.issueAll c lat f).woken = s.woken := rfl
@[simp] theorem State.issueAll_marks (s : State) (c : Ctl) (lat : Nat) (f : Thread → LaneRes) : (s.issueAll c lat f).marks = s.marks := rfl
@[simp] theorem State.issueAll_rolling (s : State) (c : Ctl) (lat : Nat) (f : Thread → LaneRes) : (s.issueAll c lat f).rolling = s.rolling := rfl
@[simp] theorem State.issueAll_nvm (s : State) (c : Ctl) (lat : Nat) (f : Thread → LaneRes) : (s.issueAll c lat f).nvm = s.nvm := rfl
@[simp] theorem State.issueAll_mmu (s : State) (c : Ctl) (lat : Nat) (f : Thread → LaneRes) : (s.issueAll c lat f).mmu = s.mmu := rfl
@[simp] theorem State.issueAll_thatches (s : State) (c : Ctl) (lat : Nat) (f : Thread → LaneRes) : (s.issueAll c lat f).thatches = s.thatches := rfl
@[simp] theorem State.issueAll_ckpt (s : State) (c : Ctl) (lat : Nat) (f : Thread → LaneRes) : (s.issueAll c lat f).ckpt = s.ckpt := rfl
@[simp] theorem State.issueAll_cmd (s : State) (c : Ctl) (lat : Nat) (f : Thread → LaneRes) : (s.issueAll c lat f).cmd = s.cmd := rfl
@[simp] theorem State.issueAll_links (s : State) (c : Ctl) (lat : Nat) (f : Thread → LaneRes) : (s.issueAll c lat f).links = s.links := rfl
@[simp] theorem State.issueAll_power (s : State) (c : Ctl) (lat : Nat) (f : Thread → LaneRes) : (s.issueAll c lat f).power = s.power := rfl
@[simp] theorem State.issueAll_enabled (s : State) (c : Ctl) (lat : Nat) (f : Thread → LaneRes) : (s.issueAll c lat f).enabled = s.enabled := rfl
@[simp] theorem State.issueAll_agenda (s : State) (c : Ctl) (lat : Nat) (f : Thread → LaneRes) : (s.issueAll c lat f).agenda = s.agenda := rfl
@[simp] theorem State.issueAll_clock (s : State) (c : Ctl) (lat : Nat) (f : Thread → LaneRes) : (s.issueAll c lat f).clock = s.clock := rfl
@[simp] theorem State.issueAll_free (s : State) (c : Ctl) (lat : Nat) (f : Thread → LaneRes) : (s.issueAll c lat f).free = s.free := rfl
@[simp] theorem State.issueAll_nextId (s : State) (c : Ctl) (lat : Nat) (f : Thread → LaneRes) : (s.issueAll c lat f).nextId = s.nextId := rfl

@[simp] theorem State.arrive_waves (s : State) (c : Ctl) : (s.arrive c).waves = s.waves := rfl
@[simp] theorem State.arrive_wgs (s : State) (c : Ctl) : (s.arrive c).wgs = s.wgs := rfl
@[simp] theorem State.arrive_launches (s : State) (c : Ctl) : (s.arrive c).launches = s.launches := rfl
@[simp] theorem State.arrive_mem (s : State) (c : Ctl) : (s.arrive c).mem = s.mem := rfl
@[simp] theorem State.arrive_media (s : State) (c : Ctl) : (s.arrive c).media = s.media := rfl
@[simp] theorem State.arrive_pq (s : State) (c : Ctl) : (s.arrive c).pq = s.pq := rfl
@[simp] theorem State.arrive_dirty (s : State) (c : Ctl) : (s.arrive c).dirty = s.dirty := rfl
@[simp] theorem State.arrive_tags (s : State) (c : Ctl) : (s.arrive c).tags = s.tags := rfl
@[simp] theorem State.arrive_poison (s : State) (c : Ctl) : (s.arrive c).poison = s.poison := rfl
@[simp] theorem State.arrive_inflight (s : State) (c : Ctl) : (s.arrive c).inflight = s.inflight := rfl
@[simp] theorem State.arrive_cmds (s : State) (c : Ctl) : (s.arrive c).cmds = s.cmds := rfl
@[simp] theorem State.arrive_locks (s : State) (c : Ctl) : (s.arrive c).locks = s.locks := rfl
@[simp] theorem State.arrive_woken (s : State) (c : Ctl) : (s.arrive c).woken = s.woken := rfl
@[simp] theorem State.arrive_marks (s : State) (c : Ctl) : (s.arrive c).marks = s.marks := rfl
@[simp] theorem State.arrive_rolling (s : State) (c : Ctl) : (s.arrive c).rolling = s.rolling := rfl
@[simp] theorem State.arrive_nvm (s : State) (c : Ctl) : (s.arrive c).nvm = s.nvm := rfl
@[simp] theorem State.arrive_mmu (s : State) (c : Ctl) : (s.arrive c).mmu = s.mmu := rfl
@[simp] theorem State.arrive_thatches (s : State) (c : Ctl) : (s.arrive c).thatches = s.thatches := rfl
@[simp] theorem State.arrive_ckpt (s : State) (c : Ctl) : (s.arrive c).ckpt = s.ckpt := rfl
@[simp] theorem State.arrive_cmd (s : State) (c : Ctl) : (s.arrive c).cmd = s.cmd := rfl
@[simp] theorem State.arrive_links (s : State) (c : Ctl) : (s.arrive c).links = s.links := rfl
@[simp] theorem State.arrive_power (s : State) (c : Ctl) : (s.arrive c).power = s.power := rfl
@[simp] theorem State.arrive_enabled (s : State) (c : Ctl) : (s.arrive c).enabled = s.enabled := rfl
@[simp] theorem State.arrive_agenda (s : State) (c : Ctl) : (s.arrive c).agenda = s.agenda := rfl
@[simp] theorem State.arrive_clock (s : State) (c : Ctl) : (s.arrive c).clock = s.clock := rfl
@[simp] theorem State.arrive_free (s : State) (c : Ctl) : (s.arrive c).free = s.free := rfl
@[simp] theorem State.arrive_nextId (s : State) (c : Ctl) : (s.arrive c).nextId = s.nextId := rfl

@[simp] theorem State.setTag_threads (s : State) (line : Nat) (t : Byte) : (s.setTag line t).threads = s.threads := rfl
@[simp] theorem State.setTag_waves (s : State) (line : Nat) (t : Byte) : (s.setTag line t).waves = s.waves := rfl
@[simp] theorem State.setTag_wgs (s : State) (line : Nat) (t : Byte) : (s.setTag line t).wgs = s.wgs := rfl
@[simp] theorem State.setTag_launches (s : State) (line : Nat) (t : Byte) : (s.setTag line t).launches = s.launches := rfl
@[simp] theorem State.setTag_cores (s : State) (line : Nat) (t : Byte) : (s.setTag line t).cores = s.cores := rfl
@[simp] theorem State.setTag_mem (s : State) (line : Nat) (t : Byte) : (s.setTag line t).mem = s.mem := rfl
@[simp] theorem State.setTag_media (s : State) (line : Nat) (t : Byte) : (s.setTag line t).media = s.media := rfl
@[simp] theorem State.setTag_pq (s : State) (line : Nat) (t : Byte) : (s.setTag line t).pq = s.pq := rfl
@[simp] theorem State.setTag_dirty (s : State) (line : Nat) (t : Byte) : (s.setTag line t).dirty = s.dirty := rfl
@[simp] theorem State.setTag_poison (s : State) (line : Nat) (t : Byte) : (s.setTag line t).poison = s.poison := rfl
@[simp] theorem State.setTag_inflight (s : State) (line : Nat) (t : Byte) : (s.setTag line t).inflight = s.inflight := rfl
@[simp] theorem State.setTag_cmds (s : State) (line : Nat) (t : Byte) : (s.setTag line t).cmds = s.cmds := rfl
@[simp] theorem State.setTag_locks (s : State) (line : Nat) (t : Byte) : (s.setTag line t).locks = s.locks := rfl
@[simp] theorem State.setTag_woken (s : State) (line : Nat) (t : Byte) : (s.setTag line t).woken = s.woken := rfl
@[simp] theorem State.setTag_marks (s : State) (line : Nat) (t : Byte) : (s.setTag line t).marks = s.marks := rfl
@[simp] theorem State.setTag_rolling (s : State) (line : Nat) (t : Byte) : (s.setTag line t).rolling = s.rolling := rfl
@[simp] theorem State.setTag_nvm (s : State) (line : Nat) (t : Byte) : (s.setTag line t).nvm = s.nvm := rfl
@[simp] theorem State.setTag_mmu (s : State) (line : Nat) (t : Byte) : (s.setTag line t).mmu = s.mmu := rfl
@[simp] theorem State.setTag_thatches (s : State) (line : Nat) (t : Byte) : (s.setTag line t).thatches = s.thatches := rfl
@[simp] theorem State.setTag_ckpt (s : State) (line : Nat) (t : Byte) : (s.setTag line t).ckpt = s.ckpt := rfl
@[simp] theorem State.setTag_cmd (s : State) (line : Nat) (t : Byte) : (s.setTag line t).cmd = s.cmd := rfl
@[simp] theorem State.setTag_links (s : State) (line : Nat) (t : Byte) : (s.setTag line t).links = s.links := rfl
@[simp] theorem State.setTag_power (s : State) (line : Nat) (t : Byte) : (s.setTag line t).power = s.power := rfl
@[simp] theorem State.setTag_enabled (s : State) (line : Nat) (t : Byte) : (s.setTag line t).enabled = s.enabled := rfl
@[simp] theorem State.setTag_agenda (s : State) (line : Nat) (t : Byte) : (s.setTag line t).agenda = s.agenda := rfl
@[simp] theorem State.setTag_issue (s : State) (line : Nat) (t : Byte) : (s.setTag line t).issue = s.issue := rfl
@[simp] theorem State.setTag_clock (s : State) (line : Nat) (t : Byte) : (s.setTag line t).clock = s.clock := rfl
@[simp] theorem State.setTag_free (s : State) (line : Nat) (t : Byte) : (s.setTag line t).free = s.free := rfl
@[simp] theorem State.setTag_nextId (s : State) (line : Nat) (t : Byte) : (s.setTag line t).nextId = s.nextId := rfl

@[simp] theorem State.persisted_threads (s : State) (bs : List PqEntry) : (s.persisted bs).threads = s.threads := rfl
@[simp] theorem State.persisted_waves (s : State) (bs : List PqEntry) : (s.persisted bs).waves = s.waves := rfl
@[simp] theorem State.persisted_wgs (s : State) (bs : List PqEntry) : (s.persisted bs).wgs = s.wgs := rfl
@[simp] theorem State.persisted_launches (s : State) (bs : List PqEntry) : (s.persisted bs).launches = s.launches := rfl
@[simp] theorem State.persisted_cores (s : State) (bs : List PqEntry) : (s.persisted bs).cores = s.cores := rfl
@[simp] theorem State.persisted_mem (s : State) (bs : List PqEntry) : (s.persisted bs).mem = s.mem := rfl
@[simp] theorem State.persisted_pq (s : State) (bs : List PqEntry) : (s.persisted bs).pq = s.pq := rfl
@[simp] theorem State.persisted_dirty (s : State) (bs : List PqEntry) : (s.persisted bs).dirty = s.dirty := rfl
@[simp] theorem State.persisted_tags (s : State) (bs : List PqEntry) : (s.persisted bs).tags = s.tags := rfl
@[simp] theorem State.persisted_poison (s : State) (bs : List PqEntry) : (s.persisted bs).poison = s.poison := rfl
@[simp] theorem State.persisted_inflight (s : State) (bs : List PqEntry) : (s.persisted bs).inflight = s.inflight := rfl
@[simp] theorem State.persisted_cmds (s : State) (bs : List PqEntry) : (s.persisted bs).cmds = s.cmds := rfl
@[simp] theorem State.persisted_locks (s : State) (bs : List PqEntry) : (s.persisted bs).locks = s.locks := rfl
@[simp] theorem State.persisted_woken (s : State) (bs : List PqEntry) : (s.persisted bs).woken = s.woken := rfl
@[simp] theorem State.persisted_marks (s : State) (bs : List PqEntry) : (s.persisted bs).marks = s.marks := rfl
@[simp] theorem State.persisted_rolling (s : State) (bs : List PqEntry) : (s.persisted bs).rolling = s.rolling := rfl
@[simp] theorem State.persisted_nvm (s : State) (bs : List PqEntry) : (s.persisted bs).nvm = s.nvm := rfl
@[simp] theorem State.persisted_mmu (s : State) (bs : List PqEntry) : (s.persisted bs).mmu = s.mmu := rfl
@[simp] theorem State.persisted_thatches (s : State) (bs : List PqEntry) : (s.persisted bs).thatches = s.thatches := rfl
@[simp] theorem State.persisted_ckpt (s : State) (bs : List PqEntry) : (s.persisted bs).ckpt = s.ckpt := rfl
@[simp] theorem State.persisted_cmd (s : State) (bs : List PqEntry) : (s.persisted bs).cmd = s.cmd := rfl
@[simp] theorem State.persisted_links (s : State) (bs : List PqEntry) : (s.persisted bs).links = s.links := rfl
@[simp] theorem State.persisted_enabled (s : State) (bs : List PqEntry) : (s.persisted bs).enabled = s.enabled := rfl
@[simp] theorem State.persisted_agenda (s : State) (bs : List PqEntry) : (s.persisted bs).agenda = s.agenda := rfl
@[simp] theorem State.persisted_issue (s : State) (bs : List PqEntry) : (s.persisted bs).issue = s.issue := rfl
@[simp] theorem State.persisted_clock (s : State) (bs : List PqEntry) : (s.persisted bs).clock = s.clock := rfl
@[simp] theorem State.persisted_free (s : State) (bs : List PqEntry) : (s.persisted bs).free = s.free := rfl
@[simp] theorem State.persisted_nextId (s : State) (bs : List PqEntry) : (s.persisted bs).nextId = s.nextId := rfl

@[simp] theorem State.enqueue_threads (s : State) (a : Access) : (s.enqueue a).threads = s.threads := rfl
@[simp] theorem State.enqueue_waves (s : State) (a : Access) : (s.enqueue a).waves = s.waves := rfl
@[simp] theorem State.enqueue_wgs (s : State) (a : Access) : (s.enqueue a).wgs = s.wgs := rfl
@[simp] theorem State.enqueue_launches (s : State) (a : Access) : (s.enqueue a).launches = s.launches := rfl
@[simp] theorem State.enqueue_cores (s : State) (a : Access) : (s.enqueue a).cores = s.cores := rfl
@[simp] theorem State.enqueue_mem (s : State) (a : Access) : (s.enqueue a).mem = s.mem := rfl
@[simp] theorem State.enqueue_media (s : State) (a : Access) : (s.enqueue a).media = s.media := rfl
@[simp] theorem State.enqueue_pq (s : State) (a : Access) : (s.enqueue a).pq = s.pq := rfl
@[simp] theorem State.enqueue_dirty (s : State) (a : Access) : (s.enqueue a).dirty = s.dirty := rfl
@[simp] theorem State.enqueue_tags (s : State) (a : Access) : (s.enqueue a).tags = s.tags := rfl
@[simp] theorem State.enqueue_poison (s : State) (a : Access) : (s.enqueue a).poison = s.poison := rfl
@[simp] theorem State.enqueue_cmds (s : State) (a : Access) : (s.enqueue a).cmds = s.cmds := rfl
@[simp] theorem State.enqueue_locks (s : State) (a : Access) : (s.enqueue a).locks = s.locks := rfl
@[simp] theorem State.enqueue_woken (s : State) (a : Access) : (s.enqueue a).woken = s.woken := rfl
@[simp] theorem State.enqueue_marks (s : State) (a : Access) : (s.enqueue a).marks = s.marks := rfl
@[simp] theorem State.enqueue_rolling (s : State) (a : Access) : (s.enqueue a).rolling = s.rolling := rfl
@[simp] theorem State.enqueue_nvm (s : State) (a : Access) : (s.enqueue a).nvm = s.nvm := rfl
@[simp] theorem State.enqueue_mmu (s : State) (a : Access) : (s.enqueue a).mmu = s.mmu := rfl
@[simp] theorem State.enqueue_thatches (s : State) (a : Access) : (s.enqueue a).thatches = s.thatches := rfl
@[simp] theorem State.enqueue_ckpt (s : State) (a : Access) : (s.enqueue a).ckpt = s.ckpt := rfl
@[simp] theorem State.enqueue_cmd (s : State) (a : Access) : (s.enqueue a).cmd = s.cmd := rfl
@[simp] theorem State.enqueue_links (s : State) (a : Access) : (s.enqueue a).links = s.links := rfl
@[simp] theorem State.enqueue_power (s : State) (a : Access) : (s.enqueue a).power = s.power := rfl
@[simp] theorem State.enqueue_enabled (s : State) (a : Access) : (s.enqueue a).enabled = s.enabled := rfl
@[simp] theorem State.enqueue_agenda (s : State) (a : Access) : (s.enqueue a).agenda = s.agenda := rfl
@[simp] theorem State.enqueue_issue (s : State) (a : Access) : (s.enqueue a).issue = s.issue := rfl
@[simp] theorem State.enqueue_clock (s : State) (a : Access) : (s.enqueue a).clock = s.clock := rfl
@[simp] theorem State.enqueue_free (s : State) (a : Access) : (s.enqueue a).free = s.free := rfl

@[simp] theorem State.finish_waves (s : State) (a : Access) : (s.finish a).waves = s.waves := rfl
@[simp] theorem State.finish_wgs (s : State) (a : Access) : (s.finish a).wgs = s.wgs := rfl
@[simp] theorem State.finish_launches (s : State) (a : Access) : (s.finish a).launches = s.launches := rfl
@[simp] theorem State.finish_cores (s : State) (a : Access) : (s.finish a).cores = s.cores := rfl
@[simp] theorem State.finish_mem (s : State) (a : Access) : (s.finish a).mem = s.mem := rfl
@[simp] theorem State.finish_media (s : State) (a : Access) : (s.finish a).media = s.media := rfl
@[simp] theorem State.finish_pq (s : State) (a : Access) : (s.finish a).pq = s.pq := rfl
@[simp] theorem State.finish_dirty (s : State) (a : Access) : (s.finish a).dirty = s.dirty := rfl
@[simp] theorem State.finish_tags (s : State) (a : Access) : (s.finish a).tags = s.tags := rfl
@[simp] theorem State.finish_poison (s : State) (a : Access) : (s.finish a).poison = s.poison := rfl
@[simp] theorem State.finish_cmds (s : State) (a : Access) : (s.finish a).cmds = s.cmds := rfl
@[simp] theorem State.finish_locks (s : State) (a : Access) : (s.finish a).locks = s.locks := rfl
@[simp] theorem State.finish_woken (s : State) (a : Access) : (s.finish a).woken = s.woken := rfl
@[simp] theorem State.finish_marks (s : State) (a : Access) :
    (s.finish a).marks = s.marksAfter a.hint ((a.reads ++ a.writes).map fun (r : Nat × Nat) => r.1 / 256) := rfl
@[simp] theorem State.finish_rolling (s : State) (a : Access) : (s.finish a).rolling = s.rolling := rfl
@[simp] theorem State.finish_nvm (s : State) (a : Access) : (s.finish a).nvm = s.nvm := rfl
@[simp] theorem State.finish_mmu (s : State) (a : Access) : (s.finish a).mmu = { s.mmu with log := s.mmu.log.filterMap (LogEntry.doneWith a.id) } := rfl
@[simp] theorem State.finish_thatches (s : State) (a : Access) : (s.finish a).thatches = s.thatches := rfl
@[simp] theorem State.finish_ckpt (s : State) (a : Access) : (s.finish a).ckpt = s.ckpt := rfl
@[simp] theorem State.finish_cmd (s : State) (a : Access) : (s.finish a).cmd = s.cmd := rfl
@[simp] theorem State.finish_links (s : State) (a : Access) : (s.finish a).links = s.links := rfl
@[simp] theorem State.finish_power (s : State) (a : Access) : (s.finish a).power = s.power := rfl
@[simp] theorem State.finish_enabled (s : State) (a : Access) : (s.finish a).enabled = s.enabled := rfl
@[simp] theorem State.finish_agenda (s : State) (a : Access) : (s.finish a).agenda = s.agenda := rfl
@[simp] theorem State.finish_issue (s : State) (a : Access) : (s.finish a).issue = s.issue := rfl
@[simp] theorem State.finish_clock (s : State) (a : Access) : (s.finish a).clock = s.clock := rfl
@[simp] theorem State.finish_free (s : State) (a : Access) : (s.finish a).free = s.free := rfl
@[simp] theorem State.finish_nextId (s : State) (a : Access) : (s.finish a).nextId = s.nextId := rfl

@[simp] theorem State.setSlot_threads (s : State) (n : Nat) (x : Slot) : (s.setSlot n x).threads = s.threads := rfl
@[simp] theorem State.setSlot_waves (s : State) (n : Nat) (x : Slot) : (s.setSlot n x).waves = s.waves := rfl
@[simp] theorem State.setSlot_wgs (s : State) (n : Nat) (x : Slot) : (s.setSlot n x).wgs = s.wgs := rfl
@[simp] theorem State.setSlot_launches (s : State) (n : Nat) (x : Slot) : (s.setSlot n x).launches = s.launches := rfl
@[simp] theorem State.setSlot_cores (s : State) (n : Nat) (x : Slot) : (s.setSlot n x).cores = s.cores := rfl
@[simp] theorem State.setSlot_mem (s : State) (n : Nat) (x : Slot) : (s.setSlot n x).mem = s.mem := rfl
@[simp] theorem State.setSlot_media (s : State) (n : Nat) (x : Slot) : (s.setSlot n x).media = s.media := rfl
@[simp] theorem State.setSlot_pq (s : State) (n : Nat) (x : Slot) : (s.setSlot n x).pq = s.pq := rfl
@[simp] theorem State.setSlot_dirty (s : State) (n : Nat) (x : Slot) : (s.setSlot n x).dirty = s.dirty := rfl
@[simp] theorem State.setSlot_tags (s : State) (n : Nat) (x : Slot) : (s.setSlot n x).tags = s.tags := rfl
@[simp] theorem State.setSlot_poison (s : State) (n : Nat) (x : Slot) : (s.setSlot n x).poison = s.poison := rfl
@[simp] theorem State.setSlot_inflight (s : State) (n : Nat) (x : Slot) : (s.setSlot n x).inflight = s.inflight := rfl
@[simp] theorem State.setSlot_cmds (s : State) (n : Nat) (x : Slot) : (s.setSlot n x).cmds = s.cmds := rfl
@[simp] theorem State.setSlot_locks (s : State) (n : Nat) (x : Slot) : (s.setSlot n x).locks = s.locks := rfl
@[simp] theorem State.setSlot_woken (s : State) (n : Nat) (x : Slot) : (s.setSlot n x).woken = s.woken := rfl
@[simp] theorem State.setSlot_marks (s : State) (n : Nat) (x : Slot) : (s.setSlot n x).marks = s.marks := rfl
@[simp] theorem State.setSlot_rolling (s : State) (n : Nat) (x : Slot) : (s.setSlot n x).rolling = s.rolling := rfl
@[simp] theorem State.setSlot_nvm (s : State) (n : Nat) (x : Slot) : (s.setSlot n x).nvm = s.nvm := rfl
@[simp] theorem State.setSlot_mmu (s : State) (n : Nat) (x : Slot) : (s.setSlot n x).mmu = s.mmu := rfl
@[simp] theorem State.setSlot_ckpt (s : State) (n : Nat) (x : Slot) : (s.setSlot n x).ckpt = s.ckpt := rfl
@[simp] theorem State.setSlot_cmd (s : State) (n : Nat) (x : Slot) : (s.setSlot n x).cmd = s.cmd := rfl
@[simp] theorem State.setSlot_links (s : State) (n : Nat) (x : Slot) : (s.setSlot n x).links = s.links := rfl
@[simp] theorem State.setSlot_power (s : State) (n : Nat) (x : Slot) : (s.setSlot n x).power = s.power := rfl
@[simp] theorem State.setSlot_enabled (s : State) (n : Nat) (x : Slot) : (s.setSlot n x).enabled = s.enabled := rfl
@[simp] theorem State.setSlot_agenda (s : State) (n : Nat) (x : Slot) : (s.setSlot n x).agenda = s.agenda := rfl
@[simp] theorem State.setSlot_issue (s : State) (n : Nat) (x : Slot) : (s.setSlot n x).issue = s.issue := rfl
@[simp] theorem State.setSlot_clock (s : State) (n : Nat) (x : Slot) : (s.setSlot n x).clock = s.clock := rfl
@[simp] theorem State.setSlot_free (s : State) (n : Nat) (x : Slot) : (s.setSlot n x).free = s.free := rfl
@[simp] theorem State.setSlot_nextId (s : State) (n : Nat) (x : Slot) : (s.setSlot n x).nextId = s.nextId := rfl

@[simp] theorem State.modThatch_threads (s : State) (desc : Nat) (f : Thatch → Thatch) : (s.modThatch desc f).threads = s.threads := rfl
@[simp] theorem State.modThatch_waves (s : State) (desc : Nat) (f : Thatch → Thatch) : (s.modThatch desc f).waves = s.waves := rfl
@[simp] theorem State.modThatch_wgs (s : State) (desc : Nat) (f : Thatch → Thatch) : (s.modThatch desc f).wgs = s.wgs := rfl
@[simp] theorem State.modThatch_launches (s : State) (desc : Nat) (f : Thatch → Thatch) : (s.modThatch desc f).launches = s.launches := rfl
@[simp] theorem State.modThatch_cores (s : State) (desc : Nat) (f : Thatch → Thatch) : (s.modThatch desc f).cores = s.cores := rfl
@[simp] theorem State.modThatch_mem (s : State) (desc : Nat) (f : Thatch → Thatch) : (s.modThatch desc f).mem = s.mem := rfl
@[simp] theorem State.modThatch_media (s : State) (desc : Nat) (f : Thatch → Thatch) : (s.modThatch desc f).media = s.media := rfl
@[simp] theorem State.modThatch_pq (s : State) (desc : Nat) (f : Thatch → Thatch) : (s.modThatch desc f).pq = s.pq := rfl
@[simp] theorem State.modThatch_dirty (s : State) (desc : Nat) (f : Thatch → Thatch) : (s.modThatch desc f).dirty = s.dirty := rfl
@[simp] theorem State.modThatch_tags (s : State) (desc : Nat) (f : Thatch → Thatch) : (s.modThatch desc f).tags = s.tags := rfl
@[simp] theorem State.modThatch_poison (s : State) (desc : Nat) (f : Thatch → Thatch) : (s.modThatch desc f).poison = s.poison := rfl
@[simp] theorem State.modThatch_inflight (s : State) (desc : Nat) (f : Thatch → Thatch) : (s.modThatch desc f).inflight = s.inflight := rfl
@[simp] theorem State.modThatch_cmds (s : State) (desc : Nat) (f : Thatch → Thatch) : (s.modThatch desc f).cmds = s.cmds := rfl
@[simp] theorem State.modThatch_locks (s : State) (desc : Nat) (f : Thatch → Thatch) : (s.modThatch desc f).locks = s.locks := rfl
@[simp] theorem State.modThatch_woken (s : State) (desc : Nat) (f : Thatch → Thatch) : (s.modThatch desc f).woken = s.woken := rfl
@[simp] theorem State.modThatch_marks (s : State) (desc : Nat) (f : Thatch → Thatch) : (s.modThatch desc f).marks = s.marks := rfl
@[simp] theorem State.modThatch_rolling (s : State) (desc : Nat) (f : Thatch → Thatch) : (s.modThatch desc f).rolling = s.rolling := rfl
@[simp] theorem State.modThatch_nvm (s : State) (desc : Nat) (f : Thatch → Thatch) : (s.modThatch desc f).nvm = s.nvm := rfl
@[simp] theorem State.modThatch_mmu (s : State) (desc : Nat) (f : Thatch → Thatch) : (s.modThatch desc f).mmu = s.mmu := rfl
@[simp] theorem State.modThatch_ckpt (s : State) (desc : Nat) (f : Thatch → Thatch) : (s.modThatch desc f).ckpt = s.ckpt := rfl
@[simp] theorem State.modThatch_cmd (s : State) (desc : Nat) (f : Thatch → Thatch) : (s.modThatch desc f).cmd = s.cmd := rfl
@[simp] theorem State.modThatch_links (s : State) (desc : Nat) (f : Thatch → Thatch) : (s.modThatch desc f).links = s.links := rfl
@[simp] theorem State.modThatch_power (s : State) (desc : Nat) (f : Thatch → Thatch) : (s.modThatch desc f).power = s.power := rfl
@[simp] theorem State.modThatch_enabled (s : State) (desc : Nat) (f : Thatch → Thatch) : (s.modThatch desc f).enabled = s.enabled := rfl
@[simp] theorem State.modThatch_agenda (s : State) (desc : Nat) (f : Thatch → Thatch) : (s.modThatch desc f).agenda = s.agenda := rfl
@[simp] theorem State.modThatch_issue (s : State) (desc : Nat) (f : Thatch → Thatch) : (s.modThatch desc f).issue = s.issue := rfl
@[simp] theorem State.modThatch_clock (s : State) (desc : Nat) (f : Thatch → Thatch) : (s.modThatch desc f).clock = s.clock := rfl
@[simp] theorem State.modThatch_free (s : State) (desc : Nat) (f : Thatch → Thatch) : (s.modThatch desc f).free = s.free := rfl
@[simp] theorem State.modThatch_nextId (s : State) (desc : Nat) (f : Thatch → Thatch) : (s.modThatch desc f).nextId = s.nextId := rfl

@[simp] theorem State.say_threads (s : State) (o : Out) : (s.say o).threads = s.threads := rfl
@[simp] theorem State.say_waves (s : State) (o : Out) : (s.say o).waves = s.waves := rfl
@[simp] theorem State.say_wgs (s : State) (o : Out) : (s.say o).wgs = s.wgs := rfl
@[simp] theorem State.say_launches (s : State) (o : Out) : (s.say o).launches = s.launches := rfl
@[simp] theorem State.say_cores (s : State) (o : Out) : (s.say o).cores = s.cores := rfl
@[simp] theorem State.say_mem (s : State) (o : Out) : (s.say o).mem = s.mem := rfl
@[simp] theorem State.say_media (s : State) (o : Out) : (s.say o).media = s.media := rfl
@[simp] theorem State.say_pq (s : State) (o : Out) : (s.say o).pq = s.pq := rfl
@[simp] theorem State.say_dirty (s : State) (o : Out) : (s.say o).dirty = s.dirty := rfl
@[simp] theorem State.say_tags (s : State) (o : Out) : (s.say o).tags = s.tags := rfl
@[simp] theorem State.say_poison (s : State) (o : Out) : (s.say o).poison = s.poison := rfl
@[simp] theorem State.say_inflight (s : State) (o : Out) : (s.say o).inflight = s.inflight := rfl
@[simp] theorem State.say_cmds (s : State) (o : Out) : (s.say o).cmds = s.cmds := rfl
@[simp] theorem State.say_locks (s : State) (o : Out) : (s.say o).locks = s.locks := rfl
@[simp] theorem State.say_woken (s : State) (o : Out) : (s.say o).woken = s.woken := rfl
@[simp] theorem State.say_marks (s : State) (o : Out) : (s.say o).marks = s.marks := rfl
@[simp] theorem State.say_rolling (s : State) (o : Out) : (s.say o).rolling = s.rolling := rfl
@[simp] theorem State.say_nvm (s : State) (o : Out) : (s.say o).nvm = s.nvm := rfl
@[simp] theorem State.say_mmu (s : State) (o : Out) : (s.say o).mmu = s.mmu := rfl
@[simp] theorem State.say_thatches (s : State) (o : Out) : (s.say o).thatches = s.thatches := rfl
@[simp] theorem State.say_ckpt (s : State) (o : Out) : (s.say o).ckpt = s.ckpt := rfl
@[simp] theorem State.say_links (s : State) (o : Out) : (s.say o).links = s.links := rfl
@[simp] theorem State.say_power (s : State) (o : Out) : (s.say o).power = s.power := rfl
@[simp] theorem State.say_enabled (s : State) (o : Out) : (s.say o).enabled = s.enabled := rfl
@[simp] theorem State.say_agenda (s : State) (o : Out) : (s.say o).agenda = s.agenda := rfl
@[simp] theorem State.say_issue (s : State) (o : Out) : (s.say o).issue = s.issue := rfl
@[simp] theorem State.say_clock (s : State) (o : Out) : (s.say o).clock = s.clock := rfl
@[simp] theorem State.say_free (s : State) (o : Out) : (s.say o).free = s.free := rfl
@[simp] theorem State.say_nextId (s : State) (o : Out) : (s.say o).nextId = s.nextId := rfl

@[simp] theorem State.modRing_threads (s : State) (n : Nat) (f : Ring → Ring) : (s.modRing n f).threads = s.threads := rfl
@[simp] theorem State.modRing_waves (s : State) (n : Nat) (f : Ring → Ring) : (s.modRing n f).waves = s.waves := rfl
@[simp] theorem State.modRing_wgs (s : State) (n : Nat) (f : Ring → Ring) : (s.modRing n f).wgs = s.wgs := rfl
@[simp] theorem State.modRing_launches (s : State) (n : Nat) (f : Ring → Ring) : (s.modRing n f).launches = s.launches := rfl
@[simp] theorem State.modRing_cores (s : State) (n : Nat) (f : Ring → Ring) : (s.modRing n f).cores = s.cores := rfl
@[simp] theorem State.modRing_mem (s : State) (n : Nat) (f : Ring → Ring) : (s.modRing n f).mem = s.mem := rfl
@[simp] theorem State.modRing_media (s : State) (n : Nat) (f : Ring → Ring) : (s.modRing n f).media = s.media := rfl
@[simp] theorem State.modRing_pq (s : State) (n : Nat) (f : Ring → Ring) : (s.modRing n f).pq = s.pq := rfl
@[simp] theorem State.modRing_dirty (s : State) (n : Nat) (f : Ring → Ring) : (s.modRing n f).dirty = s.dirty := rfl
@[simp] theorem State.modRing_tags (s : State) (n : Nat) (f : Ring → Ring) : (s.modRing n f).tags = s.tags := rfl
@[simp] theorem State.modRing_poison (s : State) (n : Nat) (f : Ring → Ring) : (s.modRing n f).poison = s.poison := rfl
@[simp] theorem State.modRing_inflight (s : State) (n : Nat) (f : Ring → Ring) : (s.modRing n f).inflight = s.inflight := rfl
@[simp] theorem State.modRing_cmds (s : State) (n : Nat) (f : Ring → Ring) : (s.modRing n f).cmds = s.cmds := rfl
@[simp] theorem State.modRing_locks (s : State) (n : Nat) (f : Ring → Ring) : (s.modRing n f).locks = s.locks := rfl
@[simp] theorem State.modRing_woken (s : State) (n : Nat) (f : Ring → Ring) : (s.modRing n f).woken = s.woken := rfl
@[simp] theorem State.modRing_marks (s : State) (n : Nat) (f : Ring → Ring) : (s.modRing n f).marks = s.marks := rfl
@[simp] theorem State.modRing_rolling (s : State) (n : Nat) (f : Ring → Ring) : (s.modRing n f).rolling = s.rolling := rfl
@[simp] theorem State.modRing_nvm (s : State) (n : Nat) (f : Ring → Ring) : (s.modRing n f).nvm = s.nvm := rfl
@[simp] theorem State.modRing_mmu (s : State) (n : Nat) (f : Ring → Ring) : (s.modRing n f).mmu = s.mmu := rfl
@[simp] theorem State.modRing_thatches (s : State) (n : Nat) (f : Ring → Ring) : (s.modRing n f).thatches = s.thatches := rfl
@[simp] theorem State.modRing_ckpt (s : State) (n : Nat) (f : Ring → Ring) : (s.modRing n f).ckpt = s.ckpt := rfl
@[simp] theorem State.modRing_links (s : State) (n : Nat) (f : Ring → Ring) : (s.modRing n f).links = s.links := rfl
@[simp] theorem State.modRing_power (s : State) (n : Nat) (f : Ring → Ring) : (s.modRing n f).power = s.power := rfl
@[simp] theorem State.modRing_enabled (s : State) (n : Nat) (f : Ring → Ring) : (s.modRing n f).enabled = s.enabled := rfl
@[simp] theorem State.modRing_agenda (s : State) (n : Nat) (f : Ring → Ring) : (s.modRing n f).agenda = s.agenda := rfl
@[simp] theorem State.modRing_issue (s : State) (n : Nat) (f : Ring → Ring) : (s.modRing n f).issue = s.issue := rfl
@[simp] theorem State.modRing_clock (s : State) (n : Nat) (f : Ring → Ring) : (s.modRing n f).clock = s.clock := rfl
@[simp] theorem State.modRing_free (s : State) (n : Nat) (f : Ring → Ring) : (s.modRing n f).free = s.free := rfl
@[simp] theorem State.modRing_nextId (s : State) (n : Nat) (f : Ring → Ring) : (s.modRing n f).nextId = s.nextId := rfl

@[simp] theorem State.modLink_threads (s : State) (l : Nat) (f : Link → Link) : (s.modLink l f).threads = s.threads := rfl
@[simp] theorem State.modLink_waves (s : State) (l : Nat) (f : Link → Link) : (s.modLink l f).waves = s.waves := rfl
@[simp] theorem State.modLink_wgs (s : State) (l : Nat) (f : Link → Link) : (s.modLink l f).wgs = s.wgs := rfl
@[simp] theorem State.modLink_launches (s : State) (l : Nat) (f : Link → Link) : (s.modLink l f).launches = s.launches := rfl
@[simp] theorem State.modLink_cores (s : State) (l : Nat) (f : Link → Link) : (s.modLink l f).cores = s.cores := rfl
@[simp] theorem State.modLink_mem (s : State) (l : Nat) (f : Link → Link) : (s.modLink l f).mem = s.mem := rfl
@[simp] theorem State.modLink_media (s : State) (l : Nat) (f : Link → Link) : (s.modLink l f).media = s.media := rfl
@[simp] theorem State.modLink_pq (s : State) (l : Nat) (f : Link → Link) : (s.modLink l f).pq = s.pq := rfl
@[simp] theorem State.modLink_dirty (s : State) (l : Nat) (f : Link → Link) : (s.modLink l f).dirty = s.dirty := rfl
@[simp] theorem State.modLink_tags (s : State) (l : Nat) (f : Link → Link) : (s.modLink l f).tags = s.tags := rfl
@[simp] theorem State.modLink_poison (s : State) (l : Nat) (f : Link → Link) : (s.modLink l f).poison = s.poison := rfl
@[simp] theorem State.modLink_inflight (s : State) (l : Nat) (f : Link → Link) : (s.modLink l f).inflight = s.inflight := rfl
@[simp] theorem State.modLink_cmds (s : State) (l : Nat) (f : Link → Link) : (s.modLink l f).cmds = s.cmds := rfl
@[simp] theorem State.modLink_locks (s : State) (l : Nat) (f : Link → Link) : (s.modLink l f).locks = s.locks := rfl
@[simp] theorem State.modLink_woken (s : State) (l : Nat) (f : Link → Link) : (s.modLink l f).woken = s.woken := rfl
@[simp] theorem State.modLink_marks (s : State) (l : Nat) (f : Link → Link) : (s.modLink l f).marks = s.marks := rfl
@[simp] theorem State.modLink_rolling (s : State) (l : Nat) (f : Link → Link) : (s.modLink l f).rolling = s.rolling := rfl
@[simp] theorem State.modLink_nvm (s : State) (l : Nat) (f : Link → Link) : (s.modLink l f).nvm = s.nvm := rfl
@[simp] theorem State.modLink_mmu (s : State) (l : Nat) (f : Link → Link) : (s.modLink l f).mmu = s.mmu := rfl
@[simp] theorem State.modLink_thatches (s : State) (l : Nat) (f : Link → Link) : (s.modLink l f).thatches = s.thatches := rfl
@[simp] theorem State.modLink_ckpt (s : State) (l : Nat) (f : Link → Link) : (s.modLink l f).ckpt = s.ckpt := rfl
@[simp] theorem State.modLink_cmd (s : State) (l : Nat) (f : Link → Link) : (s.modLink l f).cmd = s.cmd := rfl
@[simp] theorem State.modLink_power (s : State) (l : Nat) (f : Link → Link) : (s.modLink l f).power = s.power := rfl
@[simp] theorem State.modLink_enabled (s : State) (l : Nat) (f : Link → Link) : (s.modLink l f).enabled = s.enabled := rfl
@[simp] theorem State.modLink_agenda (s : State) (l : Nat) (f : Link → Link) : (s.modLink l f).agenda = s.agenda := rfl
@[simp] theorem State.modLink_issue (s : State) (l : Nat) (f : Link → Link) : (s.modLink l f).issue = s.issue := rfl
@[simp] theorem State.modLink_clock (s : State) (l : Nat) (f : Link → Link) : (s.modLink l f).clock = s.clock := rfl
@[simp] theorem State.modLink_free (s : State) (l : Nat) (f : Link → Link) : (s.modLink l f).free = s.free := rfl
@[simp] theorem State.modLink_nextId (s : State) (l : Nat) (f : Link → Link) : (s.modLink l f).nextId = s.nextId := rfl

@[simp] theorem State.stamp_waves (s : State) : (s.stamp).waves = s.waves := rfl
@[simp] theorem State.stamp_wgs (s : State) : (s.stamp).wgs = s.wgs := rfl
@[simp] theorem State.stamp_launches (s : State) : (s.stamp).launches = s.launches := rfl
@[simp] theorem State.stamp_cores (s : State) : (s.stamp).cores = s.cores := rfl
@[simp] theorem State.stamp_mem (s : State) : (s.stamp).mem = s.mem := rfl
@[simp] theorem State.stamp_media (s : State) : (s.stamp).media = s.media := rfl
@[simp] theorem State.stamp_pq (s : State) : (s.stamp).pq = s.pq := rfl
@[simp] theorem State.stamp_dirty (s : State) : (s.stamp).dirty = s.dirty := rfl
@[simp] theorem State.stamp_tags (s : State) : (s.stamp).tags = s.tags := rfl
@[simp] theorem State.stamp_poison (s : State) : (s.stamp).poison = s.poison := rfl
@[simp] theorem State.stamp_inflight (s : State) : (s.stamp).inflight = s.inflight := rfl
@[simp] theorem State.stamp_cmds (s : State) : (s.stamp).cmds = s.cmds := rfl
@[simp] theorem State.stamp_locks (s : State) : (s.stamp).locks = s.locks := rfl
@[simp] theorem State.stamp_woken (s : State) : (s.stamp).woken = s.woken := rfl
@[simp] theorem State.stamp_marks (s : State) : (s.stamp).marks = s.marks := rfl
@[simp] theorem State.stamp_rolling (s : State) : (s.stamp).rolling = s.rolling := rfl
@[simp] theorem State.stamp_nvm (s : State) : (s.stamp).nvm = s.nvm := rfl
@[simp] theorem State.stamp_mmu (s : State) : (s.stamp).mmu = s.mmu := rfl
@[simp] theorem State.stamp_thatches (s : State) : (s.stamp).thatches = s.thatches := rfl
@[simp] theorem State.stamp_ckpt (s : State) : (s.stamp).ckpt = s.ckpt := rfl
@[simp] theorem State.stamp_cmd (s : State) : (s.stamp).cmd = s.cmd := rfl
@[simp] theorem State.stamp_links (s : State) : (s.stamp).links = s.links := rfl
@[simp] theorem State.stamp_power (s : State) : (s.stamp).power = s.power := rfl
@[simp] theorem State.stamp_enabled (s : State) : (s.stamp).enabled = s.enabled := rfl
@[simp] theorem State.stamp_agenda (s : State) : (s.stamp).agenda = s.agenda := rfl
@[simp] theorem State.stamp_issue (s : State) : (s.stamp).issue = s.issue := rfl
@[simp] theorem State.stamp_clock (s : State) : (s.stamp).clock = s.clock := rfl
@[simp] theorem State.stamp_free (s : State) : (s.stamp).free = s.free := rfl
@[simp] theorem State.stamp_nextId (s : State) : (s.stamp).nextId = s.nextId := rfl

@[simp] theorem State.holdAt_waves (s : State) (uid : Nat) (h : Hold) : (s.holdAt uid h).waves = s.waves := rfl
@[simp] theorem State.holdAt_wgs (s : State) (uid : Nat) (h : Hold) : (s.holdAt uid h).wgs = s.wgs := rfl
@[simp] theorem State.holdAt_launches (s : State) (uid : Nat) (h : Hold) : (s.holdAt uid h).launches = s.launches := rfl
@[simp] theorem State.holdAt_cores (s : State) (uid : Nat) (h : Hold) : (s.holdAt uid h).cores = s.cores := rfl
@[simp] theorem State.holdAt_mem (s : State) (uid : Nat) (h : Hold) : (s.holdAt uid h).mem = s.mem := rfl
@[simp] theorem State.holdAt_media (s : State) (uid : Nat) (h : Hold) : (s.holdAt uid h).media = s.media := rfl
@[simp] theorem State.holdAt_pq (s : State) (uid : Nat) (h : Hold) : (s.holdAt uid h).pq = s.pq := rfl
@[simp] theorem State.holdAt_dirty (s : State) (uid : Nat) (h : Hold) : (s.holdAt uid h).dirty = s.dirty := rfl
@[simp] theorem State.holdAt_tags (s : State) (uid : Nat) (h : Hold) : (s.holdAt uid h).tags = s.tags := rfl
@[simp] theorem State.holdAt_poison (s : State) (uid : Nat) (h : Hold) : (s.holdAt uid h).poison = s.poison := rfl
@[simp] theorem State.holdAt_inflight (s : State) (uid : Nat) (h : Hold) : (s.holdAt uid h).inflight = s.inflight := rfl
@[simp] theorem State.holdAt_cmds (s : State) (uid : Nat) (h : Hold) : (s.holdAt uid h).cmds = s.cmds := rfl
@[simp] theorem State.holdAt_locks (s : State) (uid : Nat) (h : Hold) : (s.holdAt uid h).locks = s.locks := rfl
@[simp] theorem State.holdAt_woken (s : State) (uid : Nat) (h : Hold) : (s.holdAt uid h).woken = s.woken := rfl
@[simp] theorem State.holdAt_marks (s : State) (uid : Nat) (h : Hold) : (s.holdAt uid h).marks = s.marks := rfl
@[simp] theorem State.holdAt_rolling (s : State) (uid : Nat) (h : Hold) : (s.holdAt uid h).rolling = s.rolling := rfl
@[simp] theorem State.holdAt_nvm (s : State) (uid : Nat) (h : Hold) : (s.holdAt uid h).nvm = s.nvm := rfl
@[simp] theorem State.holdAt_mmu (s : State) (uid : Nat) (h : Hold) : (s.holdAt uid h).mmu = s.mmu := rfl
@[simp] theorem State.holdAt_thatches (s : State) (uid : Nat) (h : Hold) : (s.holdAt uid h).thatches = s.thatches := rfl
@[simp] theorem State.holdAt_ckpt (s : State) (uid : Nat) (h : Hold) : (s.holdAt uid h).ckpt = s.ckpt := rfl
@[simp] theorem State.holdAt_cmd (s : State) (uid : Nat) (h : Hold) : (s.holdAt uid h).cmd = s.cmd := rfl
@[simp] theorem State.holdAt_links (s : State) (uid : Nat) (h : Hold) : (s.holdAt uid h).links = s.links := rfl
@[simp] theorem State.holdAt_power (s : State) (uid : Nat) (h : Hold) : (s.holdAt uid h).power = s.power := rfl
@[simp] theorem State.holdAt_enabled (s : State) (uid : Nat) (h : Hold) : (s.holdAt uid h).enabled = s.enabled := rfl
@[simp] theorem State.holdAt_agenda (s : State) (uid : Nat) (h : Hold) : (s.holdAt uid h).agenda = s.agenda := rfl
@[simp] theorem State.holdAt_issue (s : State) (uid : Nat) (h : Hold) : (s.holdAt uid h).issue = s.issue := rfl
@[simp] theorem State.holdAt_clock (s : State) (uid : Nat) (h : Hold) : (s.holdAt uid h).clock = s.clock := rfl
@[simp] theorem State.holdAt_free (s : State) (uid : Nat) (h : Hold) : (s.holdAt uid h).free = s.free := rfl
@[simp] theorem State.holdAt_nextId (s : State) (uid : Nat) (h : Hold) : (s.holdAt uid h).nextId = s.nextId := rfl

@[simp] theorem State.pass_threads (s : State) (n : Nat) : (s.pass n).threads = s.threads := rfl
@[simp] theorem State.pass_waves (s : State) (n : Nat) : (s.pass n).waves = s.waves := rfl
@[simp] theorem State.pass_wgs (s : State) (n : Nat) : (s.pass n).wgs = s.wgs := rfl
@[simp] theorem State.pass_launches (s : State) (n : Nat) : (s.pass n).launches = s.launches := rfl
@[simp] theorem State.pass_cores (s : State) (n : Nat) : (s.pass n).cores = s.cores := rfl
@[simp] theorem State.pass_mem (s : State) (n : Nat) : (s.pass n).mem = s.mem := rfl
@[simp] theorem State.pass_media (s : State) (n : Nat) : (s.pass n).media = s.media := rfl
@[simp] theorem State.pass_pq (s : State) (n : Nat) : (s.pass n).pq = s.pq := rfl
@[simp] theorem State.pass_dirty (s : State) (n : Nat) : (s.pass n).dirty = s.dirty := rfl
@[simp] theorem State.pass_tags (s : State) (n : Nat) : (s.pass n).tags = s.tags := rfl
@[simp] theorem State.pass_poison (s : State) (n : Nat) : (s.pass n).poison = s.poison := rfl
@[simp] theorem State.pass_inflight (s : State) (n : Nat) : (s.pass n).inflight = s.inflight := rfl
@[simp] theorem State.pass_cmds (s : State) (n : Nat) : (s.pass n).cmds = s.cmds := rfl
@[simp] theorem State.pass_locks (s : State) (n : Nat) : (s.pass n).locks = s.locks := rfl
@[simp] theorem State.pass_woken (s : State) (n : Nat) : (s.pass n).woken = s.woken := rfl
@[simp] theorem State.pass_marks (s : State) (n : Nat) : (s.pass n).marks = s.marks := rfl
@[simp] theorem State.pass_rolling (s : State) (n : Nat) : (s.pass n).rolling = s.rolling := rfl
@[simp] theorem State.pass_nvm (s : State) (n : Nat) : (s.pass n).nvm = s.nvm := rfl
@[simp] theorem State.pass_mmu (s : State) (n : Nat) : (s.pass n).mmu = s.mmu := rfl
@[simp] theorem State.pass_thatches (s : State) (n : Nat) : (s.pass n).thatches = s.thatches := rfl
@[simp] theorem State.pass_ckpt (s : State) (n : Nat) : (s.pass n).ckpt = s.ckpt := rfl
@[simp] theorem State.pass_cmd (s : State) (n : Nat) : (s.pass n).cmd = s.cmd := rfl
@[simp] theorem State.pass_links (s : State) (n : Nat) : (s.pass n).links = s.links := rfl
@[simp] theorem State.pass_enabled (s : State) (n : Nat) : (s.pass n).enabled = s.enabled := rfl
@[simp] theorem State.pass_agenda (s : State) (n : Nat) : (s.pass n).agenda = s.agenda := rfl
@[simp] theorem State.pass_issue (s : State) (n : Nat) : (s.pass n).issue = s.issue := rfl
@[simp] theorem State.pass_free (s : State) (n : Nat) : (s.pass n).free = s.free := rfl
@[simp] theorem State.pass_nextId (s : State) (n : Nat) : (s.pass n).nextId = s.nextId := rfl

/-! What the shared operations that read can do. -/

/-- Reads of host memory leave messages in the outbox and nothing else (R381). -/
theorem State.hostReads_says (s : State) (rs : List (Nat × Nat)) :
    ∃ out, s.hostReads rs = { s with cmd := { s.cmd with outbox := s.cmd.outbox ++ out } } := by
  unfold State.hostReads
  dsimp only
  split
  · exact ⟨[], by simp⟩
  · exact ⟨_, rfl⟩

/-- Early reads change what the threads of the issue hold, and count free values (R27). -/
theorem State.earlyReads_says (s : State) : ∃ ts n, s.earlyReads = { s with threads := ts, free := n } := by
  unfold State.earlyReads
  generalize s.group = g
  have h : ∀ s0 : State, (∃ ts n, s0 = { s with threads := ts, free := n }) →
      ∃ ts n, g.foldl (fun s t => if t.unwritten == 0 || s.isDet t then s
        else { s with free := s.free + t.unwritten }.modThread t.uid (·.early s.free)) s0 = { s with threads := ts, free := n } := by
    induction g with
    | nil => exact fun s0 h => h
    | cons t g ih =>
      rintro s0 ⟨ts, n, rfl⟩
      refine ih _ ?_
      dsimp only
      by_cases hc : (t.unwritten == 0 || State.isDet { s with threads := ts, free := n } t) = true
      · exact ⟨ts, n, if_pos hc⟩
      · exact ⟨_, _, if_neg hc⟩
  exact h s ⟨s.threads, s.free, rfl⟩

end Sys2Proof.Machine
end

