-- ==== Sys2Proof/Laws/Memory.lean ====
section
/-! SUPPORT. Memory: a read after a write, and that every operation keeps the canonical form. -/

namespace Sys2Proof.Machine

/-! Reads after writes. -/

theorem memGet_nil (k : Nat) : memGet [] k = 0 := rfl

theorem memGet_cons (c : Host.Cell) (m : List Host.Cell) (k : Nat) : memGet (c :: m) k = if c.1 = k then c.2 else memGet m k := by
  unfold memGet; by_cases h : c.1 = k <;> simp [h]

theorem memGet_filter (m : List Host.Cell) (p : Nat → Bool) (k : Nat) :
    memGet (m.filter fun c => p c.1) k = if p k then memGet m k else 0 := by
  induction m with
  | nil => simp [memGet_nil]
  | cons c m ih =>
    by_cases hp : p c.1 <;> by_cases hk : c.1 = k <;> simp_all [memGet_cons]

theorem memGet_memInsert (a : Nat) (b : Byte) (m : List Host.Cell) (k : Nat) (h : ∀ c ∈ m, c.1 ≠ a) :
    memGet (memInsert (a, b) m) k = if a = k then b else memGet m k := by
  induction m with
  | nil => simp [memInsert, memGet_cons]
  | cons c m ih =>
    have ha : c.1 ≠ a := h c (by simp)
    have ih := ih fun x hx => h x (by simp [hx])
    unfold memInsert
    split
    · simp [memGet_cons]
    · rw [memGet_cons, ih, memGet_cons]
      by_cases hk : c.1 = k
      · have : a ≠ k := fun e => ha (hk.trans e.symm)
        simp [hk, this]
      · simp [hk]

/-- A read after a write: the value written there, and elsewhere what stood there. -/
theorem memGet_memSet (m : List Host.Cell) (a : Nat) (b : Byte) (k : Nat) :
    memGet (memSet m a b) k = if a = k then b else memGet m k := by
  have hf : memGet (m.filter (·.1 != a)) k = if a = k then 0 else memGet m k := by
    have := memGet_filter m (· != a) k
    rw [this]; by_cases h : a = k
    · simp [h]
    · simp [h, Ne.symm h]
  unfold memSet
  split
  · next hb =>
    have hb : b = 0 := by simpa [memDefault] using hb
    rw [hf]; simp [hb]
  · rw [memGet_memInsert _ _ _ _ (by simp), hf]; by_cases h : a = k <;> simp [h]

theorem memSets_nil (m : List Host.Cell) : memSets m [] = m := rfl

theorem memSets_cons (m : List Host.Cell) (c : Nat × Byte) (bs : List (Nat × Byte)) :
    memSets m (c :: bs) = memSets (memSet m c.1 c.2) bs := rfl

theorem lastByte_nil (k : Nat) : lastByte [] k = none := rfl

theorem lastByte_cons (c : Nat × Byte) (bs : List (Nat × Byte)) (k : Nat) :
    lastByte (c :: bs) k = (lastByte bs k).orElse fun _ => if c.1 = k then some c.2 else none := by
  unfold lastByte
  rw [List.reverse_cons, List.find?_append]
  cases h : (bs.reverse.find? (·.1 == k)) <;> by_cases hk : c.1 = k <;> simp [hk]

/-- A read after some writes: the last byte written there, and elsewhere what stood there. -/
theorem memGet_memSets (m : List Host.Cell) (bs : List (Nat × Byte)) (k : Nat) :
    memGet (memSets m bs) k = (lastByte bs k).getD (memGet m k) := by
  induction bs generalizing m with
  | nil => rfl
  | cons c bs ih =>
    rw [memSets_cons, ih, lastByte_cons, memGet_memSet]
    cases lastByte bs k <;> by_cases h : c.1 = k <;> simp [h]

/-! The canonical form. -/

/-- The canonical form says that keys rise from a bound, and that no entry is a default. -/
theorem memWfFrom_cons (lo : Option Nat) (c : Host.Cell) (m : List Host.Cell) :
    memWfFrom lo (c :: m) = true ↔ (∀ l, lo = some l → l < c.1) ∧ c.2 ≠ memDefault ∧ memWfFrom (some c.1) m = true := by
  obtain ⟨k, v⟩ := c
  cases lo <;> simp [memWfFrom, and_assoc]

theorem memWfFrom_mono {lo lo' : Option Nat} {m : List Host.Cell} (h : memWfFrom lo m = true)
    (hl : ∀ l', lo' = some l' → ∃ l, lo = some l ∧ l' ≤ l) : memWfFrom lo' m = true := by
  cases m with
  | nil => rfl
  | cons c m =>
    rw [memWfFrom_cons] at h ⊢
    refine ⟨fun l' h' => ?_, h.2⟩
    obtain ⟨l, hl1, hl2⟩ := hl l' h'
    exact Nat.lt_of_le_of_lt hl2 (h.1 l hl1)

theorem memWfFrom_filter (p : Host.Cell → Bool) {lo : Option Nat} {m : List Host.Cell} (h : memWfFrom lo m = true) :
    memWfFrom lo (m.filter p) = true := by
  induction m generalizing lo with
  | nil => rfl
  | cons c m ih =>
    rw [memWfFrom_cons] at h
    by_cases hp : p c
    · rw [List.filter_cons_of_pos hp, memWfFrom_cons]; exact ⟨h.1, h.2.1, ih h.2.2⟩
    · rw [List.filter_cons_of_neg hp]
      refine memWfFrom_mono (ih h.2.2) fun l' h' => ⟨c.1, rfl, Nat.le_of_lt (h.1 l' h')⟩

theorem memWfFrom_insert {lo : Option Nat} {m : List Host.Cell} {a : Nat} {b : Byte} (h : memWfFrom lo m = true)
    (ha : ∀ l, lo = some l → l < a) (hb : b ≠ memDefault) (hm : ∀ c ∈ m, c.1 ≠ a) : memWfFrom lo (memInsert (a, b) m) = true := by
  induction m generalizing lo with
  | nil => rw [memInsert, memWfFrom_cons]; exact ⟨ha, hb, rfl⟩
  | cons c m ih =>
    rw [memWfFrom_cons] at h
    unfold memInsert
    split
    · next hlt => 
      rw [memWfFrom_cons, memWfFrom_cons]
      exact ⟨ha, hb, fun l hl => by cases hl; exact hlt, h.2⟩
    · next hge =>
      rw [memWfFrom_cons]
      refine ⟨h.1, h.2.1, ih h.2.2 (fun l hl => ?_) fun x hx => hm x (by simp [hx])⟩
      cases hl
      have := hm c (by simp)
      simp only at hge
      omega

/-- A write keeps the canonical form. -/
theorem Memory.wf_memSet {m : List Host.Cell} (a : Nat) (b : Byte) (h : Memory.wf m = true) : Memory.wf (memSet m a b) = true := by
  unfold memSet
  split
  · exact memWfFrom_filter _ h
  · next hb => exact memWfFrom_insert (memWfFrom_filter _ h) (by simp) (by simpa using hb) (by simp)

/-- Writes keep the canonical form. -/
theorem Memory.wf_memSets {m : List Host.Cell} (bs : List (Nat × Byte)) (h : Memory.wf m = true) : Memory.wf (memSets m bs) = true := by
  induction bs generalizing m with
  | nil => exact h
  | cons c bs ih => exact ih (Memory.wf_memSet c.1 c.2 h)

/-- Clearing a range keeps the canonical form. -/
theorem Memory.wf_memClear {m : List Host.Cell} (a n : Nat) (h : Memory.wf m = true) : Memory.wf (memClear m a n) = true :=
  memWfFrom_filter _ h

/-- Moving a range keeps the canonical form. -/
theorem Memory.wf_memMove {m : List Host.Cell} (dst src n : Nat) (h : Memory.wf m = true) : Memory.wf (memMove m dst src n) = true :=
  Memory.wf_memSets _ (memWfFrom_filter _ h)

/-- A key at or below the bound reads as the default. -/
theorem memGet_of_lt {lo : Nat} {m : List Host.Cell} (h : memWfFrom (some lo) m = true) {k : Nat} (hk : k ≤ lo) : memGet m k = 0 := by
  induction m generalizing lo with
  | nil => rfl
  | cons c m ih =>
    rw [memWfFrom_cons] at h
    have := h.1 lo rfl
    rw [memGet_cons, if_neg (by omega)]
    exact ih h.2.2 (by omega)

/-- A canonical list without an entry at its head reads 0 only where it has none: its first entry is seen. -/
theorem memGet_head {lo : Option Nat} {c : Host.Cell} {m : List Host.Cell} (h : memWfFrom lo (c :: m) = true) :
    memGet (c :: m) c.1 = c.2 ∧ c.2 ≠ 0 := by
  rw [memWfFrom_cons] at h
  exact ⟨by simp [memGet_cons], h.2.1⟩

/-- Two canonical lists that read alike everywhere are equal: equal memories are equal data. -/
theorem memWfFrom_ext {l1 l2 : Option Nat} {m1 m2 : List Host.Cell} (h1 : memWfFrom l1 m1 = true) (h2 : memWfFrom l2 m2 = true)
    (h : ∀ k, memGet m1 k = memGet m2 k) : m1 = m2 := by
  induction m1 generalizing l1 l2 m2 with
  | nil =>
    cases m2 with
    | nil => rfl
    | cons d m2 => exact absurd ((memGet_head h2).1.symm.trans (h d.1).symm) (memGet_head h2).2
  | cons c m1 ih =>
    cases m2 with
    | nil => exact absurd ((memGet_head h1).1.symm.trans (h c.1)) (memGet_head h1).2
    | cons d m2 =>
      have hc := memGet_head h1
      have hd := memGet_head h2
      rw [memWfFrom_cons] at h1 h2
      have key : c.1 = d.1 := by
        rcases Nat.lt_trichotomy c.1 d.1 with hlt | heq | hgt
        · have e := h c.1
          rw [hc.1, memGet_cons, if_neg (by omega), memGet_of_lt h2.2.2 (by omega)] at e
          exact absurd e hc.2
        · exact heq
        · have e := (h d.1).symm
          rw [hd.1, memGet_cons, if_neg (by omega), memGet_of_lt h1.2.2 (by omega)] at e
          exact absurd e hd.2
      have val : c.2 = d.2 := by rw [← hc.1, h c.1, key, hd.1]
      have tail : m1 = m2 := by
        refine ih h1.2.2 h2.2.2 fun k => ?_
        by_cases hk : c.1 = k
        · rw [memGet_of_lt h1.2.2 (by omega), memGet_of_lt h2.2.2 (by omega)]
        · have e := h k
          rw [memGet_cons, memGet_cons, if_neg hk, if_neg (by omega)] at e
          exact e
      rw [Prod.ext key val, tail]

/-! Writes at the home. -/

theorem State.forceLine_mem (s : State) (line : Nat) : (s.forceLine line).mem = s.mem := by
  unfold State.forceLine
  split
  · rfl
  · split <;> rfl

theorem State.forceLine_media (s : State) (line : Nat) : (s.forceLine line).media = s.media := by
  unfold State.forceLine
  split
  · rfl
  · split <;> rfl

theorem foldl_mem {α : Type} (f : State → α → State) (hf : ∀ s a, (f s a).mem = s.mem ∧ (f s a).media = s.media) (xs : List α) (s : State) :
    (xs.foldl f s).mem = s.mem ∧ (xs.foldl f s).media = s.media := by
  induction xs generalizing s with
  | nil => exact ⟨rfl, rfl⟩
  | cons x xs ih => exact ⟨(ih _).1.trans (hf s x).1, (ih _).2.trans (hf s x).2⟩

/-- The bytes are written, and the media not. -/
theorem State.writeBytes_mem (s : State) (bs : List (Nat × Byte)) :
    (s.writeBytes bs).mem = memSets s.mem bs ∧ (s.writeBytes bs).media = s.media := by
  have hforce := foldl_mem (fun (s : State) (l : Nat) => s.forceLine l) (fun s l => ⟨s.forceLine_mem l, s.forceLine_media l⟩)
  have htag := foldl_mem (fun (s : State) (l : Nat) => s.setTag l (s.ckpt.step.setWidth 8)) (fun _ _ => ⟨rfl, rfl⟩)
  unfold State.writeBytes
  constructor
  · simp only [(htag _ _).1, (hforce _ _).1]
  · simp only [(htag _ _).2, (hforce _ _).2]

/-- Memory stays, and the media keep their canonical form: what a move of bytes to the persistence domain does to them. -/
def CalmMem (s s' : State) : Prop := s'.mem = s.mem ∧ (Memory.wf s.media = true → Memory.wf s'.media = true)

theorem CalmMem.rfl (s : State) : CalmMem s s := ⟨Eq.refl _, id⟩

theorem CalmMem.trans {a b c : State} (h : CalmMem a b) (g : CalmMem b c) : CalmMem a c := ⟨g.1.trans h.1, fun w => g.2 (h.2 w)⟩

theorem foldl_calm {α : Type} (f : State → α → State) (hf : ∀ s a, CalmMem s (f s a)) (xs : List α) (s : State) :
    CalmMem s (xs.foldl f s) := by
  induction xs generalizing s with
  | nil => exact .rfl s
  | cons x xs ih => exact (hf s x).trans (ih _)

/-- What reaches the media keeps their canonical form. -/
theorem State.persisted_calm (s : State) (bs : List PqEntry) : CalmMem s (s.persisted bs) :=
  ⟨rfl, fun h => Memory.wf_memSets bs h⟩

theorem State.drainFirst_calm (s : State) (n : Nat) : CalmMem s (s.drainFirst n) :=
  State.persisted_calm { s with pq := s.pq.drop n } (s.pq.take n)

theorem State.drainOver_calm (s : State) : CalmMem s s.drainOver := by
  unfold State.drainOver
  exact State.drainFirst_calm s _

theorem State.pqPut_calm (s : State) (bs : List PqEntry) : CalmMem s (s.pqPut bs) := by
  unfold State.pqPut
  split
  · exact State.drainFirst_calm { s with pq := s.pq ++ bs } _
  · exact ⟨rfl, id⟩

theorem State.persistBytes_calm (s : State) (bs : List PqEntry) : CalmMem s (s.persistBytes bs) :=
  (State.pqPut_calm s bs).trans (State.drainOver_calm _)

theorem State.flushDirty_calm (s : State) (line : Nat) : CalmMem s (s.flushDirty line) := by
  unfold State.flushDirty
  split
  · exact State.persistBytes_calm _ _
  · exact .rfl s

theorem State.writeScm_calm (s : State) (scm : List (Nat × Byte)) (p nt : Bool) : CalmMem s (s.writeScm scm p nt) := by
  unfold State.writeScm
  split
  · exact .rfl s
  · split
    · exact State.pqPut_calm s scm
    · split
      · exact State.persistBytes_calm _ _
      · unfold State.markDirty
        dsimp only
        generalize List.take _ _ = xs
        exact CalmMem.trans (b := { s with dirty := _ }) ⟨rfl, id⟩ (foldl_calm State.flushDirty State.flushDirty_calm xs _)

theorem State.portWake_calm (s : State) (bs : List (Nat × Byte)) : CalmMem s (s.portWake bs) := by
  unfold State.portWake
  split <;> exact ⟨rfl, id⟩

/-- A write at the home writes its bytes, and keeps the media's canonical form. -/
theorem State.writeHome_mem (s : State) (bs : List (Nat × Byte)) (p : Bool) (nt : Bool := false) :
    (s.writeHome bs p nt).mem = memSets s.mem bs ∧ (Memory.wf s.media = true → Memory.wf (s.writeHome bs p nt).media = true) := by
  have h := (State.writeScm_calm (s.writeBytes bs) (bs.filter fun b => s.spaceOf b.1 == .scm) p nt).trans (State.portWake_calm _ bs)
  exact ⟨h.1.trans (s.writeBytes_mem bs).1, fun w => h.2 ((s.writeBytes_mem bs).2 ▸ w)⟩

/-- A write at the home is a store of its bytes. -/
theorem State.writeHome_stored (s : State) (bs : List (Nat × Byte)) (p : Bool) (nt : Bool := false) :
    Stored s (s.writeHome bs p nt) bs := fun k => by
  rw [(s.writeHome_mem bs p nt).1, memGet_memSets]

/-- A write at the home keeps the canonical forms. -/
theorem State.writeHome_memOk {s : State} (bs : List (Nat × Byte)) (p : Bool) (nt : Bool := false) (h : s.memOk = true) :
    (s.writeHome bs p nt).memOk = true := by
  unfold State.memOk at h ⊢
  simp only [Bool.and_eq_true] at h ⊢
  exact ⟨(s.writeHome_mem bs p nt).1 ▸ Memory.wf_memSets bs h.1, (s.writeHome_mem bs p nt).2 h.2⟩

/-- A write by the device's own agents is a store of its bytes, and keeps the canonical forms. -/
theorem State.putHome_mem (s : State) (bs : List (Nat × Byte)) (p : Bool) :
    (s.putHome bs p).mem = memSets s.mem bs ∧ (Memory.wf s.media = true → Memory.wf (s.putHome bs p).media = true) := by
  unfold State.putHome
  split
  · exact ⟨(State.drainOver_calm _).1.trans (s.writeHome_mem bs true).1, fun w => (State.drainOver_calm _).2 ((s.writeHome_mem bs true).2 w)⟩
  · exact s.writeHome_mem bs false

/-- What reaches the media keeps the canonical forms. -/
theorem State.persisted_memOk {s : State} (bs : List PqEntry) (h : s.memOk = true) : (s.persisted bs).memOk = true := by
  unfold State.memOk at h ⊢
  simp only [Bool.and_eq_true] at h ⊢
  exact ⟨h.1, Memory.wf_memSets bs h.2⟩

end Sys2Proof.Machine
end

