-- ==== Sys2Proof/Laws/PerInstr.lean ====
section
/-! SUPPORT. Laws stated per instruction. -/

namespace Sys2Proof.Laws

/-- R16, R21: the scheduling fields and the length of an instruction's encoding are those it carries, and exactly the
instructions of the table that have an opcode have an encoding; an event has none. -/
def Encoding.Statement (i : Instr) : Prop :=
  (i.raw.map fun r => (r.len, r.stall, r.wait, r.setf, r.g0)) =
    i.shape.map fun s => (s.ctl.len, s.ctl.stall, s.ctl.wait, s.ctl.setf, s.ctl.g0.idx)

theorem Encoding.nop (c : Ctl) : Encoding.Statement (.nop c) := rfl
theorem Encoding.bra (c : Ctl) (off : Word) : Encoding.Statement (.bra c off) := rfl
theorem Encoding.brx (c : Ctl) (a : Reg) : Encoding.Statement (.brx c a) := rfl
theorem Encoding.call (c : Ctl) (d : Reg) (off : Word) : Encoding.Statement (.call c d off) := rfl
theorem Encoding.ret (c : Ctl) (a : Reg) : Encoding.Statement (.ret c a) := rfl
theorem Encoding.exit (c : Ctl) : Encoding.Statement (.exit c) := rfl
theorem Encoding.yield (c : Ctl) : Encoding.Statement (.yield c) := rfl
theorem Encoding.fuse (c : Ctl) (hold : BitVec 8) : Encoding.Statement (.fuse c hold) := rfl
theorem Encoding.waitf (c : Ctl) (mem : Bool) : Encoding.Statement (.waitf c mem) := rfl
theorem Encoding.sleep (c : Ctl) (n : BitVec 24) : Encoding.Statement (.sleep c n) := rfl
theorem Encoding.trap (c : Ctl) (code : BitVec 8) : Encoding.Statement (.trap c code) := rfl
theorem Encoding.brk (c : Ctl) (tag : Word) : Encoding.Statement (.brk c tag) := rfl
theorem Encoding.pand (c : Ctl) (x : PredArgs) : Encoding.Statement (.pand c x) := rfl
theorem Encoding.por (c : Ctl) (x : PredArgs) : Encoding.Statement (.por c x) := rfl
theorem Encoding.pxor (c : Ctl) (x : PredArgs) : Encoding.Statement (.pxor c x) := rfl
theorem Encoding.pnot (c : Ctl) (d a : Reg) : Encoding.Statement (.pnot c d a) := rfl
theorem Encoding.pmov (c : Ctl) (d a : Reg) (na : Bool) : Encoding.Statement (.pmov c d a na) := rfl
theorem Encoding.fetchw (c : Ctl) (d p : Reg) : Encoding.Statement (.fetchw c d p) := rfl
theorem Encoding.emit (c : Ctl) (a : Reg) (q : BitVec 2) : Encoding.Statement (.emit c a q) := rfl
theorem Encoding.gate (c : Ctl) (g : BitVec 4) : Encoding.Statement (.gate c g) := rfl
theorem Encoding.release (c : Ctl) (g : BitVec 4) : Encoding.Statement (.release c g) := rfl
theorem Encoding.migr (c : Ctl) (a : Reg) (home : Bool) : Encoding.Statement (.migr c a home) := rfl
theorem Encoding.iadd (c : Ctl) (x : IntBin) : Encoding.Statement (.iadd c x) := rfl
theorem Encoding.isub (c : Ctl) (x : IntBin) : Encoding.Statement (.isub c x) := rfl
theorem Encoding.imul (c : Ctl) (x : IntBin) : Encoding.Statement (.imul c x) := rfl
theorem Encoding.imulh (c : Ctl) (x : IntBin) : Encoding.Statement (.imulh c x) := rfl
theorem Encoding.imad (c : Ctl) (x : IntTern) : Encoding.Statement (.imad c x) := rfl
theorem Encoding.idiv (c : Ctl) (x : IntBin) : Encoding.Statement (.idiv c x) := rfl
theorem Encoding.irem (c : Ctl) (x : IntBin) : Encoding.Statement (.irem c x) := rfl
theorem Encoding.imin (c : Ctl) (x : IntBin) : Encoding.Statement (.imin c x) := rfl
theorem Encoding.imax (c : Ctl) (x : IntBin) : Encoding.Statement (.imax c x) := rfl
theorem Encoding.iabs (c : Ctl) (x : IntUn) : Encoding.Statement (.iabs c x) := rfl
theorem Encoding.ineg (c : Ctl) (x : IntUn) : Encoding.Statement (.ineg c x) := rfl
theorem Encoding.land (c : Ctl) (x : IntBin) : Encoding.Statement (.land c x) := rfl
theorem Encoding.lor (c : Ctl) (x : IntBin) : Encoding.Statement (.lor c x) := rfl
theorem Encoding.lxor (c : Ctl) (x : IntBin) : Encoding.Statement (.lxor c x) := rfl
theorem Encoding.lnot (c : Ctl) (x : IntUn) : Encoding.Statement (.lnot c x) := rfl
theorem Encoding.shl (c : Ctl) (x : IntBin) : Encoding.Statement (.shl c x) := rfl
theorem Encoding.shr (c : Ctl) (x : IntBin) : Encoding.Statement (.shr c x) := rfl
theorem Encoding.sar (c : Ctl) (x : IntBin) : Encoding.Statement (.sar c x) := rfl
theorem Encoding.rot (c : Ctl) (x : IntBin) : Encoding.Statement (.rot c x) := rfl
theorem Encoding.bfe (c : Ctl) (x : BitField) : Encoding.Statement (.bfe c x) := rfl
theorem Encoding.bfi (c : Ctl) (x : BitField) : Encoding.Statement (.bfi c x) := rfl
theorem Encoding.popc (c : Ctl) (x : IntUn) : Encoding.Statement (.popc c x) := rfl
theorem Encoding.clz (c : Ctl) (x : IntUn) : Encoding.Statement (.clz c x) := rfl
theorem Encoding.brev (c : Ctl) (x : IntUn) : Encoding.Statement (.brev c x) := rfl
theorem Encoding.isetp (c : Ctl) (x : ISetp) : Encoding.Statement (.isetp c x) := rfl
theorem Encoding.sel (c : Ctl) (x : SelArgs) : Encoding.Statement (.sel c x) := rfl
theorem Encoding.mov (c : Ctl) (d a : Reg) (w : MovW) : Encoding.Statement (.mov c d a w) := rfl
theorem Encoding.movi (c : Ctl) (d : Reg) (m : MSel) (imm : Word) : Encoding.Statement (.movi c d m imm) := rfl
theorem Encoding.lea (c : Ctl) (x : LeaArgs) : Encoding.Statement (.lea c x) := rfl
theorem Encoding.hmul (c : Ctl) (x : IntBin) : Encoding.Statement (.hmul c x) := rfl
theorem Encoding.fadd (c : Ctl) (x : FBin) : Encoding.Statement (.fadd c x) := rfl
theorem Encoding.fsub (c : Ctl) (x : FBin) : Encoding.Statement (.fsub c x) := rfl
theorem Encoding.fmul (c : Ctl) (x : FBin) : Encoding.Statement (.fmul c x) := rfl
theorem Encoding.ffma (c : Ctl) (x : FTern) : Encoding.Statement (.ffma c x) := rfl
theorem Encoding.fmin (c : Ctl) (x : FSel) : Encoding.Statement (.fmin c x) := rfl
theorem Encoding.fmax (c : Ctl) (x : FSel) : Encoding.Statement (.fmax c x) := rfl
theorem Encoding.fabs (c : Ctl) (x : Un) : Encoding.Statement (.fabs c x) := rfl
theorem Encoding.fneg (c : Ctl) (x : Un) : Encoding.Statement (.fneg c x) := rfl
theorem Encoding.fsetp (c : Ctl) (x : FSetp) : Encoding.Statement (.fsetp c x) := rfl
theorem Encoding.fclass (c : Ctl) (x : Un) : Encoding.Statement (.fclass c x) := rfl
theorem Encoding.frnd (c : Ctl) (x : FUn) : Encoding.Statement (.frnd c x) := rfl
theorem Encoding.fscale (c : Ctl) (x : FBin) : Encoding.Statement (.fscale c x) := rfl
theorem Encoding.frcp (c : Ctl) (x : FUn) : Encoding.Statement (.frcp c x) := rfl
theorem Encoding.frsq (c : Ctl) (x : FUn) : Encoding.Statement (.frsq c x) := rfl
theorem Encoding.fsqrt (c : Ctl) (x : FUn) : Encoding.Statement (.fsqrt c x) := rfl
theorem Encoding.fexp2 (c : Ctl) (x : FUn) : Encoding.Statement (.fexp2 c x) := rfl
theorem Encoding.flog2 (c : Ctl) (x : FUn) : Encoding.Statement (.flog2 c x) := rfl
theorem Encoding.fsin (c : Ctl) (x : FUn) : Encoding.Statement (.fsin c x) := rfl
theorem Encoding.fcos (c : Ctl) (x : FUn) : Encoding.Statement (.fcos c x) := rfl
theorem Encoding.ftanh (c : Ctl) (x : FUn) : Encoding.Statement (.ftanh c x) := rfl
theorem Encoding.fsigm (c : Ctl) (x : FUn) : Encoding.Statement (.fsigm c x) := rfl
theorem Encoding.fdot2 (c : Ctl) (x : FTern) : Encoding.Statement (.fdot2 c x) := rfl
theorem Encoding.fdot4 (c : Ctl) (x : FTern) : Encoding.Statement (.fdot4 c x) := rfl
theorem Encoding.fcvt (c : Ctl) (x : FCvt) : Encoding.Statement (.fcvt c x) := rfl
theorem Encoding.bfppack (c : Ctl) (x : BfpPack) : Encoding.Statement (.bfppack c x) := rfl
theorem Encoding.bfpunpk (c : Ctl) (x : BfpUnpk) : Encoding.Statement (.bfpunpk c x) := rfl
theorem Encoding.compress (c : Ctl) (x : Un) : Encoding.Statement (.compress c x) := rfl
theorem Encoding.expand (c : Ctl) (x : Un) : Encoding.Statement (.expand c x) := rfl
theorem Encoding.vred (c : Ctl) (x : VRed) : Encoding.Statement (.vred c x) := rfl
theorem Encoding.vscan (c : Ctl) (x : VRed) : Encoding.Statement (.vscan c x) := rfl
theorem Encoding.vshfl (c : Ctl) (x : VSh) : Encoding.Statement (.vshfl c x) := rfl
theorem Encoding.vbcast (c : Ctl) (x : VSh) : Encoding.Statement (.vbcast c x) := rfl
theorem Encoding.tagset (c : Ctl) (x : TagArgs) : Encoding.Statement (.tagset c x) := rfl
theorem Encoding.tagget (c : Ctl) (x : Un) : Encoding.Statement (.tagget c x) := rfl
theorem Encoding.tagchk (c : Ctl) (x : TagArgs) : Encoding.Statement (.tagchk c x) := rfl
theorem Encoding.sclget (c : Ctl) (x : Un) : Encoding.Statement (.sclget c x) := rfl
theorem Encoding.sclset (c : Ctl) (x : TagArgs) : Encoding.Statement (.sclset c x) := rfl
theorem Encoding.dnorm (c : Ctl) (x : DNorm) : Encoding.Statement (.dnorm c x) := rfl
theorem Encoding.dunpk (c : Ctl) (x : DUnpk) : Encoding.Statement (.dunpk c x) := rfl
theorem Encoding.ddot (c : Ctl) (x : DBin) : Encoding.Statement (.ddot c x) := rfl
theorem Encoding.ddotr (c : Ctl) (x : DDotR) : Encoding.Statement (.ddotr c x) := rfl
theorem Encoding.dscl (c : Ctl) (x : DScl) : Encoding.Statement (.dscl c x) := rfl
theorem Encoding.dadd (c : Ctl) (x : DBin) : Encoding.Statement (.dadd c x) := rfl
theorem Encoding.dsub (c : Ctl) (x : DBin) : Encoding.Statement (.dsub c x) := rfl
theorem Encoding.dlerp (c : Ctl) (x : DLerp) : Encoding.Statement (.dlerp c x) := rfl
theorem Encoding.drej (c : Ctl) (x : DBin) : Encoding.Statement (.drej c x) := rfl
theorem Encoding.dmov (c : Ctl) (x : Un) : Encoding.Statement (.dmov c x) := rfl
theorem Encoding.dzero (c : Ctl) (d : Reg) : Encoding.Statement (.dzero c d) := rfl
theorem Encoding.dtest (c : Ctl) (x : Un) : Encoding.Statement (.dtest c x) := rfl
theorem Encoding.nmov (c : Ctl) (x : NMov) : Encoding.Statement (.nmov c x) := rfl
theorem Encoding.dld (c : Ctl) (x : DMem) : Encoding.Statement (.dld c x) := rfl
theorem Encoding.dst (c : Ctl) (x : DMem) : Encoding.Statement (.dst c x) := rfl
theorem Encoding.ksign (c : Ctl) (k : Reg) : Encoding.Statement (.ksign c k) := rfl
theorem Encoding.kclr (c : Ctl) (k : Reg) : Encoding.Statement (.kclr c k) := rfl
theorem Encoding.mma (c : Ctl) (x : Mma) : Encoding.Statement (.mma c x) := rfl
theorem Encoding.mmas (c : Ctl) (x : Mmas) : Encoding.Statement (.mmas c x) := rfl
theorem Encoding.mzero (c : Ctl) (m : Reg) : Encoding.Statement (.mzero c m) := rfl
theorem Encoding.mdrain (c : Ctl) (x : MDrain) : Encoding.Statement (.mdrain c x) := rfl
theorem Encoding.mchk (c : Ctl) (p : Reg) : Encoding.Statement (.mchk c p) := rfl
theorem Encoding.mget (c : Ctl) (x : MGet) : Encoding.Statement (.mget c x) := rfl
theorem Encoding.mput (c : Ctl) (x : MPut) : Encoding.Statement (.mput c x) := rfl
theorem Encoding.mstat (c : Ctl) (x : Un) : Encoding.Statement (.mstat c x) := rfl
theorem Encoding.errinj (c : Ctl) (x : ErrInj) : Encoding.Statement (.errinj c x) := rfl
theorem Encoding.ld (c : Ctl) (x : Ld) : Encoding.Statement (.ld c x) := rfl
theorem Encoding.st (c : Ctl) (x : St) : Encoding.Statement (.st c x) := rfl
theorem Encoding.ldv (c : Ctl) (x : Ldv) : Encoding.Statement (.ldv c x) := rfl
theorem Encoding.stv (c : Ctl) (x : Ldv) : Encoding.Statement (.stv c x) := rfl
theorem Encoding.pref (c : Ctl) (x : Pref) : Encoding.Statement (.pref c x) := rfl
theorem Encoding.fence (c : Ctl) (kind : FKind) (scope : Scope) : Encoding.Statement (.fence c kind scope) := rfl
theorem Encoding.pbar (c : Ctl) (system : Bool) : Encoding.Statement (.pbar c system) := rfl
theorem Encoding.pflush (c : Ctl) (a : Reg) (off : BitVec 16) : Encoding.Statement (.pflush c a off) := rfl
theorem Encoding.copy (c : Ctl) (x : CopyArgs) : Encoding.Statement (.copy c x) := rfl
theorem Encoding.gather (c : Ctl) (x : Gather) : Encoding.Statement (.gather c x) := rfl
theorem Encoding.scatter (c : Ctl) (x : Gather) : Encoding.Statement (.scatter c x) := rfl
theorem Encoding.tcopy (c : Ctl) (x : TCopy) : Encoding.Statement (.tcopy c x) := rfl
theorem Encoding.binit (c : Ctl) (x : BInit) : Encoding.Statement (.binit c x) := rfl
theorem Encoding.bexp (c : Ctl) (a b : Reg) : Encoding.Statement (.bexp c a b) := rfl
theorem Encoding.barr (c : Ctl) (x : BArr) : Encoding.Statement (.barr c x) := rfl
theorem Encoding.bwait (c : Ctl) (x : BWait) : Encoding.Statement (.bwait c x) := rfl
theorem Encoding.btest (c : Ctl) (x : BWait) : Encoding.Statement (.btest c x) := rfl
theorem Encoding.bdrop (c : Ctl) (a : Reg) : Encoding.Statement (.bdrop c a) := rfl
theorem Encoding.ringnext (c : Ctl) (x : RingNext) : Encoding.Statement (.ringnext c x) := rfl
theorem Encoding.yacq (c : Ctl) (a b : Reg) : Encoding.Statement (.yacq c a b) := rfl
theorem Encoding.yrel (c : Ctl) (a b : Reg) : Encoding.Statement (.yrel c a b) := rfl
theorem Encoding.yhint (c : Ctl) (a b : Reg) : Encoding.Statement (.yhint c a b) := rfl
theorem Encoding.lnkhint (c : Ctl) (a : Reg) : Encoding.Statement (.lnkhint c a) := rfl
theorem Encoding.rget (c : Ctl) (x : RXfer) : Encoding.Statement (.rget c x) := rfl
theorem Encoding.rput (c : Ctl) (x : RXfer) : Encoding.Statement (.rput c x) := rfl
theorem Encoding.cred (c : Ctl) (x : Coll) : Encoding.Statement (.cred c x) := rfl
theorem Encoding.cgath (c : Ctl) (x : Coll) : Encoding.Statement (.cgath c x) := rfl
theorem Encoding.cbcst (c : Ctl) (x : Coll) : Encoding.Statement (.cbcst c x) := rfl
theorem Encoding.atom (c : Ctl) (x : Atom) : Encoding.Statement (.atom c x) := rfl
theorem Encoding.atomc (c : Ctl) (x : AtomC) : Encoding.Statement (.atomc c x) := rfl
theorem Encoding.red (c : Ctl) (x : Atom) : Encoding.Statement (.red c x) := rfl
theorem Encoding.qlock (c : Ctl) (x : LockArgs) : Encoding.Statement (.qlock c x) := rfl
theorem Encoding.qtry (c : Ctl) (x : LockArgs) : Encoding.Statement (.qtry c x) := rfl
theorem Encoding.qunlk (c : Ctl) (x : LockArgs) : Encoding.Statement (.qunlk c x) := rfl
theorem Encoding.tkget (c : Ctl) (d : Reg) (seq : BitVec 2) : Encoding.Statement (.tkget c d seq) := rfl
theorem Encoding.tkwait (c : Ctl) (seq : BitVec 2) : Encoding.Statement (.tkwait c seq) := rfl
theorem Encoding.tkadv (c : Ctl) (seq : BitVec 2) : Encoding.Statement (.tkadv c seq) := rfl
theorem Encoding.own (c : Ctl) (a n : Reg) : Encoding.Statement (.own c a n) := rfl
theorem Encoding.sstep (c : Ctl) : Encoding.Statement (.sstep c) := rfl
theorem Encoding.cbar (c : Ctl) (id : BitVec 2) : Encoding.Statement (.cbar c id) := rfl
theorem Encoding.sysrd (c : Ctl) (x : SysArgs) : Encoding.Statement (.sysrd c x) := rfl
theorem Encoding.syswr (c : Ctl) (x : SysArgs) : Encoding.Statement (.syswr c x) := rfl
theorem Encoding.tret (c : Ctl) (x : TRet) : Encoding.Statement (.tret c x) := rfl
theorem Encoding.idrd (c : Ctl) (d : Reg) (sel : BitVec 8) : Encoding.Statement (.idrd c d sel) := rfl
theorem Encoding.clkrd (c : Ctl) (d : Reg) (sel : BitVec 2) : Encoding.Statement (.clkrd c d sel) := rfl
theorem Encoding.heapset (c : Ctl) (x : HeapSet) : Encoding.Statement (.heapset c x) := rfl
theorem Encoding.tlbinv (c : Ctl) (x : TlbInv) : Encoding.Statement (.tlbinv c x) := rfl
theorem Encoding.l1inv (c : Ctl) (mode : BitVec 2) : Encoding.Statement (.l1inv c mode) := rfl
theorem Encoding.stepadv (c : Ctl) (d : Reg) : Encoding.Statement (.stepadv c d) := rfl
theorem Encoding.ckpt (c : Ctl) (bar a : Reg) (mode : Bool) : Encoding.Statement (.ckpt c bar a mode) := rfl
theorem Encoding.strig (c : Ctl) (d : Reg) : Encoding.Statement (.strig c d) := rfl
theorem Encoding.dbghalt (c : Ctl) : Encoding.Statement (.dbghalt c) := rfl
theorem Encoding.halt (c : Ctl) (mode : Bool) : Encoding.Statement (.halt c mode) := rfl
theorem Encoding.wear (c : Ctl) (d : Reg) (sel : BitVec 16) : Encoding.Statement (.wear c d sel) := rfl
theorem Encoding.pwrreq (c : Ctl) (d a : Reg) (restore : Bool) : Encoding.Statement (.pwrreq c d a restore) := rfl
theorem Encoding.resultWriteback (uid : Nat) : Encoding.Statement (.resultWriteback uid) := rfl
theorem Encoding.directionalWrite (wid : Nat) : Encoding.Statement (.directionalWrite wid) := rfl
theorem Encoding.loadReturn (id : Nat) : Encoding.Statement (.loadReturn id) := rfl
theorem Encoding.storeComplete (id : Nat) : Encoding.Statement (.storeComplete id) := rfl
theorem Encoding.atomicApply (id : Nat) : Encoding.Statement (.atomicApply id) := rfl
theorem Encoding.wcLineFlush (core line : Nat) : Encoding.Statement (.wcLineFlush core line) := rfl
theorem Encoding.waveCollectiveIssue (wid : Nat) : Encoding.Statement (.waveCollectiveIssue wid) := rfl
theorem Encoding.convergenceComplete (core k : Nat) : Encoding.Statement (.convergenceComplete core k) := rfl
theorem Encoding.matrixCommandStart (core : Nat) : Encoding.Statement (.matrixCommandStart core) := rfl
theorem Encoding.matrixRecompute (core : Nat) : Encoding.Statement (.matrixRecompute core) := rfl
theorem Encoding.matrixAccumulate (core : Nat) : Encoding.Statement (.matrixAccumulate core) := rfl
theorem Encoding.engineChunkWrite (id chunk : Nat) (remote : List Byte) : Encoding.Statement (.engineChunkWrite id chunk remote) := rfl
theorem Encoding.barrierPortOperation (id : Nat) : Encoding.Statement (.barrierPortOperation id) := rfl
theorem Encoding.collectiveJoin (group : Nat) (peers : List PeerPart) : Encoding.Statement (.collectiveJoin group peers) := rfl
theorem Encoding.heldThreadWake (uid : Nat) : Encoding.Statement (.heldThreadWake uid) := rfl
theorem Encoding.sleepExpire (uid : Nat) : Encoding.Statement (.sleepExpire uid) := rfl
theorem Encoding.fuseHoldExpire (uid : Nat) : Encoding.Statement (.fuseHoldExpire uid) := rfl
theorem Encoding.workIdDispense (lnum : Nat) : Encoding.Statement (.workIdDispense lnum) := rfl
theorem Encoding.producerEnd (lnum : Nat) : Encoding.Statement (.producerEnd lnum) := rfl
theorem Encoding.stepAdvance (lnum : Nat) : Encoding.Statement (.stepAdvance lnum) := rfl
theorem Encoding.ckptSelfAdvance : Encoding.Statement (.ckptSelfAdvance) := rfl
theorem Encoding.ckptTimerExpire : Encoding.Statement (.ckptTimerExpire) := rfl
theorem Encoding.superstepCommit (lnum : Nat) : Encoding.Statement (.superstepCommit lnum) := rfl
theorem Encoding.clusterBarrierComplete (lnum cluster id : Nat) : Encoding.Statement (.clusterBarrierComplete lnum cluster id) := rfl
theorem Encoding.migrationLand (uid : Nat) : Encoding.Statement (.migrationLand uid) := rfl
theorem Encoding.workgroupPlace (lnum wg : Nat) : Encoding.Statement (.workgroupPlace lnum wg) := rfl
theorem Encoding.workgroupEnd (lnum wg : Nat) : Encoding.Statement (.workgroupEnd lnum wg) := rfl
theorem Encoding.workgroupKill (lnum wg : Nat) : Encoding.Statement (.workgroupKill lnum wg) := rfl
theorem Encoding.preempt (lnum wg bound area : Nat) : Encoding.Statement (.preempt lnum wg bound area) := rfl
theorem Encoding.workgroupRestore (lnum wg : Nat) : Encoding.Statement (.workgroupRestore lnum wg) := rfl
theorem Encoding.trapRecordPost (uid : Nat) : Encoding.Statement (.trapRecordPost uid) := rfl
theorem Encoding.trapDispose : Encoding.Statement (.trapDispose) := rfl
theorem Encoding.eventPost : Encoding.Statement (.eventPost) := rfl
theorem Encoding.faultRecordPost : Encoding.Statement (.faultRecordPost) := rfl
theorem Encoding.yealmStreamStart : Encoding.Statement (.yealmStreamStart) := rfl
theorem Encoding.yealmArrive (failedShard : Option Nat) : Encoding.Statement (.yealmArrive failedShard) := rfl
theorem Encoding.shardRebuild (unrecoverable : Bool) : Encoding.Statement (.shardRebuild unrecoverable) := rfl
theorem Encoding.sweepLine : Encoding.Statement (.sweepLine) := rfl
theorem Encoding.forcedSave (id : Nat) : Encoding.Statement (.forcedSave id) := rfl
theorem Encoding.snapshotComplete (peers : List PeerSnap) : Encoding.Statement (.snapshotComplete peers) := rfl
theorem Encoding.ckptComplete (failed : Bool) : Encoding.Statement (.ckptComplete failed) := rfl
theorem Encoding.persistDrain : Encoding.Statement (.persistDrain) := rfl
theorem Encoding.powerFail : Encoding.Statement (.powerFail) := rfl
theorem Encoding.coldReset (imageA imageB : List Byte) : Encoding.Statement (.coldReset imageA imageB) := rfl
theorem Encoding.trainingRetrain (unit : Nat) : Encoding.Statement (.trainingRetrain unit) := rfl
theorem Encoding.overtempCutoff : Encoding.Statement (.overtempCutoff) := rfl
theorem Encoding.packageLost (ranks : List Nat) (agreedStep : Word) (peers : List PeerSnap) : Encoding.Statement (.packageLost ranks agreedStep peers) := rfl
theorem Encoding.ridgeMismatch : Encoding.Statement (.ridgeMismatch) := rfl
theorem Encoding.scrubPass (bank : Nat) : Encoding.Statement (.scrubPass bank) := rfl
theorem Encoding.channelRetire (channels : List Nat) : Encoding.Statement (.channelRetire channels) := rfl
theorem Encoding.coreReset (die : Nat) : Encoding.Statement (.coreReset die) := rfl
theorem Encoding.arbitrationInterval : Encoding.Statement (.arbitrationInterval) := rfl
theorem Encoding.wearSave : Encoding.Statement (.wearSave) := rfl
theorem Encoding.ilvEdit (on : Bool) : Encoding.Statement (.ilvEdit on) := rfl
theorem Encoding.ilvCommit : Encoding.Statement (.ilvCommit) := rfl
theorem Encoding.coreCgo : Encoding.Statement (.coreCgo) := rfl
theorem Encoding.htimerWrite (core : Nat) (period : Nat) : Encoding.Statement (.htimerWrite core period) := rfl
theorem Encoding.htimerEvent (core : Nat) : Encoding.Statement (.htimerEvent core) := rfl
theorem Encoding.haltreq : Encoding.Statement (.haltreq) := rfl
theorem Encoding.resume : Encoding.Statement (.resume) := rfl
theorem Encoding.rsizeWrite (i : Nat) (v : DWord) : Encoding.Statement (.rsizeWrite i v) := rfl
theorem Encoding.lnkctlReq (link : Nat) (req : BitVec 16) : Encoding.Statement (.lnkctlReq link req) := rfl
theorem Encoding.launch (ring : Nat) : Encoding.Statement (.launch ring) := rfl
theorem Encoding.copyPacket (ring : Nat) : Encoding.Statement (.copyPacket ring) := rfl
theorem Encoding.fencePacket (ring : Nat) : Encoding.Statement (.fencePacket ring) := rfl
theorem Encoding.signal (ring : Nat) : Encoding.Statement (.signal ring) := rfl
theorem Encoding.waitval (ring : Nat) : Encoding.Statement (.waitval ring) := rfl
theorem Encoding.waitvalPoll (ring : Nat) : Encoding.Statement (.waitvalPoll ring) := rfl
theorem Encoding.snapcfg (ring : Nat) : Encoding.Statement (.snapcfg ring) := rfl
theorem Encoding.ckptPacket (ring : Nat) : Encoding.Statement (.ckptPacket ring) := rfl
theorem Encoding.thatchCreate (ring : Nat) : Encoding.Statement (.thatchCreate ring) := rfl
theorem Encoding.thatchLoad (ring : Nat) : Encoding.Statement (.thatchLoad ring) := rfl
theorem Encoding.thatchEvict (ring : Nat) : Encoding.Statement (.thatchEvict ring) := rfl
theorem Encoding.faultreplay (ring : Nat) : Encoding.Statement (.faultreplay ring) := rfl
theorem Encoding.errqueryEvents (ring : Nat) : Encoding.Statement (.errqueryEvents ring) := rfl
theorem Encoding.errqueryTret (ring : Nat) : Encoding.Statement (.errqueryTret ring) := rfl
theorem Encoding.queueRestart (ring : Nat) : Encoding.Statement (.queueRestart ring) := rfl
theorem Encoding.qpcfg (qp ctx : Nat) (rkey : Word) : Encoding.Statement (.qpcfg qp ctx rkey) := rfl
theorem Encoding.qcreate (ring : Nat) (base : DWord) (ctx : Nat) (priv : Bool) : Encoding.Statement (.qcreate ring base ctx priv) := rfl
theorem Encoding.qdestroy (ring : Nat) : Encoding.Statement (.qdestroy ring) := rfl
theorem Encoding.apcfg (ap qp : Nat) (base : DWord) (rkey : Word) (size : Nat) : Encoding.Statement (.apcfg ap qp base rkey size) := rfl
theorem Encoding.evcfg (base : DWord) (size : Nat) (consumed : DWord) : Encoding.Statement (.evcfg base size consumed) := rfl
theorem Encoding.jobcfg (rank npkg pctx : Nat) (links : List LinkPeer) (hops : List (Option Nat)) : Encoding.Statement (.jobcfg rank npkg pctx links hops) := rfl
theorem Encoding.pkglost (pkg : Nat) : Encoding.Statement (.pkglost pkg) := rfl
theorem Encoding.dbgrw (num : Nat) (value : Word) (write : Bool) : Encoding.Statement (.dbgrw num value write) := rfl
theorem Encoding.fwrecov (len : Word) : Encoding.Statement (.fwrecov len) := rfl
theorem Encoding.getVersion (req : List Byte) : Encoding.Statement (.getVersion req) := rfl
theorem Encoding.getCapabilities (req : List Byte) : Encoding.Statement (.getCapabilities req) := rfl
theorem Encoding.negotiateAlgorithms (req : List Byte) : Encoding.Statement (.negotiateAlgorithms req) := rfl
theorem Encoding.getDigests (req : List Byte) : Encoding.Statement (.getDigests req) := rfl
theorem Encoding.getCertificate (req : List Byte) : Encoding.Statement (.getCertificate req) := rfl
theorem Encoding.challenge (req : List Byte) : Encoding.Statement (.challenge req) := rfl
theorem Encoding.getMeasurements (req : List Byte) : Encoding.Statement (.getMeasurements req) := rfl
theorem Encoding.rdmaWrite (qp : Nat) (rkey : Word) (va : DWord) (data : List Byte) : Encoding.Statement (.rdmaWrite qp rkey va data) := rfl
theorem Encoding.rdmaRead (qp : Nat) (rkey : Word) (va : DWord) (len : Nat) : Encoding.Statement (.rdmaRead qp rkey va len) := rfl
theorem Encoding.flitReceive (link : Nat) (flit : List Byte) (req : Option RemoteReq) : Encoding.Statement (.flitReceive link flit req) := rfl
theorem Encoding.flitForward (link : Nat) : Encoding.Statement (.flitForward link) := rfl
theorem Encoding.pause (link vl : Nat) : Encoding.Statement (.pause link vl) := rfl
theorem Encoding.resumeFlit (link vl : Nat) : Encoding.Statement (.resumeFlit link vl) := rfl
theorem Encoding.widthFlit (link : Nat) : Encoding.Statement (.widthFlit link) := rfl
theorem Encoding.replayFlit (link : Nat) (seq : Nat) : Encoding.Statement (.replayFlit link seq) := rfl
theorem Encoding.wavelengthWakeDone (link w : Nat) : Encoding.Statement (.wavelengthWakeDone link w) := rfl
theorem Encoding.berCheck (link w : Nat) (rateExp : Nat) : Encoding.Statement (.berCheck link w rateExp) := rfl
theorem Encoding.wavelengthRetrainDone (link w : Nat) : Encoding.Statement (.wavelengthRetrainDone link w) := rfl
theorem Encoding.ridgePairRestart : Encoding.Statement (.ridgePairRestart) := rfl
theorem Encoding.coreResetEnd (die : Nat) : Encoding.Statement (.coreResetEnd die) := rfl
theorem Encoding.temperatureThreshold (unit : Nat) (tenths : Nat) : Encoding.Statement (.temperatureThreshold unit tenths) := rfl
theorem Encoding.l1LineReplacement (core line : Nat) : Encoding.Statement (.l1LineReplacement core line) := rfl
theorem Encoding.ridgeCacheEviction (line : Nat) : Encoding.Statement (.ridgeCacheEviction line) := rfl
theorem Encoding.qfrz (on : Bool) : Encoding.Statement (.qfrz on) := rfl
theorem Encoding.ckptEnWrite : Encoding.Statement (.ckptEnWrite) := rfl

end Sys2Proof.Laws
end

