-- ==== Sys2Proof/Tests/Slice0.lean ====
section
/-! SUPPORT. Tests: words of the manual's encodings, ill-formed terms, witnesses for the hypotheses of the statements, and the
manual's worked examples. -/

open Sys2Proof Sys2Proof.Machine

namespace Sys2Proof.Tests

set_option Elab.async false

/-! Small states. -/

/-- One privileged thread of a general wave, about to issue at 0x10000 (R16: a NOP stands there). -/
def solo : State := State.reset.withFetchWord 64 0x7FF0001004
/-- 64-bit form, no guard, no wait, SETF flag 3. -/
def ctl : Ctl := .listed .l64 1 0 3
/-- The same with the guard !PT, which is false. -/
def ctlOff : Ctl := .listed .l64 1 0 3 127 true
/-- The first thread. -/
def first (s : State) : Thread := s.threads.getD 0 (newThread 0 0 { core := 0, quad := 0, lane := 0, slot := 0 } probeHeader 0 true 0)
/-- Every thread changed. -/
def each (s : State) (f : Thread → Thread) : State := { s with threads := s.threads.map f }
/-- Values of v registers in every thread. -/
def regs (s : State) (l : List (Nat × Nat)) : State := each s fun t =>
  { t with v := l.foldl (fun v p => v.modify p.1 fun r => { r with val := BitVec.ofNat 32 p.2 }) t.v }
/-- Tags of v registers in every thread. -/
def tagged (s : State) (l : List (Nat × Byte)) : State := each s fun t =>
  { t with v := l.foldl (fun v p => v.modify p.1 fun r => { r with tag := p.2 }) t.v }
/-- An open issue of another kind. -/
def asKind (s : State) (k : IssueKind) : State := { s with issue := s.issue.map fun g => { g with kind := k } }
/-- No issue is open. -/
def idle (s : State) : State := { s with issue := none }
/-- A wave-collective issue of the one thread. -/
def wave : State := asKind solo .wave
/-- A deterministic kernel. -/
def detOf (s : State) : State :=
  { s with wgs := s.wgs.map fun g => { g with hdr := { g.hdr with det := true } }
           launches := s.launches.map fun l => { l with hdr := { l.hdr with det := true } } }
/-- A second thread of the same wave, at lane 1, in the same issue. -/
def two (s : State) : State :=
  let t := first s
  { s with threads := s.threads ++ [{ t with uid := 9, loc := { t.loc with lane := 1 } }]
           issue := s.issue.map fun g => { g with uids := g.uids ++ [9] } }
/-- On another core. -/
def onCore (s : State) (core : Nat) : State := each s fun t => { t with loc := { t.loc with core := core } }
/-- A thread of another core in a landing slot here. -/
def landed (s : State) : State := each s fun t => { t with home := some { core := 5, quad := 0, lane := 0, slot := 0 } }

/-! Witnesses: states and operands that meet the hypotheses of the statements. -/

/-- IntegerArithmetic to SpecialFunctionsAndConversions: a thread of the issue whose guard is true, one whose guard is false; tags
that resolve and tags that do not; the corners of IDIV. -/
theorem test_witness_lanes : solo.threads[0]? = some (first solo) ∧ solo.inGroup (first solo) = true ∧
    (first solo).guard ctl = true ∧ (first solo).guard ctlOff = false := by decide +kernel
theorem test_witness_tags : resolveTags tagINT (okInt false) [tagRAW, tagI16] = .ok tagI16 ∧
    resolveTags tagINT okINT [tagINT, tagF32] = .error cTagMismatch ∧
    resolveTags tagF32 okFloat [tagF16, tagRAW] = .ok tagF16 ∧ resolveTags tagF32 okFloat [tagF16, tagF32] = .error cTagMismatch ∧
    tagReserved 0x0A = true ∧ tagReserved tagINT = false := ⟨rfl, rfl, rfl, rfl, rfl, rfl⟩

/-- ControlTransfers. -/
theorem test_witness_branches : solo.targetOk 0 0x10008 = true ∧ solo.targetOk 0 (BitVec.ofNat 64 Config.vwin) = false ∧
    solo.locks = [] ∧ (∀ g ∈ solo.wgs, g.party = []) ∧ (solo.onUids ctl).contains (first solo).uid = true := by decide +kernel

/-- ThreadsPause: a thread alone at its FUSE, a deterministic one, and two that issue it together. -/
theorem test_witness_fuse_alone : (solo.onUids ctl).head? = some (first solo).uid ∧
    solo.thread? (first solo).uid = some (first solo) ∧ solo.isDet (first solo) = false ∧ solo.fuseMates (first solo) = [] ∧
    solo.onUids ctl = [(first solo).uid] := by decide +kernel
theorem test_witness_fuse_det : let s := detOf solo
    (s.onUids ctl).head? = some (first s).uid ∧ s.thread? (first s).uid = some (first s) ∧ s.isDet (first s) = true := by decide +kernel
theorem test_witness_fuse_two : let s := two solo
    (s.onUids ctl).head? = some (first s).uid ∧ s.thread? (first s).uid = some (first s) ∧ s.fuseMates (first s) = [] ∧
    1 < (s.onUids ctl).length := by decide +kernel

/-- WaitsEnd: WAITF with its flags clear, and one that is raised; the three ends of a wait. -/
theorem test_witness_waitf : solo.issueUids = [(first solo).uid] ∧ solo.thread? (first solo).uid = some (first solo) ∧
    (first solo).guard ctl = true ∧ (solo.flushOwn (first solo)).memQuiet (first solo).uid = true := by decide +kernel
/-- The thread is held in a way. -/
def heldIn (s : State) (h : Hold) : State := each s fun t => { t with hold := h, ilen := 8 }
theorem test_witness_waits_end : let asleep := heldIn solo (.asleep 0)
    asleep.thread? 0 = some (first asleep) ∧ asleep.runs (first asleep) = true ∧ (0 : Nat) ≤ asleep.clock ∧
    (first asleep).hold = .asleep 0 ∧ (first (heldIn solo (.fuse 0))).hold = .fuse 0 ∧
    (first (heldIn solo (.waitf false))).hold = .waitf false ∧
    (heldIn solo (.waitf true)).memQuiet 0 = true ∧ (first (heldIn solo (.waitf true))).hold = .waitf true ∧
    (List.range 12).all (first (heldIn solo (.waitf false))).flagSet = true := by decide +kernel

/-- Bytes placed in memory. -/
def placed (s : State) (a : Nat) (bs : List Byte) : State := { s with mem := memSets s.mem (cellsAt a bs) }
/-- CollectivesIssueOnce. -/
theorem test_witness_arrival : (∃ g, solo.issue = some g ∧ g.kind = .group) ∧ (∀ x ∈ solo.group, x.home = none) ∧
    (∀ x ∈ (landed solo).group, x.home ≠ none) ∧ solo.group ≠ [] := ⟨⟨_, rfl, rfl⟩, by decide +kernel⟩
/-- A wave of two threads held at a collective; with `pc` apart the second stands elsewhere. -/
def gathered (apart : Bool) : State := idle (each (two solo) fun t =>
  { t with hold := .collective, pc := if apart && t.uid == 9 then t.pc + 8 else t.pc })
theorem test_witness_collective_issue : (gathered false).issue = none ∧ (gathered false).liveOf 1 = (gathered false).threads ∧
    (∀ x ∈ (gathered false).liveOf 1, x.status = .live ∧ x.hold = .collective ∧ (gathered false).runs x = true) ∧
    (gathered false).waveQueues 1 = false ∧ (gathered true).runs (first (gathered true)) = true ∧
    (∀ x ∈ (gathered false).threads, x.pc = 0x10000) ∧ (∃ x ∈ ((gathered true).liveOf 1).tail, x.pc ≠ 0x10000) := by decide +kernel
/-- The same wave at an MZERO (OPC 0x104), whose command has room in the matrix queue. -/
def zeroing : State := { placed (gathered false) 0x10000 (leBytes 8 0x7FF0001410) with issue := none }
theorem test_witness_matrix_arrival : zeroing.waveQueues 1 = true ∧ zeroing.matRoom 0 = true ∧ zeroing.lowerQueues 0 0 = false := by decide +kernel
/-- Two threads arrived at convergence register 1, whose members they are, 20 ac ago; with `apart` the second stands elsewhere. -/
def convergedAt (apart : Bool) : State :=
  let s := idle ((each (two solo) fun t => { t with hold := .converge 1, pc := if apart && t.uid == 9 then t.pc + 8 else t.pc }).modCore 0 fun k =>
    { k with k := k.k.set 1 { members := [0, 9], arrived := [9, 0] } })
  { s with clock := 20 * Config.ac }
def converged : State := convergedAt false
theorem test_witness_convergence : (converged.core 0).k[1]? = some { members := [0, 9], arrived := [9, 0] } ∧
    ({ members := [0, 9], arrived := [9, 0] } : KReg).complete = true ∧ converged.matRoom 0 = true ∧ converged.issue = none ∧
    sortBy (fun t => t.loc.quad * 64 + t.loc.lane) (([9, 0] : List Nat).filterMap converged.thread?) = converged.threads ∧
    (0 : Nat) + 20 * Config.ac ≤ converged.clock ∧ (∀ u ∈ converged.threads, converged.runs u = true) ∧ converged.kQueues 0 1 = none ∧
    (∀ u ∈ converged.threads, u.pc = 0x10000) ∧
    sortBy (fun t => t.loc.quad * 64 + t.loc.lane) (([9, 0] : List Nat).filterMap (convergedAt true).thread?) = (convergedAt true).threads ∧
    (∃ u ∈ (convergedAt true).threads.tail, u.pc ≠ 0x10000) ∧ (∀ u ∈ (convergedAt true).threads, (convergedAt true).runs u = true) := by decide +kernel

/-- WaveReductionsAndShuffles: tags that resolve, and tags that do not. -/
theorem test_witness_wave : wave.waveIssue ∧ participants ctl wave.group = [first wave] := ⟨⟨_, rfl, rfl⟩, by decide +kernel⟩
/-- A reduction. -/
def vmax : VRed := { d := 8, a := 4, op := .max, u := true, w64 := false, exact := false, excl := true }
theorem test_witness_reduction : vredTag vmax false [tagRAW] = .ok tagF32 ∧ vredTag vmax true [tagF32, tagINT] = .error cTagMismatch ∧
    scalarLane ctl wave.group = some (first wave) ∧ vredElem { vmax with op := .add } tagINT 8 [(0, 255), (1, 2)] = (1, 0) := ⟨rfl, rfl, by decide +kernel⟩

/-- DirectionalRegisters. -/
theorem test_witness_directional : wave.group.head? = some (first wave) ∧ wave.waveOf (first wave) = wave.waves[0]? ∧
    wave.waves.length = 1 := by decide +kernel
theorem test_witness_renorm : (List.replicate 256 (0 : Int)).length = 256 ∧ ((3 : Int) :: List.replicate 255 0).length = 256 ∧
    (∃ y ∈ (3 : Int) :: List.replicate 255 0, y ≠ 0) := by decide +kernel

/-! Memory. -/

/-- A tensor parameter record, written from the table of R71. -/
def record (base sbase fmt block : Nat) (dims strides : List Nat) : List Byte :=
  bytesOf 8 base ++ bytesOf 8 sbase ++ (dims ++ List.replicate (5 - dims.length) 0).flatMap (bytesOf 4) ++
    (strides ++ List.replicate (4 - strides.length) 0).flatMap (bytesOf 4) ++ bytesOf 4 0 ++
    [BitVec.ofNat 8 fmt, BitVec.ofNat 8 dims.length, BitVec.ofNat 8 block, 0] ++ bytesOf 4 0
/-- v4:v5 is 0x10100, v6:v7 a record at 0x10200 of four INT elements at 0x10400; v8:v9 and v12:v13 are 0. -/
def mem : State := regs (placed solo 0x10200 (record 0x10400 0 0x01 0 [4] []))
  [(4, 0x10100), (5, 0), (6, 0x10200), (7, 0), (10, 77), (14, 0x10101), (16, 0), (17, 0x80000000)]
/-- A load of one word. -/
def ld (a : Reg) : Ld :=
  { d := 20, a := a, sz := .w32, fresh := false, acq := false, nt := false, scope := .thread, ftag := 0, off := 4 }
/-- A store of one word. -/
def st (a : Reg) (wc : Bool) : St := { a := a, b := 10, sz := .w32, rel := false, nt := false, wc := wc, scope := .thread, off := 4 }
/-- Two elements of the record, to or from v20. -/
def ldv : Ldv := { r := 20, a := 6, b := 8, c := some 12, nm1 := 1, x1 := false, fresh := false }
/-- The result is this value. -/
def okIs {α : Type} [DecidableEq α] (e : Except Cause α) (a : α) : Bool := match e with | .ok b => b == a | .error _ => false
theorem eq_of_okIs {α : Type} [DecidableEq α] {e : Except Cause α} {a : α} (h : okIs e a = true) : e = .ok a := by
  cases e with
  | error _ => cases h
  | ok b => exact congrArg _ (of_decide_eq_true h)
/-- The resolved ranges of an access by the first thread, if it resolves and meets no foreign vault. -/
def ranges (s : State) (k : AccKind) (rs : List (Nat × Nat)) : Option (List Part) :=
  match s.mapRanges (some (first s).loc.core) (first s).ctx (first s).priv k rs with
  | .ok ps => if s.foreignVault (first s) ps then none else some ps
  | .error _ => none

theorem test_witness_solo : mem.solo ctl (first mem) := ⟨by decide +kernel, by decide +kernel, by decide +kernel⟩
/-- AddressTrapsAndFences: an address that is not canonical, a misaligned one, and a line that PFLUSH reaches. -/
theorem test_witness_address_traps : let t := first mem
    canonical (t.pair 16 + (ld 16).off.signExtend 64) = false ∧ canonical (t.pair 14 + (ld 14).off.signExtend 64) = true ∧
    (t.pair 14 + (ld 14).off.signExtend 64).toNat % szBytes .w32 ≠ 0 ∧
    (ranges mem .read [(0x10100, 1)]).isSome = true := by decide +kernel
/-- The record of the first thread's v6:v7. -/
def rec6 (s : State) : Option TRec := match s.recLook (first s) ((first s).pair 6) with | .ok r => some r | _ => none
/-- LoadsAndStoresIssue. -/
theorem test_witness_load : let va := (first mem).pair 4 + (ld 4).off.signExtend 64
    canonical va = true ∧ va.toNat % szBytes .w32 = 0 ∧ (ranges mem .read [(va.toNat, 4)]).isSome = true := by decide +kernel
theorem test_witness_store : let va := (first mem).pair 4 + (st 4 true).off.signExtend 64
    canonical va = true ∧ va.toNat % szBytes .w32 = 0 ∧
    (match mem.mapBytes (first mem) (stBytes (st 4 true) (first mem)) with
     | .ok b => !b.1.isEmpty && !mem.foreignVault (first mem) b.2 && b.1.all (fun p => !mem.deferred? (first mem) p.1)
     | .error _ => false) = true := by
  decide +kernel
/-- A deterministic kernel whose superstep began with memory as it stands. -/
def detMem : State := let s := detOf mem
  { s with launches := s.launches.map fun l => { l with start := mem.mem } }
/-- A store on shared lines of a deterministic kernel, and one of a record's elements. -/
theorem test_witness_deferred_store : let s := detMem
    s.issueUids = [(first s).uid] ∧ s.thread? (first s).uid = some (first s) ∧ (s.detLaunch (first s)).isSome = true ∧
    (match s.mapBytes (first s) (stBytes (st 4 false) (first s)) with
     | .ok b => !b.1.isEmpty && !s.foreignVault (first s) b.2 && b.1.all (fun p => s.deferred? (first s) p.1)
     | .error _ => false) = true ∧
    (rec6 s).any (fun r => ldvOk ldv (first s) r true && stvTagsOk ldv (first s) r &&
      match s.mapBytes (first s) (stvBytes ldv (first s) r) with
      | .ok b => !b.1.isEmpty && !s.foreignVault (first s) b.2 && b.1.all (fun p => s.deferred? (first s) p.1)
      | .error _ => false) = true := by decide +kernel
theorem test_witness_ldv : (rec6 mem).any (fun r => ldvOk ldv (first mem) r false && ldvOk ldv (first mem) r true &&
      stvTagsOk ldv (first mem) r && (match mem.mapBytes (first mem) (stvBytes ldv (first mem) r) with | .ok b => !b.1.isEmpty | .error _ => false) &&
      (ranges mem .read (((ldvCoords ldv (first mem)).map r.elemPlace).flatMap fun p => p.1.map fun k => (k, 1))).isSome) = true := by
  decide +kernel

/-- An access of the first thread in flight, with nothing before it. -/
def flying (s : State) (op : AccOp) (reads writes : List (Nat × Nat)) : State :=
  { idle s with inflight := [{ Access.blank [(first s).uid] op 3 0 8 with id := 50, reads := reads, writes := writes }] }
/-- A load, and a store, that may perform. -/
def loading : State := flying mem (.load 0x10200 4 .w32 20 0 false false) [(0x10200, 4)] []
def storing : State := flying mem (.store (bytesAt 0x10300 4 0xA1B2C3D4)) [] [(0x10300, 4)]
/-- A store to a vault line that holds uncorrectable data. -/
def badStore : State := { flying mem (.store (bytesAt Config.vwin 4 7)) [] [(Config.vwin, 4)] with poison := [Config.vwin / 64] }
/-- LoadsAndStoresPerform. -/
theorem test_witness_performs : storing.vaultBad (bytesAt 0x10300 4 0xA1B2C3D4) = false ∧ (badStore.ready? 50).isSome = true ∧
    badStore.vaultBad (bytesAt Config.vwin 4 7) = true ∧ (loading.ready? 50).isSome = true ∧ (storing.ready? 50).isSome = true ∧
    loading.thread? 0 = some (first loading) ∧ (first loading).status ≠ .exited ∧ loading.poisoned 0x10200 4 = false := by
  decide +kernel
/-- AtomicsApply. -/
def lane5 : ALane := { uid := 0, lane := 0, b := 5, c := 0 }
def atomicAt : State := flying mem (.atomic 0x10400 .add false false true [lane5] (some 20) 1) [(0x10400, 4)] [(0x10400, 4)]
theorem test_witness_atomic : (atomicAt.ready? 50).isSome = true ∧ atomicAt.poisoned 0x10400 4 = false ∧
    atomicAt.thread? lane5.uid = some (first atomicAt) := by decide +kernel
/-- AtomicsIssue: an address of device memory; and of a host aperture, whose lines the TLB entry names. -/
def atom (a : Reg) : Atom := { d := 20, a := a, b := 10, op := .add, w64 := false, u := false, ord := .relaxed, scope := .device, off := 0 }
/-- The page at 0x10000 lies in host memory, in a configured aperture. -/
def hostPage (s : State) : State :=
  let cmd := { s.cmd with apertures := [{ num := 0, qp := 0, base := 0, rkey := 0, size := 0x100000 }] }
  ({ s with cmd := cmd } : State).modCore 0 fun k => { k with tlb := k.tlb.map fun e => { e with dpa := 0x400000000000 } }
theorem test_witness_atomics_issue : mem.deferred? (first mem) 0x10100 = false ∧ canonical ((first mem).pair 4) = true ∧
    (ranges mem .atomic [(0x10100, 4), (0x10100, 4)]).any (fun ps => mem.spaceOf (keyIn ps 0x10100) != .host) = true ∧
    (ranges (hostPage mem) .atomic [(0x10100, 4), (0x10100, 4)]).any (fun ps => mem.spaceOf (keyIn ps 0x10100) == .host) = true ∧
    (let s := detOf mem
     (s.detLaunch (first s)).isSome = true ∧ (ranges s .atomic [(0x10100, 4), (0x10100, 4)]).any (fun ps =>
       s.spaceOf (keyIn ps 0x10100) != .host && s.deferred? (first s) (keyIn ps 0x10100)) = true) := by
  decide +kernel

/-! Locks, tickets, work. -/

/-- A lock at 0x10100: free, held by another thread, and held by the thread itself. -/
def lock : LockArgs := { p := 3, a := 4, scope := .device, off := 0 }
def lockHeld : State := placed mem 0x10100 (bytesOf 8 0x4321)
def lockMine : State := placed mem 0x10100 (bytesOf 8 (mem.ownerCode (first mem)))
theorem test_witness_locks : mem.isDet (first mem) = false ∧ canonical ((first mem).pair 4) = true ∧
    mem.thatchAt 0x10100 = none ∧ mem.editHolds [0x10100] = false ∧ (mem.spaceOf 0x10100) ≠ .host ∧ mem.poisoned 0x10100 8 = false ∧
    mem.lockOwner 0x10100 = 0 ∧ mem.lockQueue 0x10100 = [] ∧ mem.lockQueued < 65536 ∧
    (match mem.xlate (some 0) 0 true .atomic 0x10100 with | .dpa a _ _ _ => a == 0x10100 | _ => false) = true ∧
    lockHeld.lockOwner 0x10100 ≠ 0 ∧ lockHeld.lockOwner 0x10100 ≠ lockHeld.ownerCode (first lockHeld) ∧
    lockMine.ownsLock (first lockMine) 0x10100 = true ∧ lockHeld.ownsLock (first lockHeld) 0x10100 = false ∧ lockMine.unlocking 0 0x10100 = false := by decide +kernel
/-- A wave with an identifier, its ticket 1 advanced. -/
def ticketed : State := { wave with waves := wave.waves.map fun w => { w with cur := some { id := 7, rank := 2, batch := none }, adv := [1] } }
theorem test_witness_tickets : wave.waveOf (first wave) = wave.waves[0]? ∧ (wave.waves.map (·.cur)) = [none] ∧
    ticketed.waves.map (·.cur) = [some { id := 7, rank := 2, batch := none }] ∧
    (ticketed.waves.map fun w => (w.adv.contains 1, w.adv.contains 0)) = [(true, false)] := by decide +kernel
/-- WorkAndDispense: a successor's queue with room, a waiting FETCHW, a launch that has ended. -/
def succQ : Launch := { probeLaunch 4 with inq := some { producers := [1], ended := [], next := 0, written := [] } }
def emitting : State := { mem with launches := mem.launches.map (fun l => { l with succ := [{ lnum := 4, qcap := 8, qbase := 0x10600 }], pred := 2 }) ++ [succQ] }
theorem test_witness_emit : isControl (first mem).loc.core = false ∧ isControl (first (onCore mem 680)).loc.core = true ∧
    mem.wgOf (first mem) = mem.wgs[0]? ∧ mem.wgs.length = 1 ∧ mem.lnumOf (first mem) = 1 ∧
    (mem.launch? 1).map (·.pred) = some 0 ∧ (emitting.launch? 1).map (fun l => (l.pred, (l.succ.map (·.lnum)))) = some (2, [4]) ∧
    (emitting.launch? 4).any (fun m => m.slotFree 8) = true ∧
    (match emitting.mapBytes (first emitting) ((List.range 32).map fun i => (0x10600 + i, 0)) with | .ok _ => true | .error _ => false) = true := by
  decide +kernel
/-- A FETCHW that waits: v30:v31 and p5 are its destinations. -/
def fetching : State := { idle solo with waves := solo.waves.map fun w =>
  { w with fetches := [{ uids := [0], d := 30, p := 5, setf := 3, at_ := 0, held := false }] } }
theorem test_witness_dispense : (fetching.oldestFetch 1).map (·.2.d) = some 30 ∧ (fetching.launch? 1).any (fun l => (l.dispense).isSome) = true ∧
    (fetching.waves.map (·.reserved)) = [none] ∧ fetching.thread? 0 = some (first fetching) := by decide +kernel
theorem test_witness_producer_end : ({ solo with wgs := solo.wgs.map fun g => { g with state := .ended } } : State).producerOver 1 = true := by
  decide +kernel
/-- Supersteps. -/
theorem test_witness_supersteps : mem.isDet (first mem) = false ∧ (detOf mem).isDet (first (detOf mem)) = true ∧
    0 < ((first (regs mem [(30, 2)])).val 30).toNat ∧ (ranges (detOf mem) .read [(0x10100, 512)]).isSome = true ∧
    (first mem).home = none ∧ (first (landed mem)).home ≠ none ∧ (mem.launch? 1).map (·.step) = some false := by decide +kernel
/-- Step attribute, EN set, and a barrier object at the start of core 0's vault in v24:v25. -/
def stepping : State := { regs mem [(24, Config.vwin % 2 ^ 32), (25, Config.vwin / 2 ^ 32)] with
  launches := mem.launches.map fun l => { l with step := true }, ckpt := { mem.ckpt with en := true } }
theorem test_witness_ckpt : (stepping.launch? 1).map (·.step) = some true ∧
    okIs (stepping.barOperand (first stepping) ((first stepping).pair 24)) Config.vwin = true ∧
    stepping.ckpt.reqs = [] ∧ stepping.ckpt.en = true ∧ canonical ((first stepping).pair 16) = false ∧
    okIs (stepping.barOperand (first stepping) ((first stepping).pair 4)) 0x10100 = false := by decide +kernel

/-! Barriers, engines, yealms. -/

/-- `mem` with a barrier object's address at the start of core 0's vault in v24:v25, a second record of the same shape in v26:v27,
and the number 64 in v28. -/
def bar : State := regs (placed mem 0x10280 (record 0x10500 0 0x01 0 [4] []))
  [(24, Config.vwin % 2 ^ 32), (25, Config.vwin / 2 ^ 32), (26, 0x10280), (27, 0), (28, 64), (29, 1), (30, 0x40000001)]
/-- The same for a wave's collective. -/
def barWave : State := asKind bar .wave
theorem test_witness_barrier_operands : bar.solo ctl (first bar) ∧
    okIs (bar.barInstr (first bar) 24 false) Config.vwin = true ∧ okIs (bar.barInstr (first bar) 24 true) Config.vwin = true ∧
    okIs (bar.barInstr (first bar) 4 false) 0x10100 = false ∧ ((first bar).val 10).toNat < 2 ^ 16 ∧
    participants ctl barWave.group = [first barWave] ∧ okIs (barWave.barInstr (first barWave) 24 true) Config.vwin = true :=
  ⟨⟨by decide +kernel, by decide +kernel, by decide +kernel⟩, by decide +kernel⟩
/-- BarrierPort: an object that completes, at both counts exactly and beyond one; one that waits; an operation in flight. -/
def obj (parties arrived expect count : Nat) : BarObj :=
  { expect := expect, count := count, baseexp := 3, parties := parties, arrived := arrived, status := 0, last := 0, inflight := 0, flips := 5 }
theorem test_witness_phases : ((obj 2 2 8 8).parties ≠ 0 ∧ (obj 2 2 8 8).parties ≤ (obj 2 2 8 8).arrived ∧ (obj 2 2 8 8).expect ≤ (obj 2 2 8 8).count) ∧
    (obj 2 2 8 9).expect < (obj 2 2 8 9).count ∧ (obj 2 1 8 8).arrived < (obj 2 1 8 8).parties ∧ (obj 0 0 0 4).parties = 0 := by
  decide +kernel
def porting (op : BarOp) : State := flying bar (.barrier Config.vwin op [.thread 0]) [(Config.vwin, 32)] [(Config.vwin, 32)]
theorem test_witness_port : ((porting (.expect 64)).ready? 50).isSome = true ∧ ((porting (.init false 2 64)).ready? 50).isSome = true ∧
    ((porting (.test 3 false true)).ready? 50).isSome = true ∧ ((porting .drop).ready? 50).isSome = true ∧
    (let s := porting (.arrive 64)
     s.unitLives (.thread 0) = true ∧ (s.ready? 50).isSome = true ∧
     (s.arriveAt (s.lnumOf (first s)) (s.wgIdxOf (first s)) Config.vwin (.thread 0) 64).isSome = true) ∧
    (let s := { porting (.test 3 true true) with mem := memSets bar.mem (cellsAt (Config.vwin + 18) [2]) }
     (s.barGet Config.vwin).phase ≠ true ∧ (s.barGet Config.vwin).last / 2 % 2 = 1 ∧ (first s).status = .live) ∧ (porting (.expect 64)).poisoned Config.vwin 32 = false ∧
    (porting (.expect 64)).thread? 0 = some (first (porting (.expect 64))) := by decide +kernel
/-- EngineInstructions. -/
theorem test_witness_engine_room : bar.engineRoom (first bar) 24 0 Config.vwin ∧ bar.engineRoom (first bar) 24 4 Config.vwin := by
  have h (e : Nat) (he : bar.engQueued (first bar).loc.core e < engCapacity e) : bar.engineRoom (first bar) 24 e Config.vwin :=
    ⟨eq_of_okIs (by decide +kernel), he, by decide +kernel⟩
  exact ⟨h 0 (by decide +kernel), h 4 (by decide +kernel)⟩
def gather : Gather := { bar := 24, a := 4, b := 6, idx := some 26, nrows := 2, idx64 := false, rowb4 := 4 }
def rxfer (n : Reg) : RXfer := { bar := 24, a := 4, b := 6, n := some n, k := none }
def coll : Coll := { bar := 24, d := 6, s := 26, g := none, op := .add, root := 0 }
/-- The record of v26:v27. -/
def rec26 (s : State) : Option TRec := match s.recLook (first s) ((first s).pair 26) with | .ok r => some r | _ => none
theorem test_witness_engines : bar.engAddr ((first bar).pair 4) = true ∧ bar.engAddr ((first bar).pair 6) = true ∧
    0 < ((first bar).optVal (some 28)).toNat ∧ ((first bar).optVal none).toNat = 0 ∧ 2 ^ 30 < ((first bar).optVal (some 30)).toNat ∧
    (bar.gatherOp gather (first bar) false).isOk = true ∧ (bar.gatherOp gather (first bar) true).isOk = true ∧ gather.nrows ≠ 0 ∧
    (bar.rxferOp (first bar) (rxfer 28) false).isOk = true ∧ (bar.collGroup (first bar) coll).isOk = true ∧
    (rec6 bar).any (fun d => (rec26 bar).any fun r => tcopyOk d r && decide (0 < d.destBytes) && collOk 0 .add d r && collOk 1 .add d r) = true := by
  decide +kernel
/-- A thatch of two yealms, the first resident in slot 0 and pinned once. -/
def thatch : Thatch :=
  { desc := 0x10100, prio := 0, nyealm := 2, vbase := 0x40000000, ysize := 65536, k := 1, m := 1, scmStacks := [0, 1], soff := 0
    lastAcq := 0, pins := [(0, 1)], loaded := false, loads := [] }
def yealms : State := { regs barWave [(31, 1)] with
  thatches := { held := [thatch], slots := [.resident 0x10100 0, .empty], queue := [], swaps := [], failed := [] } }
theorem test_witness_yealms : okIs (yealmArgs (first yealms) 4 8) (0x10100, 0) = true ∧ okIs (yealmArgs (first yealms) 4 31) (0x10100, 1) = true ∧
    yealms.thatch? 0x10100 = some thatch ∧ thatch.pinsOf 0 = 1 ∧ thatch.pinsOf 1 = 0 ∧ (yealms.slotOf 0x10100 0).isSome = true ∧
    yealms.slotOf 0x10100 1 = none ∧ (yealms.requestYealm 0x10100 1).isSome = true ∧ yealms.waveIssue ∧
    (participants ctl yealms.group).head? = some (first yealms) ∧ ({ thatch with pins := [(0, 65535)] } : Thatch).pinsOf 0 = 65535 ∧
    barWave.thatch? 0x10100 = none :=
  ⟨by decide +kernel, by decide +kernel, by decide +kernel, by decide +kernel, by decide +kernel, by decide +kernel, by decide +kernel,
   by decide +kernel, ⟨_, rfl, rfl⟩, by decide +kernel⟩
/-- WaveMemory: DLD and DST at 0x10100. -/
theorem test_witness_wave_memory : barWave.waveOf (first barWave) = barWave.waves[0]? ∧
    ((List.range 516).all fun i => !barWave.deferred? (first barWave) (0x10100 + i)) = true ∧ canonical ((first barWave).pair 16) = false ∧
    canonical ((first barWave).pair 14) = true ∧ ((first barWave).pair 14).toNat % 8 ≠ 0 ∧
    (participants ctl barWave.group).head? = some (first barWave) ∧
    canonical ((first barWave).pair 4) = true ∧ ((first barWave).pair 4).toNat % 8 = 0 ∧ (ranges barWave .read [(0x10100, 516)]).isSome = true ∧
    (ranges barWave .write [(0x10100, 516)]).isSome = true := by decide +kernel

/-! The matrix engine. -/

/-- The workgroup does not hold the engine. -/
def engineless (s : State) : State := s.modCore 0 fun k => { k with owner := none }
def mma : Mma := { d := 2, a := 6, b := 20, k := 1, mbf := 2, c := some 8 }
/-- A BFP4 record of 64 rows at the start of the vault, its exponents after it, and v20's fragment tagged BFP4. -/
def passing : State := tagged (regs (placed (asKind mem (.converge 1)) (Config.vwin + 64) (record (Config.vwin + 128) (Config.vwin + 8192) 0x24 5 [32, 64] [32]))
  [(6, (Config.vwin + 64) % 2 ^ 32), (7, Config.vwin / 2 ^ 32)]) [(20, 0x24), (21, 0x24), (22, 0x24), (23, 0x24)]
def mmaArgs : MmaArgs := { d := 2, a := 6, b := 20, k := 1, mb := 4, c := some 8, abm := none, e := none }
theorem test_witness_passes : mem.holdsEngine (first mem) = true ∧ (engineless mem).holdsEngine (first mem) = false ∧ (first mem).home = none ∧
    ((mem.core 0).k.getD 1 { members := [], arrived := [] }).members = [0] ∧
    ((mem.core 0).k.getD 1 { members := [], arrived := [] }).complete = false ∧
    (participants ctl passing.group).head? = some (first passing) ∧
    (match ((passing.kDone 0 1).issueDone).recLook (first passing) ((first passing).pair 6) with
     | .ok r => mmaCause mmaArgs 0 (first passing) passing.group passing.group r == none
     | _ => false) = true ∧ passing.poison = [] := by decide +kernel
/-- MatrixCollectives. -/
def matWave : State := asKind (placed (regs mem [(29, 60)]) 0x10200 (record 0x10400 0 0x10 0 [64, 64] [64])) .wave
def mput (s : Scal) : MPut := { m := 2, a := 20, s := s, cnt := .n4, tr := false }
theorem test_witness_matrix : (participants ctl matWave.group).head? = some (first matWave) ∧ matWave.holdsEngine (first matWave) = true ∧
    matWave.matRoom 0 = true ∧ rowOrigin (first matWave) (.reg (some 29)) + cntN .n4 = 64 ∧ 64 < rowOrigin (first matWave) (.imm 61) + cntN .n4 ∧
    (rec6 matWave).any (fun r => drainOk r ((first matWave).optVal (some 8)).toNat) = true ∧
    (∀ i < 4, ((first matWave).runReg 20 i).tag = tagRAW) := by decide +kernel
/-- Four INT elements. -/
def tinyRec (a : DWord) : TRec := { base := a, sbase := 0, fmt := 1, ndim := 1, block := 0, dims := [4, 0, 0, 0, 0], strides := [0, 0, 0, 0], clamp := 0, ditherRow := 0, ditherCol := 0 }
/-- MatrixEngine: commands at the head of the queue, and passes under way. -/
def tile : Pass := { ma := 4, mb := 4, qa := List.replicate 64 (List.replicate 32 1), ea := List.replicate 64 127
                     qb := List.replicate 64 (List.replicate 32 2), eb := List.replicate 64 127, time := 16 }
def mcmd (k : MKind) : MCmd := { id := 5, acc := 3, lnum := 1, wg := 0, uids := [0], setf := 3, pc := 0x10000, ilen := 8, kind := k }
def later : State := { idle mem with clock := 1000 * Config.ac }
def queued (k : MKind) : State := later.modCore 0 fun q => { q with mqueue := [mcmd k] }
def running (k : MKind) (prod : Option (List (List Int))) : State := later.modCore 0 fun q => { q with mexec := some { cmd := mcmd k, inj := none, prod := prod, ends := 0 } }
theorem test_witness_matrix_engine : ((queued .zero).core 0).mqueue = [mcmd .zero] ∧ (queued .zero).matStarts 0 (mcmd .zero) = true ∧
    (queued (.put [] 3)).matStarts 0 (mcmd (.put [] 3)) = true ∧ (queued (.chk 2)).matStarts 0 (mcmd (.chk 2)) = true ∧
    (queued (.drain 20 true .rne (tinyRec 0x10400) 0 0 0 true)).matStarts 0 (mcmd (.drain 20 true .rne (tinyRec 0x10400) 0 0 0 true)) = true ∧
    (queued (.pass tile)).matStarts 0 (mcmd (.pass tile)) = true ∧ ((([(64, 7)] : List (Nat × Word)).map (·.1)).Nodup) ∧
    ((queued (.pass tile)).core 0).flips = [] ∧ ((queued (.pass tile)).core 0).inject = [] ∧ tile.qa.length = 64 ∧ tile.qb.length = 64 ∧
    (∀ r ∈ tile.qa, r.length = 32) ∧ (∀ r ∈ tile.qb, r.length = 32) ∧ ((running (.pass tile) none).core 0).readsBad (mcmd (.pass tile)) = false ∧
    ((running (.pass tile) none).core 0).mland = [] ∧ (0 : Nat) + 8 * Config.ac ≤ (running (.pass tile) none).clock ∧
    ((running (.pass tile) none).core 0).mexec = some { cmd := mcmd (.pass tile), inj := none, prod := none, ends := 0 } ∧
    ((running .zero (some [])).core 0).mexec = some { cmd := mcmd .zero, inj := none, prod := some [], ends := 0 } := by decide +kernel

/-! System registers, power, migration, traps, halts. -/

/-- SystemRegistersAndIdentities: a plain register, STICKY, a register that SYSWR may not write, one that user code may not read, an
unassigned number; a counter kept, and one that is not. -/
def sysArgs (num : BitVec 16) (w64 : Bool) : SysArgs := { r := 4, num := num, w64 := w64 }
theorem test_witness_sysregs : (sysInfo 0x350).any (fun i => i.w64 && !i.fixed && !i.uRead) = true ∧ (sysInfo 0x010).any (fun i => !i.w64) = true ∧
    sysInfo 0x0FF = none ∧ (sysInfo 0x5E0).isSome = true ∧ (sysCheck (first solo) 0x350 false true) = some cSysreg ∧
    (first solo).priv = true ∧ (0x40A : Nat) ∈ latchNums ∧ perCore 0x40A = false ∧ wearKept 3 0 = true ∧ wearKept 3 2 = false ∧
    solo.onUids ctl ≠ [] := by decide +kernel
/-- TranslationAndPower: a heap of one 64 KiB block, and one that is not a multiple of 64 KiB. -/
def heap (limit : Nat) : State := regs solo [(4, 3), (6, 0x20000000), (7, 0), (8, limit), (9, 0), (12, 0), (13, 0)]
def heapArgs : HeapSet := { x := 4, a := 6, b := 8, c := some 12 }
theorem test_witness_heap : (heap 0x20010000).heapOk 3 0x20000000 0x20010000 0 = true ∧ (heap 0x20010001).heapOk 3 0x20000000 0x20010001 0 = false ∧
    ((first (heap 0x20010000)).val 4, (first (heap 0x20010000)).pair 6, (first (heap 0x20010000)).pair 8) = (3, 0x20000000, 0x20010000) ∧
    isControl (first (onCore solo 680)).loc.core = true := by decide +kernel
def heapDone : State := flying solo (.heapset 3 0x20000000 0x20010000 0) [] []
theorem test_witness_heap_performs : (heapDone.ready? 50).isSome = true := by decide +kernel
/-- Migration: the line at 0x10100 has a die; a raised flag; arrivals. -/
def flagged (s : State) : State := each s fun t => { t with flags := t.flags.set 3 1 }
def migrating (die : Option Nat) : State := each (if die.isNone then landed mem else mem) fun t => { t with hold := .migrating die 0 }
theorem test_witness_migration : (match mem.migrHome (first mem) 0x10100 with | .ok _ => true | _ => false) = true ∧
    (List.range 12).all (first mem).flagSet = true ∧ (List.range 12).all (first (flagged mem)).flagSet = false ∧
    (first (landed mem)).home ≠ none ∧ mem.locks = [] ∧ ((migrating (some 3)).landingCore (first (migrating (some 3))) 3).isSome = true ∧
    (migrating (some 3)).thread? 0 = some (first (migrating (some 3))) ∧ (first (migrating none)).home.isSome = true := by decide +kernel

/-- A second thread, stopped by a posted trap, whose handle v4 of the first holds. -/
def trapRec (cause : Byte) : TrapRec := { cause := cause, code := 0, ilen := 12, pc := 0x10010, workid := 0, launch := 1, sticky := 0 }
def trapped (cause : Byte) : State :=
  let s := two solo
  let h := (s.handleOf { (first s).loc with lane := 1 }).toNat
  let s1 := regs s [(4, h), (6, 0x10000), (7, 0), (8, 0), (9, 0x80000000)]
  { s1 with threads := s1.threads.map (fun t => if t.uid == 9 then { t with status := .stopped (trapRec cause) true } else t), issue := solo.issue }
theorem test_witness_tret : (trapped 0x10).solo ctl (first (trapped 0x10)) ∧ (trapped 0x10).stoppedBy ((first (trapped 0x10)).val 8) = none ∧
    ((trapped 0x10).stoppedBy ((first (trapped 0x10)).val 4)).map (fun p => (p.1.uid, p.2.cause)) = some (9, 0x10) ∧
    ((trapped 0x40).stoppedBy ((first (trapped 0x40)).val 4)).map (fun p => p.2.cause) = some 0x40 ∧
    ((trapped 0x03).stoppedBy ((first (trapped 0x03)).val 4)).map (fun p => p.2.cause) = some 0x03 ∧
    canonical ((first (trapped 0x10)).pair 6) = true ∧ canonical ((first (trapped 0x10)).pair 8) = false :=
  ⟨⟨by decide +kernel, by decide +kernel, by decide +kernel⟩, by decide +kernel⟩
/-- The same before its record is posted. -/
def unposted : State := each (trapped 0x10) fun t => if t.uid == 9 then { t with status := .stopped (trapRec 0x10) false } else t
theorem test_witness_tret_unposted : (unposted.stoppedBy ((first unposted).val 4)).map (fun p => (p.1.uid, p.2.cause)) = some (9, 0x10) := by
  decide +kernel
/-- Halts. -/
def debugged (on : Bool) : State := { solo with launches := solo.launches.map fun l => { l with halten := on, brken := on } }
def dbg (s : State) : State := { s with cmd := { s.cmd with dbgLaunch := 1 } }
def ticking (s : State) : State := (heldIn s .halt0).modCore 0 fun k => { k with htimer := 3, htimerSince := 0 }
theorem test_witness_halts : ((debugged true).firstOn ctl).map (fun p => (p.1.uid, p.2.brken, p.2.halten)) = some (0, true, true) ∧
    ((debugged false).firstOn ctl).map (fun p => (p.1.uid, p.2.brken, p.2.halten)) = some (0, false, false) ∧
    (solo.wgOf (first solo)).isSome = true ∧ (first (onCore solo 688)).loc.core = 688 ∧
    ((dbg solo).wg? (dbg solo).cmd.dbgLaunch.toNat 0).map (·.state) = some .placed ∧
    (let s : State := { ticking solo with clock := 3 * Config.us }
     (s.core 0).htimer ≠ 0 ∧ (s.core 0).htimerSince + (s.core 0).htimer * Config.us ≤ s.clock) := by decide +kernel
/-- RecordsArePosted. -/
def stopping : State := each (idle solo) fun t => { t with status := .stopped (trapRec 0x10) false }
theorem test_witness_trap_post : stopping.thread? 0 = some (first stopping) ∧ (first stopping).hold = .free ∧
    (stopping.wgOf (first stopping)).map (·.state) = some .placed ∧ stopping.trapRoom = true ∧
    (trapRec 0x10).due ≤ stopping.clock ∧ (∀ x ∈ stopping.threads, x.uid = 0 → x = first stopping) := by decide +kernel
/-- A posted record of launch 1, whose TPOL is 0 or 1. -/
def disposing (tpol : Nat) : State :=
  let s := placed (idle (trapped 0x10)) Config.trapqBase ((trapRec 0x10).bytes ((trapped 0x10).handleOf { core := 0, quad := 0, lane := 1, slot := 0 }))
  { s with launches := s.launches.map (fun l => { l with tpol := tpol }), cmd := { s.cmd with trapWr := 1 } }
theorem test_witness_dispose : ((disposing 0).cmd.ridge, (disposing 0).cmd.trapWr, (disposing 0).cmd.trapRd, (disposing 0).mmu.ilvEdit) = (.running, 1, 0, false) ∧
    (let bs := (List.range 32).map fun i => memGet (disposing 0).mem (Config.trapqBase + i)
     ((disposing 0).launch? (field bs 0x18 4)).isSome = true ∧ field bs 4 1 = 0x10 ∧ field bs 0 4 / 2 ^ 22 < 672 ∧
     ((disposing 0).stoppedBy (BitVec.ofNat 32 (field bs 0 4))).isSome = true) := by decide +kernel
/-- An event ring in host memory. -/
def eventing : State := { solo with cmd := { solo.cmd with
  apertures := [{ num := 0, qp := 0, base := 0, rkey := 0, size := 0x100000 }], eventBase := 0x400000000000, eventSize := 64, eventWord := 0x10800
  eventWait := [{ type := 4, seq := 0, time := 5, body := [1, 2], launch := 0 }] } }
theorem test_witness_event_post : eventing.cmd.eventWait ≠ [] ∧ eventing.editHolds [0x10800] = false ∧ eventing.apertureOk (0x400000000000 + 64 + 63) = true ∧
    eventing.readHome 0x10800 4 = 0 := by decide +kernel
def faultRec : FaultRec := { id := 3, va := 0x20000, ctx := 0, kind := 1, acc := 0, src := 0, unit := 5, launch := 1, joined := 1, seq := none, closed := false }
def faulting : State := { solo with mmu := { solo.mmu with fctl := 0x80000040, fbase := 0x11000, recs := [faultRec] } }
theorem test_witness_fault_post : faulting.mmu.fctl.getLsbD 31 = true ∧
    (faulting.mmu.nextSeq + 2 ^ 32 - faulting.faultRd) % 2 ^ 32 < faulting.mmu.fctl.toNat % 2 ^ 16 ∧
    faulting.editHolds [faulting.homed 0x11000] = false ∧ faulting.mmu.recs.find? (·.seq.isNone) = some faultRec := by decide +kernel
/-- ResultsAndLines. -/
def landing : State := each (idle solo) fun t => { t with flags := t.flags.set 3 1, pend := [
  { due := 0, regs := wr1 20 7 tagINT, preds := [(4, true)], flag := some 3 }, { due := 500, regs := wr1 21 8 tagINT, preds := [], flag := none }] }
def dlanding : State := { idle solo with waves := solo.waves.map fun w =>
  { w with dpend := [{ due := 0, reg := 2, comps := some (List.replicate 256 5), norm := none, seq := 1 }] } }
def wline : WcLine := { line := 0x100, bytes := [(0x10001, 9)], owners := [(0, 3)], persist := false, since := 0 }
def lines : State := { (idle solo).modCore 0 fun k => { k with wcb := [wline], l1 := [(0x100, [1])] } with dirty := [0x100000000], pq := [(0x100000000000, 5)] }
theorem test_witness_results : landing.thread? 0 = some (first landing) ∧ landing.mgetsDue (first landing).homeCore 0 = [] ∧
    dlanding.waves.map (fun w => w.dpend.map (·.due)) = [[0]] ∧ (lines.core 0).wcb = [wline] ∧ lines.dirty.contains 0x100000000 = true ∧
    lines.pqRoom 256 = true ∧ lines.pq ≠ [] := by decide +kernel

/-! Engines at work, steps, workgroups, snapshots, yealm streams. -/

/-- A COPY of 16 bytes from 0x10200 to 0x10400, ready, its barrier at the start of core 0's vault. -/
def copying : EngCmd :=
  { id := 60, core := 0, engine := 0, uid := 0, lnum := 1, wg := 0, ctx := 0, priv := true, setf := 3, bar := Config.vwin
    op := .copy 0x10400 0x10200 16, after := [], written := [], credited := 0, cond := 0, fault := none, swap := none, data := none }
def engineAt (x : EngCmd) : State := { idle mem with cmds := [x], mmu := { mem.mmu with tlb2 := [probePage] } }
theorem test_witness_chunk : (engineAt copying).cmdReady copying = true ∧ copying.sizes = [16] ∧ (copying.sent, copying.written, copying.bytes) = ([], [], 0) ∧ (engineAt copying).stagingFull (0x10400 / 64) = false ∧
    (match (engineAt copying).chunkWork copying 0 [] with
     | .ok w => (match (engineAt copying).engKeys 0 true (w.1.map (·.1)) with | .ok ks => ks.all fun k => !k.2 | .error _ => false)
     | .error _ => false) = true ∧ (engineAt copying).pqRoom 0 = true := by decide +kernel
/-- A reduction in a group of this package alone. -/
def reducing : EngCmd := { copying with engine := 4, op := .coll 0 (tinyRec 0x10400) (tinyRec 0x10200) 0 .add 0 0 }
theorem test_witness_collective : reducing.data = none ∧ ((engineAt reducing).cmd.groups.find? (·.num == 0)).map (·.ranks) = some [0] ∧
    (engineAt reducing).cmdReady { reducing with data := some [] } = true ∧
    (match (engineAt reducing).ownPart reducing 0 (tinyRec 0x10400) (tinyRec 0x10200) .add 0 0 true with | .ok p => collAgree [p] | .error _ => false) = true := by
  decide +kernel
/-- StepsCommit. -/
def steppers (h : Hold) : State := heldIn (detOf (idle solo)) h
theorem test_witness_commit : (steppers .sstep).launchThreads 1 = [0] ∧ (steppers .sstep).allHeld 1 (· == .sstep) = true ∧
    (steppers .sstep).settled [0] = true ∧ ((steppers .sstep).launch? 1).map (fun l => (l.hdr.det, l.deferred)) = some (true, []) ∧
    (steppers (.cbar 2)).threads.map (fun t => (t.home, t.hold)) = [(none, .cbar 2)] ∧ (steppers (.cbar 2)).clusterOf 0 = 0 ∧
    (steppers (.stepadv 8)).advanceWaits = false ∧ (steppers (.stepadv 8)).trigger = false ∧
    ({ steppers (.stepadv 8) with ckpt := { solo.ckpt with rolled := true } } : State).trigger = true ∧
    (∀ g ∈ (steppers (.stepadv 8)).wgs, g.state ≠ .waiting) ∧
    (∃ g ∈ (steppers .sstep).wgs, g.lnum = 1 ∧ g.state ≠ .ended ∧ g.killed = false) ∧
    (steppers .sstep).commitReady { rank := 0, retired := 0, lane := 0, wg := 0, bytes := bytesAt 0x10300 4 7, red := none } = true := by decide +kernel
/-- Workgroups: one that waits for core 0, one that has no threads, one that runs, one that is being saved, and one saved. -/
def smallHeader : Header := { probeHeader with nvreg := 2 }
def waiting : State := { State.reset with launches := [{ probeLaunch 1 with hdr := smallHeader, argp := 0x1234500006789 }], wgs := [newWg 1 0 0 smallHeader] }
def ended : State := (idle { solo with threads := [] }).modCore 0 fun k => { k with owner := none }
def saving (kind : Option Nat) : State := { idle solo with wgs := solo.wgs.map fun g => { g with stopping := kind.map fun k => (k, none) } }
def saved : State := match execPreempt 1 0 0 0x20000 (saving (some 2)) with
  | .next s => s
  | _ => solo
theorem test_witness_placement : (waiting.launch? 1).map (·.objs) = some [] ∧ (waiting.wg? 1 0).map (fun g => (g.state, g.hdr.ndecl)) = some (.waiting, 0) ∧
    waiting.cmd.ridge = .running ∧ waiting.firstWaiting 0 = some 1 ∧ waiting.predUnplaced { probeLaunch 1 with hdr := smallHeader } 0 = false ∧
    (waiting.roomFor 0 smallHeader).isSome = true := by decide +kernel
theorem test_witness_workgroup_end : (ended.wg? 1 0).map (·.state) = some .placed ∧ ended.wgThreads 1 0 = [] ∧ ended.wgQuiet 1 0 = true ∧
    (ended.core 0).owner = none := by decide +kernel
theorem test_witness_preempt : ((saving none).wgs.map fun g => ((saving none).preemptable g, g.stopping)) = [(true, none)] ∧
    (saving none).spaceOf 0x20000 = .hbm ∧ ((saving (some 2)).wgs.map fun g => ((saving (some 2)).preemptable g, (saving (some 2)).wgStill g 2)) = [(true, true)] ∧
    ((saving (some 3)).wgs.map fun g => ((saving (some 3)).wgStill g 3)) = [true] ∧ ((saving (some 2)).core 0).accBad = [] ∧ (saving none).locks = [] := by decide +kernel
theorem test_witness_restore : (saved.wg? 1 0).map (fun g => (g.state, g.saved.map (·.area), saved.pinsReady g, (saved.roomAgain g).isSome)) = some (.saved, some none, true, true) ∧
    (saved.launch? 1).isSome = true ∧ saved.cmd.ridge = .running ∧ saved.cmd.quiesced = false ∧ saved.power.retiring = [] ∧ saved.mmu.log = [] ∧
    saved.mmu.waiters = [] := by decide +kernel
/-- Snapshots. -/
def ckptState (f : Ckpt → Ckpt) : State := { State.reset with ckpt := f State.reset.ckpt }
def req (mode : Bool) : CkptReq :=
  { mode := mode, uid := none, va := 0x10100, bar := none, ctx := 0, priv := true, ring := none, issued := 0, step := none, core := 0 }
def sweep (region : Nat) : Sweep := { step := 0, region := region, offset := 0, image := [], started := 0 }
def sweeping (region : Nat) : State := ckptState fun k => { k with sweep := some (sweep region), nreg := 1, step := 1, rbase := k.rbase.set 0 0x10000, rsize := k.rsize.set 0 128 }
def gen : SnapGen := { step := 4, gbase := 0, k := 1, m := 1, shard := 0, rank := 0, regions := [], data := [], bad := [], parity := [], ranks := [0] }
def forced : State := let s := sweeping 0
  { s with inflight := [{ Access.blank [] (.store [(0x10048, 1)]) 15 0 8 with id := 50, writes := [(0x10048, 1)] }] }
theorem test_witness_snapshots : ({ ckptState (fun k => { k with timer := 1 }) with clock := Config.us } : State).timerElapsed = true ∧
    State.reset.ckpt.sweep = none ∧ (req false).waitsSnap = true ∧ (ckptState fun k => { k with reqs := [req false] }).stepResident = false ∧
    State.reset.sysOk 0x411 128 = true ∧ gen.allHere [] = true ∧ (sweeping 0).ckpt.sweep = some (sweep 0) ∧
    (0 < (sweeping 0).ckpt.nreg ∧ 0 < ((sweeping 0).ckpt.rsize.getD 0 0).toNat) ∧ ((sweeping 1).ckpt.nreg ≤ 1 ∧ (sweeping 1).ckpt.image = none) ∧
    (forced.ready? 50).isSome = true ∧ forced.spaceOf (forced.dpaOf 0x10040) = .hbm ∧
    (ckptState fun k => { k with image := some gen }).ckpt.image = some gen ∧
    (ckptState fun k => { k with reqs := [req true] }).ckpt.reqs.find? (·.mode) = some (req true) := by decide +kernel
/-- YealmStreams: a thatch of one 64 KiB yealm in one data shard. -/
def streamState (slot : Slot) (queue : List (Nat × Nat)) (failed : List (Nat × Nat × Nat)) : State := { State.reset with
  thatches := { held := [{ thatch with pins := [], ysize := 64 }], slots := [slot], queue := queue, swaps := [], failed := failed }
  mmu := { State.reset.mmu with winbase := 0x200000, wincfg := 1 }, mem := [(0x100000000005, 9)] }
theorem test_witness_streams : (streamState (.reserved 0x10100 0) [(0x10100, 0)] []).wanted = [] ∧
    (streamState (.reserved 0x10100 0) [(0x10100, 0)] []).streaming = none ∧
    (streamState (.filling 0x10100 0) [] []).streaming = some (0, 0x10100, 0) ∧
    ((streamState (.filling 0x10100 0) [] []).thatch? 0x10100).isSome = true ∧
    (streamState (.filling 0x10100 0) [] []).badShard { thatch with ysize := 64 } 0 = none ∧
    Memory.wf (streamState (.filling 0x10100 0) [] []).mem = true ∧ (streamState .empty [] []).mmu.ilvEdit = false ∧
    64 ≤ (streamState .empty [] []).slotSize ∧ (∀ i < 64, (streamState .empty [] []).homed ((streamState .empty [] []).slotBase 0 + i) = 0x200000 + i) := by
  decide +kernel
theorem test_witness_rebuild : (({ streamState .empty [] [(0x10100, 0, 0)] with mem := [] } : State).rebuildShard { thatch with ysize := 64 } 0 0).map (·.length) = some 64 := by
  decide +kernel

/-! Command rings, management, links, maintenance, power, the ridge pair. -/

/-- Ring 3 at 0x11000 with every type allowed and one published packet of this type, its fields at their offsets (R362, R363, R375). -/
def ringWith (type : Nat) (fields : List (Nat × List Byte)) : State :=
  let s := placed (placed (idle mem) 0x11010 (bytesOf 4 0x1FFE)) 0x11040 [BitVec.ofNat 8 type, 1, 0, 0, 0, 0, 0, 0]
  let s1 := fields.foldl (fun s f => placed s (0x11040 + f.1) f.2) s
  { s1 with mmu := { s1.mmu with tlb2 := [probePage] }, cmd := { s1.cmd with rings := [
    { num := 3, base := 0x11000, ctx := 0, priv := true, rd := 0, err := none, frozen := false, outstanding := [], held := none, poll := none }] } }
/-- The packet at its head, of this type. -/
def packetOf (s : State) (type : Nat) : Option Packet := match s.packet 3 type with | .ok p => some p | .error _ => none
/-- Consuming it succeeds. -/
def consumes (s : State) (p : Packet) (open_ : Bool) : Bool := match s.consume p.ring open_ [] with | .ok _ => true | .error _ => false
theorem test_witness_fence_packet : ((packetOf (ringWith 3 []) 3).any fun p => p.zero [] && p.ring.outstanding.isEmpty && consumes (ringWith 3 []) p false) = true := by
  decide +kernel
def signals : State := ringWith 4 [(8, bytesOf 8 0x10600), (0x10, bytesOf 8 0x77)]
theorem test_witness_signal : ((packetOf signals 4).any fun p => p.w 8 == 0x10600 && (p.w 8).toNat % 8 == 0 && canonical (p.w 8) && consumes signals p false) = true ∧
    ((packetOf (ringWith 4 [(8, bytesOf 8 0x10604)]) 4).any fun p => (p.w 8).toNat % 8 != 0) = true := by decide +kernel
def waits (expected : Nat) : State := ringWith 5 [(8, bytesOf 8 0x10600), (0x10, bytesOf 8 expected), (0x18, bytesOf 8 0xFF)]
theorem test_witness_waitval : ((packetOf (waits 0) 5).any fun p => p.zero [(8, 8), (0x10, 8), (0x18, 8), (0x20, 1)] && decide (p.f 0x20 1 < 4) &&
      (match (waits 0).ringRead p.ring true (p.w 8) 8 with | .ok bs => waitvalCond 0 (natOfBytes bs) 0 | .error _ => false)) = true ∧
    waitvalCond 0 0 1 = false := by decide +kernel
def copies : State := ringWith 2 [(8, bytesOf 8 0x10600), (0x10, bytesOf 8 0x10200), (0x18, bytesOf 4 64)]
theorem test_witness_copy_packet : ((packetOf copies 2).any fun p => p.zero [(8, 8), (0x10, 8), (0x18, 4)] && p.f 0x18 4 == 64 && canonical (p.w 8) &&
    canonical (p.w 0x10) && decide (copies.engQueued (672 + p.ring.num % 16) 0 < engCapacity 0) && consumes copies p true) = true := by decide +kernel
/-- A ring in error at packet 0 that the host restarts at packet 5. -/
def restarting : State :=
  let s := placed (placed (ringWith 3 []) 0x11014 (bytesOf 4 1)) 0x11018 (bytesOf 4 5)
  { s with cmd := { s.cmd with rings := s.cmd.rings.map fun r => { r with err := some (0, 3) } } }
theorem test_witness_restart : (restarting.ring? 3).any (fun r => r.err == some (0, 3) && restarting.served r &&
    (match restarting.ringRead r r.priv (r.base + 0x14) 12 with | .ok bs => field bs 0 4 != field bs 8 4 && field bs 4 4 == 5 | .error _ => false)) = true := by
  decide +kernel
/-- RidgePackets. -/
def kernelHeader : List Byte :=
  bytesOf 2 1 ++ bytesOf 2 0 ++ bytesOf 2 32 ++ [(8 : Byte), 1] ++ bytesOf 8 0x10000 ++ bytesOf 4 32 ++ bytesOf 4 0 ++ bytesOf 4 0 ++ bytesOf 2 0 ++ bytesOf 2 0 ++
    List.replicate 32 (0 : Byte)
def launches : State := placed (placed (ringWith 1 [(8, bytesOf 8 0x12000)]) 0x12000
  (bytesOf 8 0x12100 ++ bytesOf 8 0x5555 ++ List.replicate 48 0 ++ bytesOf 4 9 ++ bytesOf 4 0 ++ bytesOf 4 1 ++ List.replicate 116 0)) 0x12100 kernelHeader
theorem test_witness_launch_packet : launches.cmd.ridge = .running ∧ ((packetOf launches 1).any fun p => p.zero [(8, 8)] && (p.w 8).toNat % 64 == 0 &&
    canonical (p.w 8) && consumes launches p true && (match launches.ringRead p.ring p.ring.priv (p.w 8) 192 with
      | .ok bs => (LaunchRec.read bs).any fun r => r.groups == 0 && r.lnum == 9 && launches.launchState r true &&
          (launches.headerAt 0 true r.khdr).any fun h => launches.launchFields r h && (launches.declTable 0 true h).any (·.all declOk)
      | .error _ => false)) = true := by decide +kernel
def ckptPackets (mode : Byte) : State := let s := ringWith 7 [(8, [mode]), (0x10, bytesOf 8 0x10600)]
  { s with ckpt := { s.ckpt with en := true } }
theorem test_witness_ckpt_packet : ((packetOf (ckptPackets 0) 7).any fun p => p.zero [(8, 1), (0x10, 8)] && p.f 8 1 == 0 && canonical (p.w 0x10) &&
    consumes (ckptPackets 0) p true) = true ∧ (packetOf (ckptPackets 1) 7).isSome = true ∧ (ckptPackets 0).ckpt.reqs = [] := by decide +kernel
/-- A thatch descriptor at 0x12000: one yealm of 64 KiB at 0x40000000, one data shard and a parity shard (R310). -/
def thatchPackets (type : Nat) : State :=
  let s := placed (ringWith type ((8, bytesOf 8 0x12000) :: (if type == 8 then [(0x10, bytesOf 8 0), (0x18, bytesOf 4 0)] else []))) 0x12000
    (bytesOf 2 1 ++ [(2 : Byte), 0] ++ bytesOf 4 1 ++ bytesOf 8 0x40000000 ++ bytesOf 4 65536 ++ [(1 : Byte), 1] ++ bytesOf 2 0 ++ bytesOf 4 8 ++ List.replicate 36 0)
  { s with mmu := { s.mmu with wincfg := 0x10001, winbase := 0x200000 }
           thatches := { s.thatches with slots := [.empty], held := if type == 8 then [] else [{ thatch with desc := 0x12000, nyealm := 1, pins := [] }] } }
theorem test_witness_thatch_packets : ((packetOf (thatchPackets 8) 8).any fun p => p.zero [(8, 8), (0x10, 8), (0x18, 4)] && p.w 0x10 == 0 &&
      (((thatchPackets 8).devRead 0 true (p.w 8) 64).bind (Thatch.parse (p.w 8).toNat (thatchPackets 8).slotSize)).any (thatchPackets 8).thatchOk) = true ∧
    ((packetOf (thatchPackets 9) 9).any fun p => ((thatchPackets 9).thatch? (p.w 8).toNat).isSome && consumes (thatchPackets 9) p true) = true ∧
    (thatchPackets 9).slotOf 0x12000 0 = none ∧
    ((packetOf (thatchPackets 0xA) 0xA).any fun p => ((thatchPackets 0xA).thatch? (p.w 8).toNat).any (fun t => t.pins.isEmpty && !(thatchPackets 0xA).thatchRead t) && consumes (thatchPackets 0xA) p false) = true := by
  decide +kernel
def replays (fatal : Byte) : State := ringWith 0xB [(8, [0, fatal]), (0xC, bytesOf 4 0)]
theorem test_witness_faultreplay : ((packetOf (replays 1) 0xB).any fun p => p.zero [(8, 1), (9, 1), (0xC, 4)] && decide (p.f 8 1 < 16) && p.f 9 1 == 1 &&
    consumes (replays 1) p false) = true ∧ (packetOf (replays 0) 0xB).isSome = true := by decide +kernel
def queries (kind : Byte) : State := ringWith 0xC [(8, [kind]), (0x10, bytesOf 8 0x12000), (0x18, bytesOf 4 0), (0x1C, bytesOf 4 2)]
theorem test_witness_errquery : ((packetOf (queries 0) 0xC).any fun p => errqueryOk p && p.f 8 1 == 0) = true ∧
    ((packetOf (queries 1) 0xC).any fun p => errqueryOk p && p.f 8 1 == 1 && decide (p.f 0x1C 4 < 4)) = true := by decide +kernel
def snapcfgs : State := let s := ringWith 6 [(0xC, bytesOf 4 7), (0x10, bytesOf 8 0x140000)]
  { s with cmd := { s.cmd with npkg := 2 } }
theorem test_witness_snapcfg : ((packetOf snapcfgs 6).any fun p => p.zero [(8, 0x30)] && p.f 0x34 4 == 0 && p.f 8 4 % 16 == 0 &&
    (State.sysWrites (snapWrites p []) snapcfgs).2) = true ∧ snapcfgs.ckpt.sweep = none := by decide +kernel

/-- R391: once the stages of the boot have run, the port waits for nothing but the units that retrain. -/
theorem test_boot_answers : State.reset.boot.cmd.booted = true := by
  unfold State.boot
  dsimp only
  split <;> rfl
/-- ManagementMessages. -/
def booted : State := { State.reset with cmd := { Cmd.reset with booted := true } }
theorem test_witness_management : State.reset.answers = false ∧ booted.answers = true ∧ booted.cmd.recovery = false ∧ (ringWith 3 []).ring? 3 ≠ none ∧ State.reset.ring? 3 = none ∧
    canonical 0x11000 = true ∧ (mem.spaceOf 0x400000000000) = .host ∧ eventing.apertureOk 0x400000000000 = true ∧ eventing.apertureOk (0x400000000000 + 63 + 64 * (64 * 2 ^ 7)) = true ∧
    mem.spaceOf 0x10800 = .hbm ∧ tableReaches 0 2 [some 1] [] = true ∧ tableReaches 0 3 [some 1] [] = false ∧ (∃ l ∈ solo.launches, l.ended = false) ∧
    State.reset.launches = [] ∧ sysInfo 0x600 ≠ none ∧ snapSource 0x600 = none := by decide +kernel
def rdma : State := { ringWith 3 [] with cmd := { mem.cmd with qps := [{ num := 2, ctx := 0, rkey := 5 }] } }
theorem test_witness_rdma : rdma.mmu.ilvEdit = false ∧ rdma.rdmaRefused 2 5 0x10200 4 = false ∧ rdma.rdmaRefused 2 6 0x10200 4 = true ∧
    (match rdma.mapRanges none (rdma.qpCtx 2) true .write [(0x10200, 4)] with | .ok _ => true | .error _ => false) = true ∧
    (rdma.devRead (rdma.qpCtx 2) true 0x10200 4).isSome = true := by decide +kernel
/-- Links: a link whose wavelengths 0 and 1 serve, 2 wakes, 3 retrains; and a flit received for package 7. -/
def linkSt : Link := { (Link.reset 2) with state := [0, 0, 1, 3, 1, 1, 1, 1], req := [0, 0, 0, 0, 1, 1, 1, 1], up := true }
def linked : State := { State.reset with links := [linkSt, { Link.reset 4 with up := true }], cmd := { State.reset.cmd with links := [none, none, none, none, some 7] } }
def flitTo (dst vl seq : Nat) : List Byte := (buildFlit [1] dst 3 vl 0 seq 0).take 76 ++ [0, 0, 0, 0]
def forwarding : State := { linked with links := linked.links.map fun l => if l.num == 2 then { l with inbuf := [flitTo 7 0 0] } else l }
theorem test_witness_links : (linked.link 2).num = 2 ∧ linkSt.waking 2 = true ∧ linkSt.st 2 ≠ 3 ∧ linkSt.st 0 = 0 ∧ (5 : Nat) < linked.power.berthr ∧
    linkSt.st 3 = 3 ∧ 3 < linkSt.state.length ∧ (linked.link 2).inService = true := by decide +kernel
theorem test_witness_flits : flitOk (flitTo 7 0 0) = true ∧ flitSeq (flitTo 7 0 0) = linkSt.recvSeq ∧ flitSeq (flitTo 7 0 5) ≠ linkSt.recvSeq ∧
    flitVl (flitTo 7 4 0) = 4 ∧ flitVl (flitTo 7 0 0) = 0 ∧ flitDst (flitTo 7 0 0) = 7 ∧ linked.cmd.rank ≠ 7 ∧
    forwarding.hintLinks 7 = [4] ∧ (forwarding.link 4).num = 4 ∧ (forwarding.link 2).inbuf = [flitTo 7 0 0] := by decide +kernel
/-- Maintenance: a table being edited that is valid, and one that is not; bank counts; a retirement whose plan falls short. -/
def oneChannel : List (BitVec 16) := (List.range 8).map fun k => 0x8000#16 + BitVec.ofNat 16 (k * 4096)
def editing (nch : Nat) : State := { State.reset with mmu := { State.reset.mmu with ilvEdit := true, ilv := some oneChannel, nch := 1, nchEdit := nch, channels := [0] } }
theorem test_witness_interleave : ilvValid 1 ((List.range 4096).map (editing 1).mmu.ilvShown) = true ∧ ilvValid 2 ((List.range 4096).map (editing 2).mmu.ilvShown) = false ∧
    ilvValid 1 ((List.range 4096).map (editing 1).mmu.ilvAt) = true := by decide +kernel
def scrubbing (n : Nat) : State := { State.reset with power := { State.reset.power with corrected := [(16, n)] } }
theorem test_witness_scrub : (scrubbing 64).power.corrected.find? (·.1 == 16) = some (16, 64) ∧ (scrubbing 64).mmu.channels.contains 1 = true ∧
    (scrubbing 64).ckpt.eccthr = 64 ∧ (scrubbing 64).power.strong.contains 16 = false := by decide +kernel
theorem test_witness_reset_die : State.reset.power.dieState.getD 7 0 = 0 ∧ 7 < State.reset.power.dieState.length ∧ State.reset.wgs = [] ∧
    ({ State.reset.power with dieState := [1] } : Power).dieState.getD 0 0 = 1 := by decide +kernel
def twoChannels : State := { State.reset with
  mmu := { State.reset.mmu with nch := 2, channels := [0, 1], ilv := some (oneChannel ++ oneChannel.map (· + 1)) }
  ckpt := { State.reset.ckpt with nreg := 0 } }
theorem test_witness_retire : twoChannels.power.retiring = [] ∧ twoChannels.retireOk [1] = true ∧ twoChannels.cmd.ridge = .running ∧
    twoChannels.mmu.ilvEdit = false ∧ twoChannels.mmu.channels.Nodup ∧ twoChannels.memOk = true := by decide +kernel
/-- PowerEvents and RidgePair. -/
def warm : State := { solo with clock := 30 * 1000000 * Config.us }
theorem test_witness_power : warm.power.vmain = true ∧ warm.charged = true ∧ warm.memOk = true ∧ State.reset.power.outlet ≤ 700 ∧
    (700 : Nat) < ({ State.reset.power with outlet := 701 } : Power).outlet ∧ State.reset.power.waiting = [] ∧
    ((List.range 8).map fun d => State.reset.power.defs.getD d 0).sum ≤ State.reset.power.budget - State.reset.power.reserve ∧
    ({ State.reset.power with retrain := [20] } : Power).retrain.contains 20 = true := by decide +kernel
/-- A control core's kernel header at 0x12100. -/
def cgo : State := let s := placed (idle mem) 0x12100 kernelHeader
  { s with mmu := { s.mmu with tlb2 := [probePage] }, cmd := { s.cmd with csel := 5, chdr := 0x12100, carg := 0x99 } }
theorem test_witness_ridge : State.reset.cmd.ridge ≠ .stopped ∧ (∀ t ∈ solo.threads, t.loc.core ≠ 688) ∧ State.reset.cmd.mismatchAt = none ∧
    State.reset.clock ≤ 0 + 1000000 * Config.us ∧ cgo.cgoWaits = false ∧ (match cgo.cgoStart with | .ok _ => true | .error _ => false) = true := by decide +kernel
theorem test_witness_package_lost : (1 : Nat) < ({ State.reset.cmd with npkg := 2 } : Cmd).npkg ∧ State.reset.cmd.rank ≠ 1 ∧ State.reset.cmds = [] ∧
    State.reset.mmu.ilvEdit = false ∧ State.reset.ckpt.gens = [] ∧ (0 : Word).toNat ≤ State.reset.ckpt.lastok.toNat := by decide +kernel

/-! Further witnesses: landings, the ends of commands, messages to a peer, the arbiter. -/

/-- LoadsAndStoresPerform: an LDV of three halves, and a DLD. -/
def loadingV : State := flying mem (.ldv 20 (0x10 : Byte) 16 2 [([0x10200, 0x10201], 0), ([0x10202, 0x10203], 0), ([0x10204, 0x10205], 0)] none false) [(0x10200, 6)] []
def loadingD : State := flying mem (.dld 2 1 1) [(0x10200, 516)] []
theorem test_witness_other_loads : (loadingV.ready? 50).isSome = true ∧ (loadingD.ready? 50).isSome = true ∧
    (loadingD.wave? 1).map (fun w => (w.dlast.getD 2 0, w.nlast.getD 2 0)) = some (0, 0) ∧ loadingD.poison = [] := by decide +kernel
/-- ResultsAndLines: an MGET that is due. -/
def mgetting : State := (idle mem).modCore 0 fun k => { k with mgets := [{ id := 7, acc := 0, uids := [0], d := 20, row0 := 0, cnt := 1, tr := false, setf := 3, pc := 0x10000, ilen := 8
                                                                           sync := false, waits := [], due := 0, hist := [List.replicate 64 7], lnum := 1, wg := 0 }] }
theorem test_witness_mget : ((mgetting.mgetsDue (first mgetting).homeCore 0).map fun g => (mgetting.core 0).mgetSees g) = [[List.replicate 64 7]] ∧
    (first mgetting).pend = [] ∧ (mgetting.core 0).accBad = [] := by decide +kernel
/-- MatrixEngine: passes whose check failed once, and twice; an MDRAIN at its end. -/
def failing (again : Bool) : State := later.modCore 0 fun q => { q with mexec := some { cmd := mcmd (.pass tile), inj := none, prod := none, again := again, ends := 0 } }
theorem test_witness_recompute : ((failing true).core 0).mexec.map (fun e => (e.prod, e.again, e.fixed)) = some (none, true, false) ∧
    ((failing false).core 0).mexec.map (fun e => (e.prod, e.again, e.fixed)) = some (none, false, false) ∧
    4 * Config.ac ≤ (failing true).clock ∧ ((failing false).core 0).flips = [] ∧ ((failing false).core 0).readsBad (mcmd (.pass tile)) = false ∧
    (failing true).thread? 0 = some (first (failing true)) ∧ (first (failing true)).status = .live ∧ 0 < tile.mb := by decide +kernel
def draining : MKind := .drain 20 true .rne (tinyRec 0x10400) 0 0 0 true
def drainState : State := { running draining none with mmu := { mem.mmu with tlb2 := [probePage] } }
theorem test_witness_drain_end : (drainState.core 0).readsBad (mcmd draining) = false ∧ (drainState.core 0).accBad = [] ∧
    drainState.thread? 0 = some (first drainState) ∧ ((tinyRec 0x10400).putElem [0, 0] 5).map (·.1) = [0x10400, 0x10401, 0x10402, 0x10403] ∧
    (match drainState.mapRanges none 0 true .write [(0x10400, 256)] with | .ok ps => !drainState.foreignVault (first drainState) ps | .error _ => false) = true := by
  decide +kernel
/-- TranslationAndPower: TLBINV before and after it has dropped the entries; L1INV of all cores. -/
def invalidating (ws : Option (List Nat)) : State := flying solo (.tlbinv 0 0 0 0 ws) [] []
def l1inval (mode : Nat) : State := flying solo (.l1inv mode) [] []
theorem test_witness_invalidates : ((invalidating none).ready? 50).isSome = true ∧ ((invalidating (some [])).ready? 50).isSome = true ∧
    ((l1inval 3).ready? 50).isSome = true := by decide +kernel
/-- EnginesWork: chunks of RGET and RPUT, whose peer a link serves, or none. -/
def pulling : EngCmd := { copying with op := .rget 0x10400 0x10200 16 1 }
def pushing : EngCmd := { copying with op := .rput 0x10400 0x10200 16 1 }
def peered (x : EngCmd) : State := let s := engineAt x
  { s with links := [{ Link.reset 2 with up := true }], cmd := { s.cmd with npkg := 2, links := [none, none, some 1] } }
theorem test_witness_peers : (peered pulling).cmdReady pulling = true ∧ pulling.chunkOk 0 = true ∧ (peered pulling).peerOf pulling = some 1 ∧
    (peered pushing).peerOf pushing = some 1 ∧ (peered pulling).laneOpen 1 0 = true ∧ (engineAt pulling).laneOpen 1 0 = false ∧
    ((peered pushing).chunkWork pushing 0 []).toOption.isSome = true ∧
    (peered { pulling with sent := [0] }).cmdLands { pulling with sent := [0] } = true ∧ (lineParts 0x10400 16).getD 0 (0, 0) = (0, 16) := by decide +kernel
/-- Migration. -/
theorem test_witness_landing_free : (mem.landingCore (first mem) 3) = some 240 := by decide +kernel
/-- PowerEvents: a boundary of the arbiter; recovery. -/
def bounded : State := { booted with clock := Config.us }
theorem test_witness_boundary : bounded.arbDue = true ∧ booted.arbDue = false ∧
    ({ booted with cmd := { booted.cmd with recovery := true } } : State).answers = true := by decide +kernel

/-! Words written out from the manual's encodings. -/

/-- R25: 04 10 00 F0 7F 00 00 00. -/
theorem test_decode_nop : decodeTableWord 64 0x7FF0001004 = some (.nop (.listed .l64 1 0 15)) := by decide +kernel
/-- R25: 05 10 00 F0 7F 00 00 00 00 00 00 00. -/
theorem test_decode_nop96 : decodeTableWord 96 0x7FF0001005 = some (.nop (.listed .l96 1 0 15)) := by decide +kernel
/-- R25: 06 10 00 F0 7F 00 00 00 00 00 00 00 00 00 00 00. -/
theorem test_decode_nop128 : decodeTableWord 128 0x7FF0001006 = some (.nop (.listed .l128 1 0 15)) := by decide +kernel
/-- Worked encoding of chapter 02: 18 10 80 F0 80 00 00 00. -/
theorem test_decode_exit : decodeTableWord 64 0x80F0801018 = some (.exit (.listed .l64 1 0x080 15 0 true)) := by decide +kernel
/-- Worked encoding of chapter 04: 61 21 00 F0 81 06 1E 00 00 00 10 11. -/
theorem test_decode_isetp : decodeTableWord 96 0x11100000001E0681F0002161 = some (.isetp (.listed .l96 2 0 15 1 true) { p := 6, a := 30, b := .imm 0, cond := .ne, w64 := true }) := by decide +kernel
/-- Worked encoding of chapter 04: 6D 11 00 F0 7F 1A 00 01 01 00 00 00. -/
theorem test_decode_movi : decodeTableWord 96 0x101001A7FF000116D = some (.movi (.listed .l96 1 0 15) 26 .s64 1) := by decide +kernel
/-- Worked encoding of chapter 05: 00 13 00 30 7F 02 08 00. -/
theorem test_decode_dnorm : decodeTableWord 64 0x8027F30001300 = some (.dnorm (.listed .l64 1 0 3) { d := 2, a := 8, sf := .f32 }) := by decide +kernel
/-- Worked encoding of chapter 05: 11 13 00 50 7F 03 02 00 00 10 10 00. -/
theorem test_decode_dscl : decodeTableWord 96 0x1010000002037F50001311 = some (.dscl (.listed .l96 1 0 5) { d := 3, a := 2, s := .imm 4096 }) := by decide +kernel
/-- Worked encoding of chapter 06: 09 14 01 20 7F 02 28 08 0C 00 00 14. -/
theorem test_decode_mma : decodeTableWord 96 0x1400000C0828027F20011409 = some (.mma (.listed .l96 1 0x001 2) { d := 2, a := 40, b := 8, k := 1, mbf := 2, c := some 12 }) := by decide +kernel
/-- Worked encoding of chapter 09: 09 14 04 30 7F 00 36 34 FF 00 00 0C. -/
theorem test_decode_mma_b8 : decodeTableWord 96 0xC0000FF3436007F30041409 = some (.mma (.listed .l96 1 0x004 3) { d := 0, a := 54, b := 52, k := 0, mbf := 6, c := some 255 }) := by decide +kernel
/-- Worked encoding of chapter 09: 29 14 00 F0 03 00 00 00 00 30 68 04. -/
theorem test_decode_errinj : decodeTableWord 96 0x468300000000003F0001429 = some (.errinj (.listed .l96 1 0 15 3) { m := 0, mode := .one, row := 17, col := 40, bit := 6 }) := by decide +kernel
/-- Worked encoding of chapter 07: 01 15 00 10 7F 1D 00 00 34 00 00 10. -/
theorem test_decode_ld : decodeTableWord 96 0x1000003400001D7F10001501 = some (.ld (.listed .l96 1 0 1) { d := 29, a := 0, sz := .w32, fresh := true, acq := false, nt := false, scope := .thread, ftag := 0, off := 0x34 }) := by decide +kernel
/-- Worked encoding of chapter 07: 21 15 00 20 00 28 2A 2C 2E 00 00 00. -/
theorem test_decode_copy : decodeTableWord 96 0x2E2C2A280020001521 = some (.copy (.listed .l96 1 0 2 0) { bar := 40, d := 42, s := 44, n := some 46 }) := by decide +kernel
/-- Worked encoding of chapter 08: 48 10 00 70 7F 04 00 00. -/
theorem test_decode_fetchw : decodeTableWord 64 0x47F70001048 = some (.fetchw (.listed .l64 1 0 7) 4 0) := by decide +kernel
/-- Worked encoding of chapter 11: 2C 13 08 40 7F 06 01 00. -/
theorem test_decode_dtest : decodeTableWord 64 0x1067F4008132C = some (.dtest (.listed .l64 1 0x008 4) { d := 6, a := 1 }) := by decide +kernel
/-- Worked encoding of chapter 11: 11 13 08 30 7F 03 02 00 0F 00 00 00. -/
theorem test_decode_dscl_reg : decodeTableWord 96 0xF0002037F30081311 = some (.dscl (.listed .l96 1 0x008 3) { d := 3, a := 2, s := .reg (some 15) }) := by decide +kernel
/-- Worked encoding of chapter 11: 71 12 00 60 7F 30 2C 00 00 00 00 1A. -/
theorem test_decode_vred_max : decodeTableWord 96 0x1A000000002C307F60001271 = some (.vred (.listed .l96 1 0 6) { d := 48, a := 44, op := .max, u := true, w64 := true, exact := false, excl := false }) := by decide +kernel
/-- Worked encoding of chapter 14: 4C 25 01 20 7F 00 04 0C. -/
theorem test_decode_yacq : decodeTableWord 64 0xC04007F2001254C = some (.yacq (.listed .l64 2 0x001 2) 4 12) := by decide +kernel
/-- Worked encoding of chapter 14: 54 25 00 F0 7F 00 04 0D. -/
theorem test_decode_yhint : decodeTableWord 64 0xD04007FF0002554 = some (.yhint (.listed .l64 2 0 15) 4 13) := by decide +kernel
/-- Worked encoding of chapter 14: 50 15 08 F0 7F 00 04 0C. -/
theorem test_decode_yrel : decodeTableWord 64 0xC04007FF0081550 = some (.yrel (.listed .l64 1 0x008 15) 4 12) := by decide +kernel
/-- Worked encoding of chapter 14: 01 25 04 30 7F 1A 10 00 00 00 10 60. -/
theorem test_decode_ld_f32 : decodeTableWord 96 0x6010000000101A7F30042501 = some (.ld (.listed .l96 2 0x004 3) { d := 26, a := 16, sz := .d64, fresh := false, acq := false, nt := false, scope := .thread, ftag := 0x10, off := 0 }) := by decide +kernel
/-- Worked encoding of chapter 14: 0D 12 08 F0 7F 14 14 1A 1B 00 00 00. -/
theorem test_decode_ffma : decodeTableWord 96 0x1B1A14147FF008120D = some (.ffma (.listed .l96 1 0x008 15) { d := 20, a := 20, b := 26, c := some 27, x := none, rm := .rne }) := by decide +kernel
/-- Worked encoding of chapter 17: 68 15 40 F0 00 12 0A 08. -/
theorem test_decode_cgath : decodeTableWord 64 0x80A1200F0401568 = some (.cgath (.listed .l64 1 0x040 15 0) { bar := 18, d := 10, s := 8, g := none, op := .add, root := 0 }) := by decide +kernel
/-- Worked encoding of chapter 17: 3D 15 00 F0 7F 00 12 22 00 00 00 02. -/
theorem test_decode_bwait : decodeTableWord 96 0x20000002212007FF000153D = some (.bwait (.listed .l96 1 0 15) { p := 0, a := 18, b := 34, checked := true }) := by decide +kernel
/-- Worked encoding of chapter 17: 71 12 04 30 7F 3D 3C 00 00 00 00 20. -/
theorem test_decode_vred_add : decodeTableWord 96 0x20000000003C3D7F30041271 = some (.vred (.listed .l96 1 0x004 3) { d := 61, a := 60, op := .add, u := false, w64 := false, exact := true, excl := false }) := by decide +kernel
/-- Worked encoding of chapter 19: 01 25 00 10 7F 0A 08 00 00 00 80 79. -/
theorem test_decode_ld_acq : decodeTableWord 96 0x7980000000080A7F10002501 = some (.ld (.listed .l96 2 0 1) { d := 10, a := 8, sz := .d64, fresh := true, acq := true, nt := false, scope := .system, ftag := 0, off := 0 }) := by decide +kernel
/-- Worked encoding of chapter 19: 39 20 00 F0 7F 03 03 04 00 00 00 02. -/
theorem test_decode_por_nb : decodeTableWord 96 0x20000000403037FF0002039 = some (.por (.listed .l96 2 0 15) { d := 3, a := 3, b := 4, na := false, nb := true }) := by decide +kernel
/-- Worked encoding of chapter 19: 05 15 00 F0 7F 00 00 FF 04 00 80 09. -/
theorem test_decode_st_rel : decodeTableWord 96 0x9800004FF00007FF0001505 = some (.st (.listed .l96 1 0 15) { a := 0, b := 255, sz := .w32, rel := true, nt := false, wc := false, scope := .system, off := 4 }) := by decide +kernel
/-- Worked encoding of chapter 21: 01 17 00 10 7F 08 00 00 B4 05 00 00. -/
theorem test_decode_sysrd : decodeTableWord 96 0x5B40000087F10001701 = some (.sysrd (.listed .l96 1 0 1) { r := 8, num := 0x5B4, w64 := false }) := by decide +kernel
/-- Worked encoding of chapter 21: 58 25 00 F0 01 00 03 00. -/
theorem test_decode_lnkhint : decodeTableWord 64 0x30001F0002558 = some (.lnkhint (.listed .l64 2 0 15 1) 3) := by decide +kernel
/-- Worked encoding of chapter 21: 05 27 00 F0 03 00 06 00 84 05 00 00. -/
theorem test_decode_syswr : decodeTableWord 96 0x58400060003F0002705 = some (.syswr (.listed .l96 2 0 15 3) { r := 6, num := 0x584, w64 := false }) := by decide +kernel
/-- Worked encoding of chapter 22: 35 17 00 20 7F 0A 00 00 10 04 00 00. -/
theorem test_decode_wear : decodeTableWord 96 0x41000000A7F20001735 = some (.wear (.listed .l96 1 0 2) 10 0x0410) := by decide +kernel
/-- R21, R22, R191: OPC 0x180; OP 1, W64, ORD 1, SCOPE 5, OFF16 0x10. -/
theorem test_decode_atom : decodeTableWord 96 0x19A000100A04147F30001601 = some (.atom (.listed .l96 1 0 3) { d := 20, a := 4, b := 10, op := .min, w64 := true, u := false, ord := .acq, scope := .device, off := 0x10 }) := by decide +kernel
/-- R21, R22, R101: OPC 0x097; DF 3, E 1, CB, SF 2, SRCC 30. -/
theorem test_decode_fcvt : decodeTableWord 96 0x3502001E0A04147FF000125D = some (.fcvt (.listed .l96 1 0 15) { d := 20, a := 4, b := 10, df := .e4m3, e := 1, cb := true, rm := .rne, sf := some .f16, c := some 30 }) := by decide +kernel
/-- R24, R101: without CB the bound's operand is unused, and its field must be 0. -/
theorem test_decode_fcvt_no_bound : decodeTableWord 96 0x3402001E0A04147FF000125D = none ∧
    (decodeTableWord 96 0x3402001E0004147FF000125D).isSome = true := by decide +kernel
/-- R23, R30: two guards, SRCD; OPC 0x083, GCOMB 1, GNEG1, GUARD1 2, OPS 1. -/
theorem test_decode_ffma_long : decodeTableWord 128 0x21821C1B0A041481F000120E = some (.ffma { Ctl.listed .l128 1 0 15 1 true with gcomb := .conj, g1 := { idx := 2, neg := true } } { d := 20, a := 4, b := 10, c := some 27, x := some 28, rm := .rne }) := by decide +kernel

/-- R21, R24, R32, R157: words that no instruction has. LEN 3; an opcode that R36 does not list; SETF 12; GUARD 96; an operand
field that NOP does not use; an odd address pair; SZ 7 of LD; a register pair that passes NVREG. -/
theorem test_decode_refuses : decodeTableWord 64 0x7FF0001007 = none ∧ decodeTableWord 64 0x7FF0001FFC = none ∧
    decodeTableWord 64 0x7FC0001004 = none ∧ decodeTableWord 64 0x60F0001004 = none ∧
    decodeTableWord 64 0x1007FF0001004 = none ∧ decodeTableWord 64 0xC05007F2001254C = none ∧
    decodeTableWord 96 0xE000003400001D7F10001501 = none := by decide +kernel

/-! Ill-formed terms, one for each check, beside a well-formed neighbour. -/

def limits : Limits := { nvreg := 64, npred := 8 }
def add (c : Ctl) (d : Reg) (w64 sat : Bool) (b : Src := .reg 4) : Instr := .iadd c { d := d, a := 2, b := b, w64 := w64, u := false, sat := sat }
def wide : Ctl := .listed .l96 1 0 15
def widest : Ctl := .listed .l128 1 0 15
theorem test_wf_accepts : (add ctl 6 false false).wf limits = true ∧ (add wide 6 true true).wf limits = true ∧
    (add wide 255 true false (.imm 7)).wf limits = true ∧ (Instr.ld wide (ld 4)).wf limits = true ∧
    (Instr.ffma widest { d := 6, a := 2, b := 4, c := some 8, x := some 9, rm := .rup }).wf limits = true ∧
    (Instr.pand ctl { d := 7, a := 127, b := 0, na := false, nb := false }).wf limits = true := by decide +kernel
/-- The common fields: SETF 12 to 14; a guard beyond NPRED; a second guard or a CHINT that the form has no place for; CHINT 5;
CHINT on an opcode without a memory access; a second guard with GCOMB 0. -/
theorem test_wf_refuses_common_fields : (add { ctl with setf := 12 } 6 false false).wf limits = false ∧
    (add (.listed .l64 1 0 3 8) 6 false false).wf limits = false ∧ (add { ctl with gcomb := .conj } 6 false false).wf limits = false ∧
    (Instr.ld { wide with chint := 1 } (ld 4)).wf limits = false ∧ (Instr.ld { widest with chint := 5 } (ld 4)).wf limits = false ∧
    (add { widest with chint := 1 } 6 false false).wf limits = false ∧ (Instr.ld { widest with chint := 1 } (ld 4)).wf limits = true ∧
    (add { widest with gcomb := .disj, g1 := { idx := 8, neg := false } } 6 false false).wf limits = false ∧
    (add { widest with g1 := { idx := 1, neg := false } } 6 false false).wf limits = false := by decide +kernel
/-- Registers: one beyond NVREG, an odd pair, a pair that passes NVREG; a predicate beyond NPRED; a d register from 16 up. -/
theorem test_wf_refuses_registers : (add ctl 64 false false).wf limits = false ∧ (add wide 7 true false).wf limits = false ∧
    (add wide 64 true false).wf limits = false ∧ (Instr.pand ctl { d := 8, a := 0, b := 0, na := false, nb := false }).wf limits = false ∧
    (Instr.dzero ctl 16).wf limits = false ∧ (Instr.dzero ctl 15).wf limits = true := by decide +kernel
/-- Forms: a modifier or an immediate in 64 bits; SRCC in 64 bits, or absent in 128; SRCD in 96 bits. -/
theorem test_wf_refuses_forms : (add ctl 6 true false).wf limits = false ∧ (add ctl 6 false false (.imm 7)).wf limits = false ∧
    (Instr.ffma ctl { d := 6, a := 2, b := 4, c := some 8, x := none, rm := .rne }).wf limits = false ∧
    (Instr.ffma widest { d := 6, a := 2, b := 4, c := none, x := none, rm := .rne }).wf limits = false ∧
    (Instr.ffma wide { d := 6, a := 2, b := 4, c := some 8, x := some 9, rm := .rne }).wf limits = false := by decide +kernel
/-- Modifiers out of their ranges: ST of a sign-extending size; an acquire without a scope; a reserved IDRD selector; a field of no
bits; FIMM20 with a broken sign; an atomic FADD of 64 bits; and an event, which is no instruction word. -/
theorem test_wf_refuses_modifiers : (Instr.st wide { st 4 false with sz := .b8s }).wf limits = false ∧
    (Instr.ld wide { ld 4 with acq := true, scope := .thread }).wf limits = false ∧ (Instr.idrd wide 6 11).wf limits = false ∧
    (Instr.bfe wide { d := 6, a := 2, b := 0, pos := 3, len := 0, w64 := false, s := false }).wf limits = false ∧
    (Instr.fadd wide { d := 6, a := 2, b := .imm 0x8000, c := none, rm := .rne }).wf limits = false ∧
    (Instr.atom wide { atom 4 with op := .fadd, w64 := true }).wf limits = false ∧ Instr.trapDispose.wf limits = false := by decide +kernel

/-! Witnesses for decoding, the step and the whole-machine rules. -/

/-- RoundTrip: NOP, and a 128-bit instruction that ends where its block ends. -/
theorem test_witness_round_trip : (Instr.nop ctl).wf DecodeCtx.open.limits = true ∧ encode (.nop ctl) = some (leBytes 8 0x7F30001004) ∧
    (Instr.nop widest).wf DecodeCtx.open.limits = true ∧ (encode (.nop widest)).map List.length = some 16 ∧
    (0x10010 : DWord).toNat % 4 = 0 ∧ (0x10010 : DWord).toNat % 32 + 16 = 32 := by decide +kernel

/-- StepRunsDecoded: the bytes at the group's program counter decode, and do not; an event at the head of the agenda. -/
def bytesHere (s : State) (a : Nat) : List Byte := (s.blockBytes 0 (a / 32)).drop (a % 32)
def lookOf (s : State) : Option (Nat × Bool) := let t := first s
  match s.xlate (some t.loc.core) t.ctx t.priv .fetch t.pc with | .dpa a _ _ _ => some (a, s.poisoned (32 * (a / 32)) 32 || s.editHolds [a]) | _ => none
def decodesTo (s : State) (a : Nat) : Option Instr :=
  match decode (s.decodeCtx (first s)) (first s).pc (bytesHere s a) with | .ok (i, _) => some i | .error _ => none
theorem test_witness_step : (solo.issue.map fun g => g.uids.head?.bind solo.thread?) = some (some (first solo)) ∧
    (first solo).pc.extractLsb' 0 2 = 0 ∧ solo.targetOk (first solo).ctx (first solo).pc = true ∧ lookOf solo = some (0x10000, false) ∧
    decodesTo solo 0x10000 = some (.nop (.listed .l64 1 0 15)) := by decide +kernel
/-- A word with LEN 3 stands there. -/
def misplaced : State := State.reset.withFetchWord 64 0x7FF0001007
theorem test_witness_step_illegal : lookOf misplaced = some (0x10000, false) ∧ decodesTo misplaced 0x10000 = none ∧
    misplaced.issue.map (·.uids) = some [0] := by decide +kernel
def eventful : State := { State.reset with agenda := [.event .sweepLine] }
theorem test_witness_step_event : eventful.issue = none ∧ eventful.dueAct = none ∧
    eventful.agenda = .event .sweepLine :: [] ∧ Instr.sweepLine.shape = none := by decide +kernel

/-- StampsInvariant, MemoryInvariant: states in which the invariants hold and a step answers a next state. -/
def answersNext (s : State) : Bool := match step s with | .next _ => true | _ => false
theorem test_witness_stamps : (let s := idle solo.stamp
    s.threads ≠ [] ∧ s.threads.all (fun t => t.ready.isSome == s.eligible t) = true ∧ answersNext s = true) := by decide +kernel
theorem test_witness_memory_invariant : solo.memOk = true ∧ solo.mem ≠ [] ∧
    (match step solo with | .next s' => s'.memOk && s'.mem == solo.mem | _ => false) = true := by decide +kernel

/-- LengthsAndBlocks. -/
theorem test_witness_lengths : (0x10002 : DWord).toNat % 4 ≠ 0 ∧ (first (each solo fun t => { t with pc := 0x10002 })).pc.toNat % 4 ≠ 0 ∧
    (solo.core 0).l1i.find? (·.1 == 0x800) = none ∧ (0x10018 : DWord).toNat % 4 = 0 ∧ (7 : Byte).toNat % 4 = 3 ∧
    (4 : Byte).toNat % 4 = 0 ∧ (5 : Byte).toNat % 4 = 1 ∧ (6 : Byte).toNat % 4 = 2 ∧
    32 < (0x1001C : DWord).toNat % 32 + 8 ∧ 32 < (0x10018 : DWord).toNat % 32 + 12 ∧ 32 < (0x10014 : DWord).toNat % 32 + 16 ∧
    (match decode DecodeCtx.open 0x10018 (leBytes 8 0x7FF0001004) with | .ok (i, r) => i == .nop (.listed .l64 1 0 15) && r == []
                                                                       | .error _ => false) = true := by decide +kernel

/-- RolesAndProfiles: a copy wave and a directional instruction, which a general wave may issue and a control core lacks. -/
def dnormRaw : Raw :=
  { len := .l64, opc := 0x0C0, stall := 1, wait := 0, setf := 3, g0 := 127, n0 := 0, dst := 2, a := 8, b := 0, c := 0, x4 := 0
    g1 := 0, n1 := 0, gcomb := 0, chint := 0, ops := 0, pad := 0, w := 0 }
def answers (k : DecodeCtx) : Option Instr := match decodeRaw k dnormRaw with | .ok i => some i | .error _ => none
def rejects (k : DecodeCtx) (e : DecodeErr) : Bool := match decodeRaw k dnormRaw with | .ok _ => false | .error f => f == e
theorem test_witness_roles : dnormRaw.opc.toNat / 64 = 3 ∧
    answers DecodeCtx.open = some (.dnorm ctl { d := 2, a := 8, sf := .f32 }) ∧
    rejects { DecodeCtx.open with role := 1 } .roleViolation = true ∧ rejects { DecodeCtx.open with control := true } .illegalOpcode = true ∧
    solo.waveOf (first solo) = solo.waves[0]? ∧ 672 ≤ (first (onCore solo 680)).loc.core := by decide +kernel

/-- DeterministicIdentities. -/
theorem test_witness_identities : (detOf solo).isDet (first (detOf solo)) = true ∧ (detOf solo).inGroup (first (detOf solo)) = true := by
  decide +kernel

/-! Worked examples of the manual. -/

/-- R349, chapter 18: the parity of 0x40, 0x58 and 0x70, and the recovery of two of them. -/
theorem test_parity : parityP [0x40, 0x58, 0x70] = 0x68 ∧ parityQ [0x40, 0x58, 0x70] = 0x2D ∧
    recoverByte [none, some 0x58, none] (some 0x68) (some 0x2D) = some [0x40, 0x58, 0x70] ∧
    recoverByte [some 0x40, none, some 0x70] none (some 0x2D) = some [0x40, 0x58, 0x70] := by decide +kernel
/-- R397, chapter 22: 2,696 W among eight dies. -/
theorem test_grants : grantsOf 2696 (List.replicate 8 337) [500, 400, 300, 300, 300, 300, 300, 300] =
    [some 498, some 398, some 300, some 300, some 300, some 300, some 300, some 300] := by decide +kernel
/-- R295: where the boot table puts a DPA. -/
theorem test_interleave : State.reset.channelOf 0x1805A40 = (8, 0xCA40) := by decide +kernel
/-- R294: the home slice of the line that holds a DPA, 26 xor 1 xor 24. -/
theorem test_home_slice : homeSlice 0x1805A40 = 3 := by decide +kernel
/-- LostShardsComeBack: a Yealm of two data shards and one of parity, all zero. -/
theorem test_witness_thatch : let t : Thatch := { thatch with k := 2, m := 1 }
    1 ≤ t.k ∧ t.k ≤ 8 ∧ State.reset.poison = [] ∧ (memGet State.reset.mem (t.shardAt 2 0 0)).toNat = parityP [0, 0] := by decide +kernel

end Sys2Proof.Tests
end

namespace Sys2Proof.Machine

/-- Settles O49: each conjunct is a closed fact about one word, which the kernel settles by running the decoder on that word
alone. -/
theorem decodesSpecWords : Obligations.DecodesSpecWords := by
  unfold Obligations.DecodesSpecWords
  refine ⟨?nop64, ?nop96, ?nop128, ?exit, ?isetp, ?movi, ?dnorm, ?dscl, ?mma, ?ld, ?copy, ?fetchw, ?yacq, ?cgath, ?st, ?wear⟩ <;>
    decide +kernel

end Sys2Proof.Machine

namespace Sys2Proof.Machine

/-! Bit fields, compares and moves (R91 to R93). -/

/-- A fixed-latency instruction that only writes registers, and traps at no operand: each lane completes with what it writes. -/
theorem lanes_of_regs {s : State} {i : Instr} {c : Ctl} {lat : Nat} {out : Thread → LaneOut} {regs : Thread → List (Nat × VReg)}
    (h : exec i s = .next (s.issueAll c lat fun t => .ok (out t))) (hl : lat ≠ 0) (ho : ∀ t, out t = { regs := regs t }) :
    Lanes s i c fun t => Completes s c lat (regs t) [] 0 t := by
  obtain rfl : out = fun t => { regs := regs t } := funext ho
  exact lanes_of_issueAll h rfl rfl rfl fun t hg => issueLane_ok (o := { regs := regs t }) hg rfl rfl hl

/-- Settles O3: ISETP resolves its operands' tags, and every other of these instructions only writes registers. -/
theorem bitFieldsComparesMoves : Obligations.BitFieldsComparesMoves := by
  unfold Obligations.BitFieldsComparesMoves
  refine ⟨fun s c x => ⟨?bfe, ?bfi⟩,
    fun s c => ⟨fun x => ?isetp, fun x => ?sel, fun d a w => ?mov, fun d m imm => ?movi, fun x => ?lea⟩⟩
  case isetp =>
    exact lanes_of_issueAll (f := fun t => t.isetp x) rfl rfl rfl rfl fun t hg =>
      resolves_issueLane _ rfl (by decide) hg fun _ _ => ⟨rfl, rfl⟩
  case sel =>
    refine lanes_of_regs (out := fun t => t.sel x) rfl (by decide) fun t => ?_
    by_cases hp : t.pred (x.ps.getD 127).toNat
    · simp only [Thread.sel, hp, if_true]
    · cases hb : x.b <;> simp only [Thread.sel, hp, hb] <;> rfl
  case bfe | bfi | mov | movi | lea => exact lanes_of_regs rfl (by decide) fun _ => rfl

/-! What a write at the home can touch. -/

/-- `s` with everything that a write at the home can touch as it is in `s'`: memory and the way to the media (R294, R334, R342), tags and
forced saves (R344, R347), poison (R354), wear (R398), released waiters (R180), messages to the host (R381). -/
def State.homeAs (s s' : State) : State :=
  { s with mem := s'.mem, media := s'.media, pq := s'.pq, dirty := s'.dirty, tags := s'.tags, poison := s'.poison, woken := s'.woken
           ckpt := s'.ckpt, power := s'.power, cmd := { s.cmd with outbox := s'.cmd.outbox } }

/-- Two states differ at most in what a write at the home can touch. -/
def HomeOnly (s s' : State) : Prop := s' = s.homeAs s'

theorem HomeOnly.refl (s : State) : HomeOnly s s := rfl

theorem HomeOnly.trans {a b c : State} (h : HomeOnly a b) (g : HomeOnly b c) : HomeOnly a c := by
  have e : (a.homeAs b).homeAs c = a.homeAs c := rfl
  unfold HomeOnly at h g ⊢
  rwa [← e, ← h]

theorem HomeOnly.foldl {α : Type} {f : State → α → State} (hf : ∀ s a, HomeOnly s (f s a)) (xs : List α) (s : State) :
    HomeOnly s (xs.foldl f s) := by
  induction xs generalizing s with
  | nil => exact .refl s
  | cons x xs ih => exact (hf s x).trans (ih _)

theorem State.forceLine_homeOnly (s : State) (line : Nat) : HomeOnly s (s.forceLine line) := by
  unfold State.forceLine
  split
  · exact .refl s
  · split
    · rfl
    · exact .refl s

theorem State.setTag_homeOnly (s : State) (line : Nat) (t : Byte) : HomeOnly s (s.setTag line t) := rfl

theorem State.drainFirst_homeOnly (s : State) (n : Nat) : HomeOnly s (s.drainFirst n) := rfl

theorem State.pqPut_homeOnly (s : State) (bs : List PqEntry) : HomeOnly s (s.pqPut bs) := by
  unfold State.pqPut
  split <;> rfl

theorem State.persistBytes_homeOnly (s : State) (bs : List PqEntry) : HomeOnly s (s.persistBytes bs) :=
  (s.pqPut_homeOnly bs).trans (State.drainFirst_homeOnly _ _)

theorem State.flushDirty_homeOnly (s : State) (line : Nat) : HomeOnly s (s.flushDirty line) := by
  unfold State.flushDirty
  split
  · exact HomeOnly.trans (b := { s with dirty := _ }) rfl (State.persistBytes_homeOnly _ _)
  · exact .refl s

theorem State.markDirty_homeOnly (s : State) (scm : List (Nat × Byte)) : HomeOnly s (s.markDirty scm) := by
  unfold State.markDirty
  dsimp only
  generalize List.take _ _ = xs
  exact HomeOnly.trans (b := { s with dirty := _ }) rfl (.foldl State.flushDirty_homeOnly xs _)

theorem State.writeScm_homeOnly (s : State) (scm : List (Nat × Byte)) (p nt : Bool) : HomeOnly s (s.writeScm scm p nt) := by
  unfold State.writeScm
  split
  · exact .refl s
  · split
    · exact s.pqPut_homeOnly scm
    · split
      · exact s.persistBytes_homeOnly _
      · exact s.markDirty_homeOnly scm

theorem State.portWake_homeOnly (s : State) (bs : List (Nat × Byte)) : HomeOnly s (s.portWake bs) := by
  unfold State.portWake
  split <;> rfl

theorem State.writeBytes_homeOnly (s : State) (bs : List (Nat × Byte)) : HomeOnly s (s.writeBytes bs) := by
  unfold State.writeBytes
  dsimp only
  generalize (linesOf bs 64).filter _ = hbm
  have hforce : HomeOnly s (hbm.foldl (fun s l => s.forceLine l) s) := .foldl State.forceLine_homeOnly hbm s
  have htag (s : State) : HomeOnly s (hbm.foldl (fun s l => s.setTag l (s.ckpt.step.setWidth 8)) s) :=
    .foldl (fun s l => s.setTag_homeOnly l _) hbm s
  generalize hbm.foldl (fun s l => s.forceLine l) s = s1 at hforce ⊢
  have h2 : HomeOnly s { s1 with mem := memSets s1.mem bs } := hforce.trans rfl
  have h3 := h2.trans (htag _)
  generalize hbm.foldl _ _ = s3 at h3 ⊢
  exact h3.trans rfl

/-- A write at the home touches memory and what goes with it, and nothing else. -/
theorem State.writeHome_homeOnly (s : State) (bs : List (Nat × Byte)) (p : Bool) (nt : Bool := false) :
    HomeOnly s (s.writeHome bs p nt) :=
  ((s.writeBytes_homeOnly bs).trans (State.writeScm_homeOnly _ _ p nt)).trans (State.portWake_homeOnly _ bs)

theorem HomeOnly.threads {s s' : State} (h : HomeOnly s s') : s'.threads = s.threads := by rw [h]; rfl

theorem HomeOnly.trapWr {s s' : State} (h : HomeOnly s s') : s'.cmd.trapWr = s.cmd.trapWr := by rw [h]; rfl

/-! What ends stays ended: what the consequences of a stop leave of the threads and of the ridge pair's queues. -/

/-- Threads looked up by uid after a change of each that keeps its uid. -/
theorem State.thread?_of_map {s s' : State} {g : Thread → Thread} (h : s'.threads = s.threads.map g) (hu : ∀ t, (g t).uid = t.uid)
    (uid : Nat) : s'.thread? uid = (s.thread? uid).map g := by
  have hp : ((fun t : Thread => t.uid == uid) ∘ g) = fun t => t.uid == uid := funext fun t => by simp [hu]
  simp only [State.thread?, h, List.find?_map, hp]

theorem State.uid_of_thread? {s : State} {uid : Nat} {t : Thread} (h : s.thread? uid = some t) : t.uid = uid := by
  simpa using List.find?_some h

theorem State.thread?_isSome_of_mem {s : State} {t : Thread} (h : t ∈ s.threads) : (s.thread? t.uid).isSome := by
  simp only [State.thread?, List.find?_isSome]
  exact ⟨t, h, by simp⟩

/-- The same thread, exited if it had exited. -/
def SameEnd (t t' : Thread) : Prop := t'.uid = t.uid ∧ (t.status = .exited → t'.status = .exited)

theorem SameEnd.refl (t : Thread) : SameEnd t t := ⟨rfl, id⟩

theorem SameEnd.trans {a b c : Thread} (h : SameEnd a b) (k : SameEnd b c) : SameEnd a c := ⟨k.1.trans h.1, fun hx => k.2 (h.2 hx)⟩

theorem SameEnd.ite {p : Prop} [Decidable p] {t a b : Thread} (ha : p → SameEnd t a) (hb : ¬ p → SameEnd t b) :
    SameEnd t (if p then a else b) := by
  split
  · exact ha ‹_›
  · exact hb ‹_›

/-- The threads are the same, one that has exited stays so, and the ridge pair's read index and the waiting events stay. -/
structure EndsKept (s s' : State) : Prop where
  threads : ∃ g : Thread → Thread, s'.threads = s.threads.map g ∧ ∀ t, SameEnd t (g t)
  trapRd : s'.cmd.trapRd = s.cmd.trapRd
  eventWait : s'.cmd.eventWait = s.cmd.eventWait

/-- The thread of this uid is there and has exited. -/
def State.hasExited (s : State) (uid : Nat) : Prop := (s.thread? uid).map (·.status) = some .exited

namespace EndsKept

theorem of_same {s s' : State} (h : s'.threads = s.threads) (hr : s'.cmd.trapRd = s.cmd.trapRd)
    (he : s'.cmd.eventWait = s.cmd.eventWait) : EndsKept s s' :=
  ⟨⟨id, by simp [h], .refl⟩, hr, he⟩

theorem refl (s : State) : EndsKept s s := of_same rfl rfl rfl

theorem trans {a b c : State} (h : EndsKept a b) (k : EndsKept b c) : EndsKept a c := by
  obtain ⟨⟨f, hf, hf'⟩, hr, he⟩ := h
  obtain ⟨⟨g, hg, hg'⟩, kr, ke⟩ := k
  exact ⟨⟨g ∘ f, by rw [hg, hf, List.map_map], fun t => (hf' t).trans (hg' _)⟩, kr.trans hr,
    ke.trans he⟩

/-- `trans` behind an update that touches none of it. -/
theorem after {a b c : State} (k : EndsKept b c) (h : b.threads = a.threads) (hr : b.cmd.trapRd = a.cmd.trapRd)
    (he : b.cmd.eventWait = a.cmd.eventWait) : EndsKept a c := (of_same h hr he).trans k

theorem foldl {α : Type} {f : State → α → State} (hf : ∀ s a, EndsKept s (f s a)) (xs : List α) (s : State) :
    EndsKept s (xs.foldl f s) := by
  induction xs generalizing s with
  | nil => exact refl s
  | cons x xs ih => exact (hf s x).trans (ih _)

theorem of_homeOnly {s s' : State} (h : HomeOnly s s') : EndsKept s s' := by
  rw [h]; exact of_same rfl rfl rfl

theorem modThreads (s : State) (uids : List Nat) {f : Thread → Thread} (hf : ∀ t, SameEnd t (f t)) :
    EndsKept s (s.modThreads uids f) :=
  ⟨⟨_, rfl, fun t => .ite (fun _ => hf t) fun _ => .refl t⟩, rfl, rfl⟩

theorem modThread (s : State) (uid : Nat) {f : Thread → Thread} (hf : ∀ t, SameEnd t (f t)) : EndsKept s (s.modThread uid f) :=
  ⟨⟨_, rfl, fun t => .ite (fun _ => hf t) fun _ => .refl t⟩, rfl, rfl⟩

theorem thread? {s s' : State} (h : EndsKept s s') {uid : Nat} (hs : (s.thread? uid).isSome) : (s'.thread? uid).isSome := by
  obtain ⟨g, hg, hg'⟩ := h.threads
  simpa [State.thread?_of_map hg (fun t => (hg' t).1)] using hs

theorem hasExited {s s' : State} (h : EndsKept s s') {uid : Nat} (hx : s.hasExited uid) : s'.hasExited uid := by
  obtain ⟨g, hg, hg'⟩ := h.threads
  unfold State.hasExited at hx ⊢
  rw [State.thread?_of_map hg fun t => (hg' t).1]
  cases ht : s.thread? uid with
  | none => simp [ht] at hx
  | some t => simp only [ht, Option.map_some, Option.some.injEq] at hx ⊢; exact (hg' t).2 hx

end EndsKept

/-! Machine checks, and the barrier objects (R178, R263, R354). -/

theorem State.writeHome_endsKept (s : State) (bs : List (Nat × Byte)) (p : Bool) : EndsKept s (s.writeHome bs p) :=
  .of_homeOnly (s.writeHome_homeOnly bs p)

theorem State.clearArrivals_endsKept (s : State) (uids : List Nat) : EndsKept s (s.clearArrivals uids) :=
  ⟨⟨_, rfl, fun t => .ite (fun _ => by split <;> exact .refl t) fun _ => .refl t⟩, rfl, rfl⟩

/-- A machine check stops live threads alone (R147). -/
theorem State.machineCheck_endsKept (s : State) (uids : List Nat) (c : Cause) (ilen : Nat) (pc : DWord) (late : Bool := false) :
    EndsKept s (s.machineCheck uids c ilen pc late) := by
  unfold State.machineCheck
  dsimp only
  generalize List.map _ (s.threads.filter _) = us
  exact (s.clearArrivals_endsKept us).trans
    ⟨⟨_, rfl, fun t => .ite (fun h => ⟨rfl, fun hx => by simp [hx] at h⟩) fun _ => .refl t⟩, rfl, rfl⟩

theorem State.barPut_endsKept (s : State) (k : Nat) (b : BarObj) : EndsKept s (s.barPut k b) := s.writeHome_endsKept _ _

theorem State.barInflight_endsKept (s : State) (k : Nat) (up : Bool) : EndsKept s (s.barInflight k up) := by
  unfold State.barInflight
  dsimp only
  split
  · exact .refl s
  · exact s.barPut_endsKept _ _

theorem State.creditBar_endsKept (s : State) (uid k n cond : Nat) (poisoned : Bool) :
    EndsKept s (s.creditBar uid k n cond poisoned) := by
  unfold State.creditBar
  split
  · exact .refl s
  · split
    · exact s.machineCheck_endsKept _ _ _ _
    · exact s.barPut_endsKept _ _

theorem State.dropParty_endsKept (s : State) (p : Party) : EndsKept s (s.dropParty p) := by
  unfold State.dropParty
  split
  · exact s.machineCheck_endsKept _ _ _ _
  · exact s.barPut_endsKept _ _

theorem State.dropParties_endsKept (s : State) (lnum idx : Nat) (sel : PUnit → Bool) : EndsKept s (s.dropParties lnum idx sel) := by
  unfold State.dropParties
  split
  · exact .refl s
  · exact (EndsKept.foldl State.dropParty_endsKept _ s).trans (.of_same rfl rfl rfl)

/-! Engine commands (R172, R374). -/

theorem State.packetDone_endsKept (s : State) (r : Option (Nat × Nat)) : EndsKept s (s.packetDone r) := by
  unfold State.packetDone
  split <;> exact .of_same rfl rfl rfl

theorem State.setCmd_endsKept (s : State) (c : EngCmd) (done : Bool) : EndsKept s (s.setCmd c done) := by
  unfold State.setCmd
  dsimp only
  split
  · exact (State.packetDone_endsKept _ _).after rfl rfl rfl
  · exact .of_same rfl rfl rfl

theorem State.cancelCmd_endsKept (s : State) (c : EngCmd) (tell : Bool := true) : EndsKept s (s.cancelCmd c tell) := by
  have hcore : EndsKept s (if s.barOpen c then
      ((s.setCmd c true).barInflight c.bar false).creditBar c.uid c.bar (c.total - c.bytes) 0 true
    else s.setCmd { c.rewound with dying := true, fault := none, swap := none } false) := by
    split
    · exact ((s.setCmd_endsKept c true).trans (State.barInflight_endsKept _ _ _)).trans (State.creditBar_endsKept _ _ _ _ _ _)
    · exact s.setCmd_endsKept _ false
  unfold State.cancelCmd
  dsimp only
  split
  · split
    · exact hcore.trans (.of_same rfl rfl rfl)
    · exact hcore
  · exact hcore

/-! Queue locks (R198 to R200). -/

theorem State.lockPut_endsKept (s : State) (dpa owner : Nat) (q : List Nat) : EndsKept s (s.lockPut dpa owner q) :=
  (s.writeHome_endsKept _ _).trans (.of_same rfl rfl rfl)

theorem State.lockGrant_endsKept (s : State) (dpa : Nat) : EndsKept s (s.lockGrant dpa) := by
  unfold State.lockGrant
  split
  · exact .refl s
  · split
    · exact .refl s
    · split
      · exact (s.lockPut_endsKept _ _ _).trans (.modThread _ _ fun t => .refl t)
      · exact s.lockPut_endsKept _ _ _

theorem State.lockRelease_endsKept (s : State) (dpa : Nat) : EndsKept s (s.lockRelease dpa) :=
  (s.lockPut_endsKept _ _ _).trans (State.lockGrant_endsKept _ _)

theorem State.lockLeave_endsKept (s : State) (t : Thread) (release : Bool) : EndsKept s (s.lockLeave t release) := by
  refine EndsKept.foldl (fun s l => ?_) s.locks s
  dsimp only
  generalize l.2.filter (· != t.uid) = q
  have h1 : EndsKept s (if q.length == l.2.length then s else s.lockPut l.1 (s.lockOwner l.1) q) := by
    split
    · exact .refl s
    · exact s.lockPut_endsKept _ _ _
  generalize (if q.length == l.2.length then s else s.lockPut l.1 (s.lockOwner l.1) q) = s1 at h1 ⊢
  split
  · exact h1.trans (State.lockRelease_endsKept _ _)
  · exact h1

/-! The end of threads, waves and workgroups (R82, R202, R263, R264). -/

theorem State.keepRecord_endsKept (s : State) (t : Thread) : EndsKept s (s.keepRecord t) := by
  unfold State.keepRecord
  split
  · split <;> exact .of_same rfl rfl rfl
  · exact .refl s

theorem State.dropIdent_endsKept (s : State) (w : Wave) : EndsKept s (s.dropIdent w) := by
  unfold State.dropIdent
  split <;> exact .of_same rfl rfl rfl

theorem State.dropReserved_endsKept (s : State) (w : Wave) : EndsKept s (s.dropReserved w) := by
  unfold State.dropReserved
  split <;> exact .of_same rfl rfl rfl

theorem State.waveOver_endsKept (s : State) (w : Wave) : EndsKept s (s.waveOver w) := by
  unfold State.waveOver
  split
  · exact .refl s
  · exact (((s.dropParties_endsKept _ _ _).trans (State.dropIdent_endsKept _ w)).trans (State.dropReserved_endsKept _ w)).trans
      (.of_same rfl rfl rfl)

/-- A thread as it ends (R82). -/
def Thread.ended (t : Thread) : Thread := { t with status := .exited, pend := [], hold := .free }

/-- The threads end before anything that follows from it. -/
theorem State.endThreads_after (s : State) (uids : List Nat) :
    EndsKept (((uids.filterMap s.thread?).foldl (fun s t => s.keepRecord t) s).modThreads uids Thread.ended) (s.endThreads uids) := by
  unfold State.endThreads
  dsimp only
  refine ((EndsKept.foldl (fun s t => ?_) _ _).trans (.foldl (fun s t => ?_) _ _)).trans (.foldl (fun s wid => ?_) _ _)
  · exact (s.lockLeave_endsKept t true).trans (.of_same rfl rfl rfl)
  · split
    · exact s.dropParties_endsKept _ _ _
    · exact .refl s
  · split
    · exact s.waveOver_endsKept _
    · exact .refl s

theorem State.endThreads_endsKept (s : State) (uids : List Nat) : EndsKept s (s.endThreads uids) :=
  ((EndsKept.foldl State.keepRecord_endsKept _ s).trans (.modThreads (f := Thread.ended) _ uids fun _ => ⟨rfl, fun _ => rfl⟩)).trans
    (s.endThreads_after uids)

/-- Threads that are ended have exited (R82). -/
theorem State.endThreads_hasExited (s : State) {uids : List Nat} {uid : Nat} (hm : uid ∈ uids) (hs : (s.thread? uid).isSome) :
    (s.endThreads uids).hasExited uid := by
  refine (s.endThreads_after uids).hasExited ?_
  have hs := (EndsKept.foldl State.keepRecord_endsKept (uids.filterMap s.thread?) s).thread? hs
  generalize List.foldl _ s _ = s0 at hs ⊢
  obtain ⟨t, ht⟩ := Option.isSome_iff_exists.1 hs
  unfold State.hasExited
  rw [State.thread?_of_map (s' := s0.modThreads uids Thread.ended) rfl (fun t => by split <;> rfl), ht]
  simp [State.uid_of_thread? ht, hm, Thread.ended]

theorem State.savedRelease_endsKept (s : State) (g : Wg) : EndsKept s (s.savedRelease g) := by
  unfold State.savedRelease
  split
  · exact .refl s
  · refine .foldl (fun s w => ?_) _ s
    split
    · split
      · exact s.lockRelease_endsKept _
      · exact .refl s
    · exact .refl s

/-- What a kill does before the threads end (R264). -/
def State.killPrepared (s : State) (lnum idx : Nat) : State :=
  let s1 := s.dropFaulted lnum idx
  let s2 := (s1.cmds.filter fun c => c.lnum == lnum && c.wg == idx).foldl (fun s c => s.cancelCmd c) s1
  match s2.wg? lnum idx with | some g => s2.savedRelease g | none => s2

theorem State.killWg_eq (s : State) (lnum idx : Nat) : s.killWg lnum idx =
    ((s.killPrepared lnum idx).endThreads ((s.wgThreads lnum idx).map (·.uid))).modWg lnum idx fun g => { g with killed := true } := rfl

theorem State.killPrepared_endsKept (s : State) (lnum idx : Nat) : EndsKept s (s.killPrepared lnum idx) := by
  have h1 : EndsKept s (s.dropFaulted lnum idx) := .of_same rfl rfl rfl
  have h2 := h1.trans (.foldl (fun s c => s.cancelCmd_endsKept c)
    ((s.dropFaulted lnum idx).cmds.filter fun c => c.lnum == lnum && c.wg == idx) _)
  unfold State.killPrepared
  dsimp only
  split
  · exact h2.trans (State.savedRelease_endsKept _ _)
  · exact h2

theorem State.killWg_endsKept (s : State) (lnum idx : Nat) : EndsKept s (s.killWg lnum idx) := by
  rw [s.killWg_eq]
  exact ((s.killPrepared_endsKept lnum idx).trans (State.endThreads_endsKept _ _)).trans (.of_same rfl rfl rfl)

/-- The threads of a workgroup that is killed have exited (R264). -/
theorem State.killWg_hasExited {s : State} {lnum idx : Nat} {t : Thread} (ht : t ∈ s.wgThreads lnum idx) :
    (s.killWg lnum idx).hasExited t.uid := by
  rw [s.killWg_eq]
  have hs : (s.thread? t.uid).isSome := State.thread?_isSome_of_mem (List.mem_filter.1 ht).1
  exact State.endThreads_hasExited _ (List.mem_map_of_mem ht) ((s.killPrepared_endsKept lnum idx).thread? hs)

theorem State.launchCheck_endsKept (s : State) (lnum : Nat) : EndsKept s (s.launchCheck lnum) := by
  unfold State.launchCheck
  split
  · exact .refl s
  · split
    · exact (State.packetDone_endsKept _ _).after rfl rfl rfl
    · exact .refl s

theorem State.killAny_endsKept (s : State) (lnum idx : Nat) : EndsKept s (s.killAny lnum idx) := by
  unfold State.killAny
  split
  · exact .refl s
  · split
    · exact .refl s
    · exact (s.killWg_endsKept lnum idx).trans (State.launchCheck_endsKept _ _)
    · exact (s.killWg_endsKept lnum idx).trans ((State.launchCheck_endsKept _ _).after rfl rfl rfl)

theorem State.tretKill_endsKept (s : State) (t : Thread) : EndsKept s (s.tretKill t) := by
  unfold State.tretKill
  split
  · exact .refl s
  · split
    · exact s.endThreads_endsKept _
    · exact s.killAny_endsKept _ _

/-! Stores one after another. -/

theorem lastByte_append (xs ys : List (Nat × Byte)) (k : Nat) :
    lastByte (xs ++ ys) k = (lastByte ys k).orElse fun _ => lastByte xs k := by
  induction xs with
  | nil => cases h : lastByte ys k <;> simp [lastByte_nil, h]
  | cons x xs ih => rw [List.cons_append, lastByte_cons, ih, lastByte_cons]; cases lastByte ys k <;> rfl

/-- Two stores are one store of the bytes of both, the later ones last. -/
theorem Stored.trans {a b c : State} {xs ys : List (Nat × Byte)} (h : Stored a b xs) (g : Stored b c ys) : Stored a c (xs ++ ys) := by
  intro k
  rw [g k, h k, lastByte_append]
  cases lastByte ys k <;> rfl

theorem Stored.of_mem {s a b : State} {bs : List (Nat × Byte)} (h : Stored s a bs) (hm : b.mem = a.mem) : Stored s b bs :=
  fun k => (congrArg (memGet · k) hm).trans (h k)

/-- Two writes at the home are a store of their bytes in turn. -/
theorem State.writeHome_writeHome_stored (s : State) (xs ys : List (Nat × Byte)) (p q : Bool) :
    Stored s ((s.writeHome xs p).writeHome ys q) (xs ++ ys) := (s.writeHome_stored xs p).trans (State.writeHome_stored _ ys q)

theorem State.writeHome_writeHome_homeOnly (s : State) (xs ys : List (Nat × Byte)) (p q : Bool) :
    HomeOnly s ((s.writeHome xs p).writeHome ys q) := (s.writeHome_homeOnly xs p).trans (State.writeHome_homeOnly _ ys q)

/-! Trap records (R215, R378). -/

/-- The bytes of a record that enters the queue next (log 14). -/
def State.trapBytes (s : State) (handle : Word) (r : TrapRec) : List (Nat × Byte) :=
  cellsAt (Config.trapqBase + 32 * (s.cmd.trapWr % 4096)) (r.bytes handle)

@[simp] theorem State.wakeHalt0_mem (s : State) (core : Nat) : (s.wakeHalt0 core).mem = s.mem := rfl

@[simp] theorem State.wakeHalt0_cmd (s : State) (core : Nat) : (s.wakeHalt0 core).cmd = s.cmd := rfl

theorem State.trapPut_eq (s : State) (handle : Word) (r : TrapRec) : s.trapPut handle r =
    State.wakeHalt0 { s.writeHome (s.trapBytes handle r) false with cmd :=
      { (s.writeHome (s.trapBytes handle r) false).cmd with
        trapWr := ((s.writeHome (s.trapBytes handle r) false).cmd.trapWr + 1) % 2 ^ 32 } } 688 := by
  simp only [State.trapPut, State.trapBytes]

theorem State.trapPut_mem (s : State) (handle : Word) (r : TrapRec) :
    (s.trapPut handle r).mem = (s.writeHome (s.trapBytes handle r) false).mem := by
  rw [s.trapPut_eq, State.wakeHalt0_mem]

/-- A record enters the queue as a store of its bytes. -/
theorem State.trapPut_stored (s : State) (handle : Word) (r : TrapRec) : Stored s (s.trapPut handle r) (s.trapBytes handle r) :=
  (s.writeHome_stored (s.trapBytes handle r) false).of_mem (s.trapPut_mem handle r)

theorem State.trapPut_trapWr (s : State) (handle : Word) (r : TrapRec) :
    (s.trapPut handle r).cmd.trapWr = (s.cmd.trapWr + 1) % 2 ^ 32 := by
  have hw : (s.writeHome (s.trapBytes handle r) false).cmd.trapWr = s.cmd.trapWr :=
    (s.writeHome_homeOnly (s.trapBytes handle r) false).trapWr
  rw [s.trapPut_eq, State.wakeHalt0_cmd, hw]

theorem State.thread?_modThread_self {s : State} {t : Thread} {f : Thread → Thread} (h : s.thread? t.uid = some t)
    (hu : ∀ t, (f t).uid = t.uid) : (s.modThread t.uid f).thread? t.uid = some (f t) := by
  rw [State.thread?_of_map (s' := s.modThread t.uid f) rfl (fun x => by split <;> simp [hu]), h]
  simp

/-- The record's event at the ridge pair (R221) wakes no thread but those held by HALT. -/
theorem State.thread?_wakeHalt0 {s : State} {t : Thread} (core : Nat) (h : s.thread? t.uid = some t) (hf : t.hold = .free)
    (hone : ∀ x ∈ s.threads, x.uid = t.uid → x = t) : (s.wakeHalt0 core).thread? t.uid = some t := by
  have hno : t.uid ∉ (s.threads.filter fun x => x.loc.core == core && x.hold == .halt0).map (·.uid) := by
    intro hm
    obtain ⟨x, hx, hxu⟩ := List.mem_map.1 hm
    obtain ⟨hx, hh⟩ := List.mem_filter.1 hx
    obtain rfl := hone x hx hxu
    simp [hf] at hh
  rw [State.thread?_of_map (s' := s.wakeHalt0 core) rfl (fun x => by split <;> rfl), h]
  simp only [List.contains_iff_mem, hno, Option.map_some, if_false]

theorem State.thread?_trapPut {s : State} {t : Thread} (handle : Word) (r : TrapRec) (h : s.thread? t.uid = some t) (hf : t.hold = .free)
    (hone : ∀ x ∈ s.threads, x.uid = t.uid → x = t) : (s.trapPut handle r).thread? t.uid = some t := by
  have hw := (s.writeHome_homeOnly (s.trapBytes handle r) false).threads
  rw [s.trapPut_eq]
  refine State.thread?_wakeHalt0 688 ?_ hf ?_
  · simpa only [State.thread?, hw] using h
  · simpa only [hw] using hone

/-- TRAP_RECORD_POST of a placed thread whose trap has happened, with room in the queue (R74, R215). -/
theorem exec_trapRecordPost {s : State} {t : Thread} {r : TrapRec} {g : Wg} (h : s.thread? t.uid = some t)
    (hst : t.status = .stopped r false) (hg : s.wgOf t = some g) (hp : g.state = .placed) (hdue : r.due ≤ s.clock)
    (hroom : s.trapRoom = true) :
    exec (.trapRecordPost t.uid) s =
      .next ((s.trapPut (s.handleOf t.loc) r).modThread t.uid fun x => { x with status := .stopped r true }) := by
  show execTrapRecordPost t.uid s = _
  simp [execTrapRecordPost, hroom, h, hst, hg, hp, Nat.not_lt.2 hdue]

/-! The ridge pair's disposal of a trap (R378). -/

/-- The stopped thread of a handle, as it was found (R216). -/
theorem State.stoppedBy_some {s : State} {h : Word} {u : Thread} {r : TrapRec} (hs : s.stoppedBy h = some (u, r)) :
    u ∈ s.threads ∧ (∃ p, u.status = .stopped r p) ∧ ∃ g, s.wgOf u = some g ∧ g.state = .placed := by
  obtain ⟨t, ht, hm⟩ := List.exists_of_findSome?_eq_some hs
  split at hm
  · next r' p g hst hg =>
    split at hm
    · next hc =>
      obtain ⟨rfl, rfl⟩ : t = u ∧ r' = r := by simpa using hm
      simp only [Bool.and_eq_true, beq_iff_eq] at hc
      exact ⟨ht, ⟨p, hst⟩, g, hg, hc.1.1⟩
    · simp at hm
  · simp at hm

/-- A kill by the handle's thread ends that thread (R264, R373). -/
theorem State.tretKill_hasExited {s : State} {u : Thread} {r : TrapRec} {p : Bool} {g : Wg} (hu : u ∈ s.threads)
    (hst : u.status = .stopped r p) (hg : s.wgOf u = some g) (hp : g.state = .placed) : (s.tretKill u).hasExited u.uid := by
  obtain ⟨w, hw, hwg⟩ := Option.bind_eq_some_iff.1 hg
  unfold State.tretKill
  simp only [hw]
  split
  · exact s.endThreads_hasExited (by simp) (State.thread?_isSome_of_mem hu)
  · have hm : u ∈ s.wgThreads w.lnum w.wg := List.mem_filter.2 ⟨hu, by simp [hw, hst]⟩
    simp only [State.killAny, hwg, hp]
    exact (State.launchCheck_endsKept _ _).hasExited (State.killWg_hasExited hm)

theorem State.killHandle_endsKept (s : State) (h : Word) : EndsKept s (s.killHandle h) := by
  unfold State.killHandle
  split
  · exact s.tretKill_endsKept _
  · exact .refl s

theorem State.killHandle_hasExited {s : State} {h : Word} {u : Thread} {r : TrapRec} (hs : s.stoppedBy h = some (u, r)) :
    (s.killHandle h).hasExited u.uid := by
  obtain ⟨hu, ⟨p, hst⟩, g, hg, hp⟩ := State.stoppedBy_some hs
  simp only [State.killHandle, hs]
  exact State.tretKill_hasExited hu hst hg hp

/-- The bytes of the next record in the trap queue (R378, log 14). -/
def State.nextTrap (s : State) : List Byte := (List.range 32).map fun i => memGet s.mem (Config.trapqBase + 32 * (s.cmd.trapRd % 4096) + i)

/-- The ridge pair has read the next record and reports it as a trap event (R378, R379). -/
def State.trapReported (s : State) : State :=
  { s with cmd := { s.cmd with trapRd := (s.cmd.trapRd + 1) % 2 ^ 32 } }.postEvent 1 s.nextTrap (field s.nextTrap 0x18 4)

theorem State.trapReported_event (s : State) :
    ∃ e ∈ s.trapReported.cmd.eventWait, e.type = 1 ∧ e.body = padTo 32 s.nextTrap :=
  ⟨_, List.mem_append_right _ (List.mem_singleton.2 rfl), rfl, rfl⟩

/-- TRAP_DISPOSE of a record that is no machine check and no HALTED, of a rafter core's thread: by its launch's TPOL (R378). -/
theorem exec_trapDispose {s : State} {l : Launch} (hrun : s.cmd.ridge = .running) (hedit : s.mmu.ilvEdit = false)
    (hn : 0 < (s.cmd.trapWr + 2 ^ 32 - s.cmd.trapRd) % 2 ^ 32) (hn' : (s.cmd.trapWr + 2 ^ 32 - s.cmd.trapRd) % 2 ^ 32 ≤ 4096)
    (hl : s.launch? (field s.nextTrap 0x18 4) = some l) (hc : field s.nextTrap 4 1 < 0x40) (hc' : field s.nextTrap 4 1 ≠ 0x38)
    (hcore : (BitVec.ofNat 32 (field s.nextTrap 0 4)).toNat / 2 ^ 22 < 672) :
    exec .trapDispose s = .next (if l.tpol = 0 then s.trapReported.killHandle (BitVec.ofNat 32 (field s.nextTrap 0 4)) else s.trapReported) := by
  have hbs : (List.range 32).map (fun i => memGet s.mem (Config.trapqBase + 32 * (s.cmd.trapRd % 4096) + i)) = s.nextTrap := rfl
  have hridge : (s.cmd.ridge != .running) = false := by simp [hrun]
  have hempty : ((s.cmd.trapWr + 2 ^ 32 - s.cmd.trapRd) % 2 ^ 32 == 0) = false := beq_false_of_ne (Nat.ne_of_gt hn)
  have hmc : ¬ 0x40 ≤ field s.nextTrap 4 1 := Nat.not_le.2 hc
  have hhalted : (field s.nextTrap 4 1 == cHalted.cause.toNat) = false := beq_false_of_ne hc'
  have hworker : ¬ 672 ≤ (BitVec.ofNat 32 (field s.nextTrap 0 4)).toNat / 2 ^ 22 := Nat.not_le.2 hcore
  have hl' : s.trapReported.launch? (field s.nextTrap 0x18 4) = some l := hl
  show execTrapDispose s = _
  unfold execTrapDispose
  simp only [hbs, hridge, hempty, hedit, Nat.not_lt.2 hn', hmc, hhalted, hworker, decide_false, Bool.false_and, Bool.or_self,
    Bool.false_eq_true, if_false]
  change (if ((s.trapReported.launch? _).map (·.tpol)) == some 0 then Host.Outcome.next (s.trapReported.killHandle _)
    else .next s.trapReported) = _
  rw [hl']
  by_cases h0 : l.tpol = 0 <;> simp [h0]

/-! Events (R379). -/

/-- The two writes of an event: its record in the host's ring, and then the producer count in the ring's header (log 31). -/
def State.eventWritten (s : State) (e : EventRec) : State :=
  let base := s.cmd.eventBase.toNat
  (s.writeHome (cellsAt (s.hostKey (base + 64 + 64 * (e.seq % max 1 s.cmd.eventSize))) e.bytes) false).writeHome
    (bytesAt (s.hostKey base) 4 ((e.seq + 1) % 2 ^ 32)) false

theorem State.eventWritten_stored (s : State) (e : EventRec) : Stored s (s.eventWritten e)
    (cellsAt (s.hostKey (s.cmd.eventBase.toNat + 64 + 64 * (e.seq % max 1 s.cmd.eventSize))) e.bytes ++
      bytesAt (s.hostKey s.cmd.eventBase.toNat) 4 ((e.seq + 1) % 2 ^ 32)) :=
  s.writeHome_writeHome_stored _ _ false false

theorem State.eventWritten_threads (s : State) (e : EventRec) : (s.eventWritten e).threads = s.threads :=
  (s.writeHome_writeHome_homeOnly _ _ false false).threads

/-- EVENT_POST with room in the ring (R379). -/
theorem exec_eventPost {s : State} {e : EventRec} {rest : List EventRec} (hw : s.cmd.eventWait = e :: rest)
    (hroom : (e.seq + 2 ^ 32 - s.readHome s.cmd.eventWord.toNat 4) % 2 ^ 32 < s.cmd.eventSize)
    (hedit : s.editHolds [s.cmd.eventWord.toNat] = false)
    (hap : s.apertureOk (s.cmd.eventBase.toNat + 64 + 64 * (e.seq % max 1 s.cmd.eventSize) + 63) = true) :
    exec .eventPost s = .next { s.eventWritten e with cmd := { (s.eventWritten e).cmd with eventWait := rest } } := by
  have hsize : s.cmd.eventSize ≠ 0 := by omega
  have hpost : ¬ (s.editHolds [s.cmd.eventWord.toNat] || s.cmd.eventSize == 0 ||
      s.cmd.eventSize ≤ (e.seq + 2 ^ 32 - s.readHome s.cmd.eventWord.toNat 4) % 2 ^ 32 ||
      !s.apertureOk (s.cmd.eventBase.toNat + 64 + 64 * (e.seq % max 1 s.cmd.eventSize) + 63)) = true := by
    simpa [hedit, hap, hsize] using hroom
  show execEventPost s = _
  unfold execEventPost
  rw [hw]
  exact if_neg hpost

/-! Fault records (R306). -/

/-- The two writes of a fault record: the next one in the buffer, and then the count of records. -/
def State.faultWritten (s : State) (r : FaultRec) : State :=
  let m := s.mmu
  (s.writeHome (cellsAt (s.homed (m.fbase.toNat + 64 + 32 * (m.nextSeq % (m.fctl.toNat % 2 ^ 16)))) (r.bytes m.nextSeq)) false).writeHome
    (bytesAt (s.homed m.fbase.toNat) 4 ((m.nextSeq + 1) % 2 ^ 32)) false

theorem State.faultWritten_stored (s : State) (r : FaultRec) : Stored s (s.faultWritten r)
    (cellsAt (s.homed (s.mmu.fbase.toNat + 64 + 32 * (s.mmu.nextSeq % (s.mmu.fctl.toNat % 2 ^ 16)))) (r.bytes s.mmu.nextSeq) ++
      bytesAt (s.homed s.mmu.fbase.toNat) 4 ((s.mmu.nextSeq + 1) % 2 ^ 32)) :=
  s.writeHome_writeHome_stored _ _ false false

theorem State.faultWritten_threads (s : State) (r : FaultRec) : (s.faultWritten r).threads = s.threads :=
  (s.writeHome_writeHome_homeOnly _ _ false false).threads

/-- FAULT_RECORD_POST with room in the buffer (R306). -/
theorem exec_faultRecordPost {s : State} {r : FaultRec} (hen : s.mmu.fctl.getLsbD 31 = true)
    (hedit : s.editHolds [s.homed s.mmu.fbase.toNat] = false)
    (hroom : (s.mmu.nextSeq + 2 ^ 32 - s.faultRd) % 2 ^ 32 < s.mmu.fctl.toNat % 2 ^ 16)
    (hr : s.mmu.recs.find? (·.seq.isNone) = some r) :
    exec .faultRecordPost s = .next { s.faultWritten r with mmu := { (s.faultWritten r).mmu with
      nextSeq := (s.mmu.nextSeq + 1) % 2 ^ 32
      recs := (s.faultWritten r).mmu.recs.map fun (q : FaultRec) => if q.id == r.id then { q with seq := some s.mmu.nextSeq } else q } } := by
  have hpost : ¬ (!s.mmu.fctl.getLsbD 31 || s.editHolds [s.homed s.mmu.fbase.toNat] ||
      s.mmu.fctl.toNat % 2 ^ 16 ≤ (s.mmu.nextSeq + 2 ^ 32 - s.faultRd) % 2 ^ 32) = true := by
    simpa [hen, hedit] using hroom
  show execFaultRecordPost s = _
  unfold execFaultRecordPost
  simp only [if_neg hpost, hr, State.faultWritten]

/-- Settles O35: each event of the ridge pair by what it does when it may act, and the kill of a trap's workgroup by what every
consequence of a stop keeps (`EndsKept`). -/
theorem recordsArePosted : Obligations.RecordsArePosted := by
  unfold Obligations.RecordsArePosted
  refine fun s => ⟨?trap, ?dispose, ?event, ?fault⟩
  case trap =>
    intro t r g h hst hfree hg hp hdue hroom hone
    refine ⟨_, exec_trapRecordPost h hst hg hp hdue hroom, ?_, ?_, ?_⟩
    · rw [State.modThread_cmd, s.trapPut_trapWr]
    · exact (s.trapPut_stored _ r).of_mem (State.modThread_mem _ _ _)
    · exact State.thread?_modThread_self (State.thread?_trapPut _ r h hfree hone) fun _ => rfl
  case dispose =>
    intro bs n cause handle l hrun hedit hn hn' hl hc hc' hcore
    obtain ⟨e, he, htype, hbody⟩ := s.trapReported_event
    refine ⟨_, e, exec_trapDispose hrun hedit hn hn' hl hc hc' hcore, ?_⟩
    by_cases h0 : l.tpol = 0
    · have hk := s.trapReported.killHandle_endsKept handle
      rw [if_pos h0]
      exact ⟨hk.trapRd, hk.eventWait ▸ he, htype, hbody, fun h => absurd h0 h, fun _ u r hu => State.killHandle_hasExited hu⟩
    · rw [if_neg h0]
      exact ⟨rfl, he, htype, hbody, fun _ => ⟨rfl, rfl⟩, fun h => absurd h h0⟩
  case event =>
    intro e rest hw base slot hused hedit hap
    exact ⟨_, exec_eventPost hw hused hedit hap, rfl, s.eventWritten_threads e, (s.eventWritten_stored e).of_mem rfl⟩
  case fault =>
    intro r m nrec hen hedit hroom hr
    exact ⟨_, exec_faultRecordPost hen hedit hroom hr, s.faultWritten_threads r, rfl, (s.faultWritten_stored r).of_mem rfl⟩

end Sys2Proof.Machine
